-- ==== Sys2Proof/Word.lean ====
section
/-! DEFINITION. Word.lean: the plain types of the model: words, lanes, masks and sparse maps. -/

namespace Sys2Proof

/-- A scalar register word (R74). -/
abbrev Word := BitVec 64

/-- A lane mask: bit L is lane L (R9). -/
abbrev Mask := BitVec 64

/-- One byte. -/
abbrev Byte := BitVec 8

/-- The words of one vector register, one per lane (R74). -/
abbrev Lanes := Vector (BitVec 32) 64

/-- A store of `w`-bit cells by number: keys strictly rising, no zero cell listed; an unlisted cell reads 0
(R73, R436: what the device hands out is zeroed). -/
abbrev SMap (w : Nat) := List (Nat × BitVec w)

end Sys2Proof
end

