-- ==== Sys2Proof/Syntax.lean ====
section
/-! DEFINITION. Syntax.lean: one constructor per row of the opcode table, with the fields of its encoding
(R41 to R65) for an instruction word and the operands its rule names for an event. -/

namespace Sys2Proof

/-- An image in package flash (R457, R459): the signature's verdict, the version, the minimum version it carries,
and for a configuration image the harvest map, the fenced channels, PKGID, the power cap and the DEBUG bit. -/
structure FlashImage where
  firmware   : Bool
  signed     : Bool
  version    : Nat
  minVersion : Nat
  defects    : List (Nat × Nat)
  fenced     : List (Nat × Nat × Nat)
  pkgid      : BitVec 8
  pcap       : Nat
  debug      : Bool
  deriving DecidableEq, Repr

/-- One traffic class of one beat lane of a die link or I/O-die link (R443, R445, R446): lanes 0 to 49 lead one way, 50 to 99 the other
(DESIGN CHOICE, log 30). -/
structure LinkLane where
  link : Nat
  lane : Nat
  cls  : Nat
  deriving DecidableEq, Repr

/-- What one response of a load brings (R232, R239): the request's number, some of its lanes, and of a lane that is not aligned some of its
bytes. -/
structure LoadPart where
  req   : Nat
  lanes : BitVec 64
  bytes : BitVec 8
  deriving DecidableEq, Repr

/-- A partition's virtual function as one of the two host links presents it (R438, R450). -/
structure HostPort where
  link : Fin 2
  part : Nat
  deriving DecidableEq, Repr

/-- The hottest junction of the package, in degrees Celsius, and its die (R456, R462, R463). -/
structure HotSpot where
  die     : Nat
  celsius : Nat
  deriving DecidableEq, Repr

/-- The instructions and events of the opcode table. An instruction field has the width of its encoding: `st` is
ST (R40), `pk` is PK (R43), the others the register, immediate and selector fields of R55 to R65. (DESIGN CHOICE, log 64) -/
inductive Instr where
  /-- ADD (R104): Scalar add of sA and sB mod 2^64 into sD. -/
  | add (st : BitVec 3) (pk : BitVec 2) (d a b : BitVec 6)
  /-- SUB (R104): Scalar subtract of sB from sA mod 2^64 into sD. -/
  | sub (st : BitVec 3) (pk : BitVec 2) (d a b : BitVec 6)
  /-- MUL (R105): Low 64 bits of the product of sA and sB, through the scoreboard. -/
  | mul (st : BitVec 3) (pk : BitVec 2) (d a b : BitVec 6)
  /-- MULH (R105): High 64 bits of the signed 128-bit product. -/
  | mulh (st : BitVec 3) (pk : BitVec 2) (d a b : BitVec 6)
  /-- MULHN (R105): High 64 bits of the natural 128-bit product. -/
  | mulhn (st : BitVec 3) (pk : BitVec 2) (d a b : BitVec 6)
  /-- DIV (R105): Signed division truncating toward zero, with defined results for zero and overflow. -/
  | div (st : BitVec 3) (pk : BitVec 2) (d a b : BitVec 6)
  /-- DIVN (R105): Natural division, all ones on a zero divisor. -/
  | divn (st : BitVec 3) (pk : BitVec 2) (d a b : BitVec 6)
  /-- REM (R105): Signed remainder with the sign of the dividend. -/
  | rem (st : BitVec 3) (pk : BitVec 2) (d a b : BitVec 6)
  /-- REMN (R105): Natural remainder, the dividend on a zero divisor. -/
  | remn (st : BitVec 3) (pk : BitVec 2) (d a b : BitVec 6)
  /-- AND (R104): Bitwise AND of sA and sB. -/
  | and (st : BitVec 3) (pk : BitVec 2) (d a b : BitVec 6)
  /-- OR (R104): Bitwise OR of sA and sB. -/
  | or (st : BitVec 3) (pk : BitVec 2) (d a b : BitVec 6)
  /-- XOR (R104): Bitwise XOR of sA and sB. -/
  | xor (st : BitVec 3) (pk : BitVec 2) (d a b : BitVec 6)
  /-- ANDN (R104): sA AND NOT sB. -/
  | andn (st : BitVec 3) (pk : BitVec 2) (d a b : BitVec 6)
  /-- SHL (R106): Logical shift left by the natural count in sB. -/
  | shl (st : BitVec 3) (pk : BitVec 2) (d a b : BitVec 6)
  /-- SHR (R106): Logical shift right by the natural count in sB. -/
  | shr (st : BitVec 3) (pk : BitVec 2) (d a b : BitVec 6)
  /-- SRA (R106): Arithmetic shift right by the natural count in sB. -/
  | sra (st : BitVec 3) (pk : BitVec 2) (d a b : BitVec 6)
  /-- CLZ (R104): Count of leading zero bits of sA. -/
  | clz (st : BitVec 3) (pk : BitVec 2) (d a : BitVec 6)
  /-- POPC (R104): Count of set bits of sA. -/
  | popc (st : BitVec 3) (pk : BitVec 2) (d a : BitVec 6)
  /-- MIN (R104): Signed minimum of sA and sB. -/
  | min (st : BitVec 3) (pk : BitVec 2) (d a b : BitVec 6)
  /-- MINN (R104): Natural minimum of sA and sB. -/
  | minn (st : BitVec 3) (pk : BitVec 2) (d a b : BitVec 6)
  /-- MAX (R104): Signed maximum of sA and sB. -/
  | max (st : BitVec 3) (pk : BitVec 2) (d a b : BitVec 6)
  /-- MAXN (R104): Natural maximum of sA and sB. -/
  | maxn (st : BitVec 3) (pk : BitVec 2) (d a b : BitVec 6)
  /-- SEL (R108): Writes sA when old sD is nonzero, else sB. -/
  | sel (st : BitVec 3) (pk : BitVec 2) (d a b : BitVec 6)
  /-- MOV (R104): Copies sA to sD. -/
  | mov (st : BitVec 3) (pk : BitVec 2) (d a : BitVec 6)
  /-- CMPEQ (R108): Writes 1 when sA equals sB, else 0. -/
  | cmpeq (st : BitVec 3) (pk : BitVec 2) (d a b : BitVec 6)
  /-- CMPNE (R108): Writes 1 when sA differs from sB. -/
  | cmpne (st : BitVec 3) (pk : BitVec 2) (d a b : BitVec 6)
  /-- CMPLT (R108): Writes 1 when sA < sB signed. -/
  | cmplt (st : BitVec 3) (pk : BitVec 2) (d a b : BitVec 6)
  /-- CMPLTN (R108): Writes 1 when sA < sB natural. -/
  | cmpltn (st : BitVec 3) (pk : BitVec 2) (d a b : BitVec 6)
  /-- CMPLE (R108): Writes 1 when sA <= sB signed. -/
  | cmple (st : BitVec 3) (pk : BitVec 2) (d a b : BitVec 6)
  /-- CMPLEN (R108): Writes 1 when sA <= sB natural. -/
  | cmplen (st : BitVec 3) (pk : BitVec 2) (d a b : BitVec 6)
  /-- ADDI (R107): Adds the sign-extended immediate to sA. -/
  | addi (st : BitVec 3) (pk : BitVec 2) (d a : BitVec 6) (i : BitVec 8)
  /-- ANDI (R107): ANDs sA with the sign-extended immediate. -/
  | andi (st : BitVec 3) (pk : BitVec 2) (d a : BitVec 6) (i : BitVec 8)
  /-- ORI (R107): ORs sA with the sign-extended immediate. -/
  | ori (st : BitVec 3) (pk : BitVec 2) (d a : BitVec 6) (i : BitVec 8)
  /-- XORI (R107): XORs sA with the sign-extended immediate. -/
  | xori (st : BitVec 3) (pk : BitVec 2) (d a : BitVec 6) (i : BitVec 8)
  /-- SHLI (R107): Shifts sA left by a zero-extended count 0 to 63. -/
  | shli (st : BitVec 3) (pk : BitVec 2) (d a : BitVec 6) (i : BitVec 8)
  /-- SHRI (R107): Shifts sA right logically by a zero-extended count. -/
  | shri (st : BitVec 3) (pk : BitVec 2) (d a : BitVec 6) (i : BitVec 8)
  /-- SRAI (R107): Shifts sA right arithmetically by a zero-extended count. -/
  | srai (st : BitVec 3) (pk : BitVec 2) (d a : BitVec 6) (i : BitVec 8)
  /-- MOVI (R107): Writes the extended immediate to sD. -/
  | movi (st : BitVec 3) (pk : BitVec 2) (d : BitVec 6) (i : BitVec 8)
  /-- BRA (R109): Unconditional branch to the word offset target. -/
  | bra (st : BitVec 3) (o : BitVec 14)
  /-- BZ (R109): Branches when sA is zero. -/
  | bz (st : BitVec 3) (a : BitVec 6) (o : BitVec 14)
  /-- BNZ (R109): Branches when sA is nonzero. -/
  | bnz (st : BitVec 3) (a : BitVec 6) (o : BitVec 14)
  /-- CALL (R110): Writes the return address to s63 and branches. -/
  | call (st : BitVec 3) (o : BitVec 14)
  /-- JMP (R111): Sets the fragment PC to sA after the target checks. -/
  | jmp (st : BitVec 3) (a : BitVec 6)
  /-- RET (R111): Sets the fragment PC to s63. -/
  | ret (st : BitVec 3)
  /-- SPLIT (R113): Parts the lanes of kA into a new fragment at sB and pushes a seam entry. -/
  | split (st : BitVec 3) (d : BitVec 6) (a : BitVec 4) (b : BitVec 6)
  /-- JOIN (R114): Parks the fragment on its innermost seam and fuses the fragments when the seam completes. -/
  | join (st : BitVec 3)
  /-- EXIT (R115): Ends the issuing fragment and, for the last fragment, begins the end of the group. -/
  | exit (st : BitVec 3)
  /-- NOP (R117): Changes nothing but the PC. -/
  | nop (st : BitVec 3)
  /-- BRK (R118): Raises DEBUG with the next unit as return PC. -/
  | brk (st : BitVec 3)
  /-- TRAP (R118): Raises SWTRAP with code c and the next unit as return PC. -/
  | trap (st : BitVec 3) (c : BitVec 6)
  /-- RFT (R119): Pops the top trap entry, restores the trapping fragment and releases held fragments. -/
  | rft (st : BitVec 3)
  /-- GETS (R120): Reads a special register into sD through the scoreboard. -/
  | gets (st : BitVec 3) (d n : BitVec 6)
  /-- SETS (R121): Writes sA to a special register for the whole group under its field rules. -/
  | sets (st : BitVec 3) (n a : BitVec 6)
  /-- SETS_GINJ (R326): A sets of %ginj that arms or disarms an injected gate fault and restarts the crossing count. -/
  | setsGinj (st : BitVec 3) (a : BitVec 6)
  /-- SETS_LCAUSE (R146): A supervisor sets of %lcause that, writing INRES 0, ends the landing and releases held fragments. -/
  | setsLcause (st : BitVec 3) (a : BitVec 6)
  /-- RFGIVE (R123): Gives vector registers from the top of the allocation to the team free pool. -/
  | rfgive (st : BitVec 3) (a : BitVec 6)
  /-- RFCLAIM (R124): Claims all or none of n registers from the team free pool, zeroed. -/
  | rfclaim (st : BitVec 3) (d a : BitVec 6)
  /-- LAND (R140): Writes the target address to %land. -/
  | land (st : BitVec 3) (o : BitVec 14)
  /-- RESUME (R141): Ends a landing by repaying the reserve and returning to %lret, or takes the hard path. -/
  | resume (st : BitVec 3)
  /-- YIELD (R142): Ends the group, optionally sending a cutting with clipped budgets. -/
  | yield (st : BitVec 3) (a : BitVec 6)
  /-- TOPUP (R143): Moves all or none of the requested units and sectors from %tpool to the group budgets. -/
  | topup (st : BitVec 3) (d a b : BitVec 6)
  /-- VADD (R198): Lane-wise integer add, .i32/.z32 or .n32, optionally saturating. -/
  | vadd (st : BitVec 3) (pk : BitVec 2) (d a b : BitVec 6) (t x : BitVec 1)
  /-- VSUB (R198): Lane-wise integer subtract, .i32/.z32 or .n32. -/
  | vsub (st : BitVec 3) (pk : BitVec 2) (d a b : BitVec 6) (t x : BitVec 1)
  /-- VADDC (R199): Lane-wise add with carry in and out through k15. -/
  | vaddc (st : BitVec 3) (pk : BitVec 2) (d a b : BitVec 6) (x : BitVec 1)
  /-- VSUBC (R199): Lane-wise subtract with borrow in and out through k15. -/
  | vsubc (st : BitVec 3) (pk : BitVec 2) (d a b : BitVec 6) (x : BitVec 1)
  /-- VMUL (R198): Lane-wise low 32 bits of the product. -/
  | vmul (st : BitVec 3) (pk : BitVec 2) (d a b : BitVec 6) (x : BitVec 1)
  /-- VMAD (R198): Lane-wise multiply-add into vD. -/
  | vmad (st : BitVec 3) (pk : BitVec 2) (d a b : BitVec 6) (x : BitVec 1)
  /-- VMULH (R198): Lane-wise signed high word of the product. -/
  | vmulh (st : BitVec 3) (pk : BitVec 2) (d a b : BitVec 6) (x : BitVec 1)
  /-- VMULHN (R198): Lane-wise natural high word of the product. -/
  | vmulhn (st : BitVec 3) (pk : BitVec 2) (d a b : BitVec 6) (x : BitVec 1)
  /-- VAND (R200): Lane-wise AND. -/
  | vand (st : BitVec 3) (pk : BitVec 2) (d a b : BitVec 6) (x : BitVec 1)
  /-- VOR (R200): Lane-wise OR. -/
  | vor (st : BitVec 3) (pk : BitVec 2) (d a b : BitVec 6) (x : BitVec 1)
  /-- VXOR (R200): Lane-wise XOR. -/
  | vxor (st : BitVec 3) (pk : BitVec 2) (d a b : BitVec 6) (x : BitVec 1)
  /-- VANDN (R200): Lane-wise a AND NOT b. -/
  | vandn (st : BitVec 3) (pk : BitVec 2) (d a b : BitVec 6) (x : BitVec 1)
  /-- VSHL (R200): Lane-wise shift left. -/
  | vshl (st : BitVec 3) (pk : BitVec 2) (d a b : BitVec 6) (x : BitVec 1)
  /-- VSHR (R200): Lane-wise logical shift right. -/
  | vshr (st : BitVec 3) (pk : BitVec 2) (d a b : BitVec 6) (x : BitVec 1)
  /-- VSRA (R200): Lane-wise arithmetic shift right. -/
  | vsra (st : BitVec 3) (pk : BitVec 2) (d a b : BitVec 6) (x : BitVec 1)
  /-- VSEL (R203): Selects vA or vB per lane by mask kPK for every lane of k0. -/
  | vsel (st : BitVec 3) (pk : BitVec 2) (d a b : BitVec 6) (x : BitVec 1)
  /-- VMIN (R200): Lane-wise signed minimum. -/
  | vmin (st : BitVec 3) (pk : BitVec 2) (d a b : BitVec 6) (x : BitVec 1)
  /-- VMINN (R200): Lane-wise natural minimum. -/
  | vminn (st : BitVec 3) (pk : BitVec 2) (d a b : BitVec 6) (x : BitVec 1)
  /-- VMAX (R200): Lane-wise signed maximum. -/
  | vmax (st : BitVec 3) (pk : BitVec 2) (d a b : BitVec 6) (x : BitVec 1)
  /-- VMAXN (R200): Lane-wise natural maximum. -/
  | vmaxn (st : BitVec 3) (pk : BitVec 2) (d a b : BitVec 6) (x : BitVec 1)
  /-- VCMP (R204): Integer compare per lane into mask kD. -/
  | vcmp (st : BitVec 3) (pk : BitVec 2) (c : BitVec 3) (d : BitVec 4) (a b : BitVec 6) (x : BitVec 1)
  /-- VABS (R201): Lane-wise absolute value mod 2^32. -/
  | vabs (st : BitVec 3) (pk : BitVec 2) (d a : BitVec 6)
  /-- VCLZ (R201): Lane-wise leading zero count. -/
  | vclz (st : BitVec 3) (pk : BitVec 2) (d a : BitVec 6)
  /-- VPOPC (R201): Lane-wise set-bit count. -/
  | vpopc (st : BitVec 3) (pk : BitVec 2) (d a : BitVec 6)
  /-- VMOV_V (R201): Copies vA to vD per lane. -/
  | vmovV (st : BitVec 3) (pk : BitVec 2) (d a : BitVec 6)
  /-- VMOV_S (R201): Broadcasts the low 32 bits of sA to every active lane. -/
  | vmovS (st : BitVec 3) (pk : BitVec 2) (d a : BitVec 6)
  /-- VIDX (R201): Writes each lane's index. -/
  | vidx (st : BitVec 3) (pk : BitVec 2) (d : BitVec 6)
  /-- VADDI (R202): Lane-wise add of an immediate. -/
  | vaddi (st : BitVec 3) (pk : BitVec 2) (d a : BitVec 6) (i : BitVec 8)
  /-- VANDI (R202): Lane-wise AND with an immediate. -/
  | vandi (st : BitVec 3) (pk : BitVec 2) (d a : BitVec 6) (i : BitVec 8)
  /-- VSHLI (R202): Lane-wise shift left by a count 0 to 31. -/
  | vshli (st : BitVec 3) (pk : BitVec 2) (d a : BitVec 6) (i : BitVec 8)
  /-- VSHRI (R202): Lane-wise logical shift right by a count 0 to 31. -/
  | vshri (st : BitVec 3) (pk : BitVec 2) (d a : BitVec 6) (i : BitVec 8)
  /-- VSRAI (R202): Lane-wise arithmetic shift right by a count 0 to 31. -/
  | vsrai (st : BitVec 3) (pk : BitVec 2) (d a : BitVec 6) (i : BitVec 8)
  /-- VMOVS (R211): Moves the word of lane sB[5:0] of vA to sD. -/
  | vmovs (st : BitVec 3) (d a b : BitVec 6)
  /-- VBCAST (R211): Broadcasts lane sB[5:0] of vA to the active lanes. -/
  | vbcast (st : BitVec 3) (pk : BitVec 2) (d a b : BitVec 6)
  /-- VPERM (R211): Permutes lanes by the index in b. -/
  | vperm (st : BitVec 3) (pk : BitVec 2) (d a b : BitVec 6) (x : BitVec 1)
  /-- VSHFL_XOR (R211): Reads the lane L XOR b. -/
  | vshflXor (st : BitVec 3) (pk : BitVec 2) (d a b : BitVec 6) (x : BitVec 1)
  /-- VSHFL_ROT (R211): Reads the lane (L + b) mod 64. -/
  | vshflRot (st : BitVec 3) (pk : BitVec 2) (d a b : BitVec 6) (x : BitVec 1)
  /-- VRED (R214): Reduces the active lanes of vA in fixed butterfly order into sD. -/
  | vred (st : BitVec 3) (pk : BitVec 2) (d a c : BitVec 6)
  /-- FADD (R206): FP32 add rounded once. -/
  | fadd (st : BitVec 3) (pk : BitVec 2) (d a b : BitVec 6) (x : BitVec 1)
  /-- FSUB (R206): FP32 subtract rounded once. -/
  | fsub (st : BitVec 3) (pk : BitVec 2) (d a b : BitVec 6) (x : BitVec 1)
  /-- FMUL (R206): FP32 multiply rounded once. -/
  | fmul (st : BitVec 3) (pk : BitVec 2) (d a b : BitVec 6) (x : BitVec 1)
  /-- FDIV (R206): FP32 division correctly rounded. -/
  | fdiv (st : BitVec 3) (pk : BitVec 2) (d a b : BitVec 6) (x : BitVec 1)
  /-- FFMA (R206): Fused a*b + vD rounded once. -/
  | ffma (st : BitVec 3) (pk : BitVec 2) (d a b : BitVec 6) (x : BitVec 1)
  /-- FFMS (R206): Fused a*b - vD rounded once. -/
  | ffms (st : BitVec 3) (pk : BitVec 2) (d a b : BitVec 6) (x : BitVec 1)
  /-- FMIN (R207): FP32 minimum with NaN and signed-zero rules. -/
  | fmin (st : BitVec 3) (pk : BitVec 2) (d a b : BitVec 6) (x : BitVec 1)
  /-- FMAX (R207): FP32 maximum with NaN and signed-zero rules. -/
  | fmax (st : BitVec 3) (pk : BitVec 2) (d a b : BitVec 6) (x : BitVec 1)
  /-- FCMP (R205): FP32 compare per lane into mask kD. -/
  | fcmp (st : BitVec 3) (pk : BitVec 2) (c : BitVec 3) (d : BitVec 4) (a b : BitVec 6) (x : BitVec 1)
  /-- FRCP (R189): Correctly rounded reciprocal. -/
  | frcp (st : BitVec 3) (pk : BitVec 2) (d a : BitVec 6)
  /-- FRSQ (R189): Correctly rounded reciprocal square root. -/
  | frsq (st : BitVec 3) (pk : BitVec 2) (d a : BitVec 6)
  /-- FSQRT (R189): Correctly rounded square root. -/
  | fsqrt (st : BitVec 3) (pk : BitVec 2) (d a : BitVec 6)
  /-- FEXP2 (R189): Correctly rounded 2^a. -/
  | fexp2 (st : BitVec 3) (pk : BitVec 2) (d a : BitVec 6)
  /-- FLOG2 (R189): Correctly rounded log2 a. -/
  | flog2 (st : BitVec 3) (pk : BitVec 2) (d a : BitVec 6)
  /-- FSIN (R189): Correctly rounded sine in radians. -/
  | fsin (st : BitVec 3) (pk : BitVec 2) (d a : BitVec 6)
  /-- FCOS (R189): Correctly rounded cosine in radians. -/
  | fcos (st : BitVec 3) (pk : BitVec 2) (d a : BitVec 6)
  /-- FCLASS (R208): Sets one class bit for the FP32 operand. -/
  | fclass (st : BitVec 3) (pk : BitVec 2) (d a : BitVec 6)
  /-- FRND (R208): Rounds to an integral FP32 value under the effective mode. -/
  | frnd (st : BitVec 3) (pk : BitVec 2) (d a : BitVec 6)
  /-- RAND (R192): Writes a Philox-4x32-10 word per active lane and advances its draw count. -/
  | rand (st : BitVec 3) (pk : BitVec 2) (d : BitVec 6)
  /-- HADD2 (R209): Packed 16-bit FP add per half. -/
  | hadd2 (st : BitVec 3) (pk : BitVec 2) (d a b : BitVec 6) (t : BitVec 1)
  /-- HMUL2 (R209): Packed 16-bit FP multiply per half. -/
  | hmul2 (st : BitVec 3) (pk : BitVec 2) (d a b : BitVec 6) (t : BitVec 1)
  /-- HFMA2 (R209): Packed 16-bit fused multiply-add per half. -/
  | hfma2 (st : BitVec 3) (pk : BitVec 2) (d a b : BitVec 6) (t x : BitVec 1)
  /-- CVT (R210): Converts between number types, rounded under the effective mode. -/
  | cvt (st : BitVec 3) (pk : BitVec 2) (d a : BitVec 6) (u w : BitVec 3)
  /-- CVT_SR (R190): Converts with stochastic rounding using old vD as the random word. -/
  | cvtSr (st : BitVec 3) (pk : BitVec 2) (d a : BitVec 6) (u w : BitVec 3)
  /-- KAND (R215): Mask AND into kD for the lanes of k0. -/
  | kand (st : BitVec 3) (d a b : BitVec 4)
  /-- KOR (R215): Mask OR. -/
  | kor (st : BitVec 3) (d a b : BitVec 4)
  /-- KXOR (R215): Mask XOR. -/
  | kxor (st : BitVec 3) (d a b : BitVec 4)
  /-- KANDN (R215): Mask kA AND NOT kB. -/
  | kandn (st : BitVec 3) (d a b : BitVec 4)
  /-- KNOT (R215): Mask NOT. -/
  | knot (st : BitVec 3) (d a : BitVec 4)
  /-- KMOV_K (R215): Copies mask kA to kD. -/
  | kmovK (st : BitVec 3) (d a : BitVec 4)
  /-- KMOV_S (R215): Copies scalar sA to mask kD. -/
  | kmovS (st : BitVec 3) (d : BitVec 4) (a : BitVec 6)
  /-- KGET (R215): Copies all 64 bits of kA to sD. -/
  | kget (st : BitVec 3) (d : BitVec 6) (a : BitVec 4)
  /-- KPOPC (R215): Counts the set bits of kA into sD. -/
  | kpopc (st : BitVec 3) (d : BitVec 6) (a : BitVec 4)
  /-- KFFS (R215): Index of the lowest set bit of kA, 64 when empty. -/
  | kffs (st : BitVec 3) (d : BitVec 6) (a : BitVec 4)
  /-- LDV (R238): Vector global load per active lane. -/
  | ldv (st : BitVec 3) (pk : BitVec 2) (d a b : BitVec 6) (z : BitVec 2)
  /-- STV (R238): Vector global store per active lane. -/
  | stv (st : BitVec 3) (pk : BitVec 2) (d a b : BitVec 6) (z : BitVec 2)
  /-- LDX (R240): Scalar global load. -/
  | ldx (st : BitVec 3) (pk : BitVec 2) (d a : BitVec 6) (z : BitVec 2)
  /-- STX (R240): Scalar global store. -/
  | stx (st : BitVec 3) (pk : BitVec 2) (d a : BitVec 6) (z : BitVec 2)
  /-- LDS (R238): Vector load from the team scratchpad window. -/
  | lds (st : BitVec 3) (pk : BitVec 2) (d a b : BitVec 6) (z : BitVec 2)
  /-- STS (R238): Vector store to the team scratchpad window. -/
  | sts (st : BitVec 3) (pk : BitVec 2) (d a b : BitVec 6) (z : BitVec 2)
  /-- LDP (R226): Vector load of four bytes from a peer team's window. -/
  | ldp (st : BitVec 3) (pk : BitVec 2) (d a b : BitVec 6) (q : BitVec 2)
  /-- STP (R226): Vector store of four bytes to a peer team's window. -/
  | stp (st : BitVec 3) (pk : BitVec 2) (d a b : BitVec 6) (q : BitVec 2)
  /-- LDB (R228): Bounds-checked vector load through a buffer descriptor. -/
  | ldb (st : BitVec 3) (pk : BitVec 2) (d : BitVec 6) (a : BitVec 4) (b : BitVec 6) (z : BitVec 2)
  /-- STB (R228): Bounds-checked vector store through a buffer descriptor. -/
  | stb (st : BitVec 3) (pk : BitVec 2) (d : BitVec 6) (a : BitVec 4) (b : BitVec 6) (z : BitVec 2)
  /-- LDACQ (R241): Aligned scalar acquire load at a scope. -/
  | ldacq (st : BitVec 3) (pk : BitVec 2) (d a : BitVec 6) (c : BitVec 3) (z : BitVec 1)
  /-- STREL (R241): Aligned scalar release store at a scope, held until older accesses and the hamper drain. -/
  | strel (st : BitVec 3) (pk : BitVec 2) (d a : BitVec 6) (c : BitVec 3) (z : BitVec 1)
  /-- ATOM (R242): Vector atomic at the slice returning old values. -/
  | atom (st : BitVec 3) (pk : BitVec 2) (d a b : BitVec 6) (z : BitVec 1)
  /-- ATOMS (R242): Scalar atomic at the slice returning the old value. -/
  | atoms (st : BitVec 3) (pk : BitVec 2) (d a : BitVec 6) (z : BitVec 1)
  /-- RED (R242): Vector atomic reduction with no return. -/
  | red (st : BitVec 3) (pk : BitVec 2) (d a b : BitVec 6) (z : BitVec 1)
  /-- FENCE (R245): Acquire and release at a scope, held until older accesses and the hamper drain. -/
  | fence (st c : BitVec 3)
  /-- TAGLD (R246): Reads the tag of the granule holding ea. -/
  | tagld (st : BitVec 3) (pk : BitVec 2) (d a : BitVec 6)
  /-- TAGST (R246): Sets the tag of the granule holding ea. -/
  | tagst (st : BitVec 3) (pk : BitVec 2) (d a : BitVec 6)
  /-- PREF (R248): Asks slices to hold the addressed lines in cache; no architectural effect. -/
  | pref (st : BitVec 3) (pk : BitVec 2) (a b : BitVec 6)
  /-- BDSET (R249): Writes a buffer descriptor from sA and sB. -/
  | bdset (st : BitVec 3) (d : BitVec 4) (a b : BitVec 6)
  /-- BDGET_LO (R249): Reads descriptor bits [63:0] into sD. -/
  | bdgetLo (st : BitVec 3) (d : BitVec 6) (a : BitVec 4)
  /-- BDGET_HI (R249): Reads descriptor bits [127:64] into sD. -/
  | bdgetHi (st : BitVec 3) (d : BitVec 6) (a : BitVec 4)
  /-- CPY_FROM_GLOBAL (R278): Asynchronous linear copy from global memory to the space in F. -/
  | cpyFromGlobal (st : BitVec 3) (d a b : BitVec 6) (f : BitVec 2)
  /-- CPY_FROM_SCRATCHPAD (R278): Asynchronous linear copy from the window to the space in F. -/
  | cpyFromScratchpad (st : BitVec 3) (d a b : BitVec 6) (f : BitVec 2)
  /-- CPY_FROM_PEER (R278): Asynchronous linear copy from a peer window to the space in F. -/
  | cpyFromPeer (st : BitVec 3) (d a b : BitVec 6) (f : BitVec 2)
  /-- CPYT (R282): Asynchronous tensor-tile copy with fill and swizzle between global and window. -/
  | cpyt (st : BitVec 3) (d a : BitVec 6) (f : BitVec 1)
  /-- CPYK (R283): Tile copy whose dimension 2 passes through a block table. -/
  | cpyk (st : BitVec 3) (d a : BitVec 6) (f : BitVec 1)
  /-- CPYM (R285): Multicast copy of global bytes into the windows named by MASK. -/
  | cpym (st : BitVec 3) (d a b : BitVec 6)
  /-- EBIND (R156): Binds a one-shot event slot to a source and handler. -/
  | ebind (st d : BitVec 3) (a b : BitVec 6)
  /-- EBIND_PERS (R156): Binds a persistent event slot to a source and handler. -/
  | ebindPers (st d : BitVec 3) (a b : BitVec 6)
  /-- EUNBIND (R157): Unbinds a slot and clears its pending bit. -/
  | eunbind (st d : BitVec 3)
  /-- WANY (R158): Delivers the lowest pending unmasked slot or parks the fragment. -/
  | wany (st : BitVec 3)
  /-- MPOST (R162): Posts a token to a group's mailbox as a release. -/
  | mpost (st : BitVec 3) (d a b : BitVec 6)
  /-- PEGGET (R167): Allocates a peg of the given configuration. -/
  | pegget (st : BitVec 3) (d a : BitVec 6)
  /-- PEGREF (R168): Adds one explicit peg reference. -/
  | pegref (st : BitVec 3) (a : BitVec 6)
  /-- PEGPUT (R168): Removes one explicit peg reference. -/
  | pegput (st : BitVec 3) (a : BitVec 6)
  /-- PEGARR (R169): Arrives on a peg with k arrivals as a release. -/
  | pegarr (st : BitVec 3) (a b : BitVec 6)
  /-- PEGWAIT (R170): Continues when the peg phase is reached, else parks. -/
  | pegwait (st : BitVec 3) (a b : BitVec 6)
  /-- SEAL (R172): Seals the open batch of a class with optional peg and completion word. -/
  | seal (st : BitVec 3) (d a b : BitVec 6) (c : BitVec 2)
  /-- WAITB (R174): Continues when at most n sealed batches of a class are outstanding, else parks. -/
  | waitb (st : BitVec 3) (c : BitVec 2) (i : BitVec 8)
  /-- TLD (R298): Loads a tile register from the window through the swizzle. -/
  | tld (st d : BitVec 3) (a b : BitVec 6)
  /-- TZERO (R299): Zeroes a tile register. -/
  | tzero (st d : BitVec 3)
  /-- MMA (R301): Queues a tile multiply-accumulate into an accumulator and binds it. -/
  | mma (st : BitVec 3) (pk : BitVec 2) (t d a b : BitVec 3)
  /-- MMAQ (R307): Queues an asymmetric-integer tile multiply with scales and zero points. -/
  | mmaq (st : BitVec 3) (pk : BitVec 2) (t d : BitVec 3) (q : BitVec 6) (a b : BitVec 3) (g : BitVec 2)
  /-- ACCZ (R312): Zeroes the active rows of an unbound accumulator. -/
  | accz (st : BitVec 3) (pk : BitVec 2) (d : BitVec 3)
  /-- ACCRD (R312): Reads one accumulator column into vD. -/
  | accrd (st : BitVec 3) (pk : BitVec 2) (d : BitVec 6) (a : BitVec 3) (b : BitVec 6)
  /-- ACCWR (R312): Writes vA into one accumulator column. -/
  | accwr (st : BitVec 3) (pk : BitVec 2) (d : BitVec 3) (a b : BitVec 6)
  /-- GSESS (R322): Privileged request to open or revoke a gate session. -/
  | gsess (st : BitVec 3) (d a : BitVec 6)
  /-- GTRIP (R330): Draws a Beaver triple record into vector registers. -/
  | gtrip (st : BitVec 3) (d : BitVec 6) (t : BitVec 2)
  /-- GMASK (R334): Masks x and y with the triple and posts d and e. -/
  | gmask (st : BitVec 3) (d a b : BitVec 6) (t : BitVec 2)
  /-- GOPEN (R335): Awaits the peer's d and e and opens them. -/
  | gopen (st : BitVec 3) (d : BitVec 6) (t : BitVec 2)
  /-- GFIN (R336): Finishes the Beaver product share and spends the triple. -/
  | gfin (st : BitVec 3) (d a : BitVec 6) (t : BitVec 2)
  /-- GTRUNC (R338): Local truncation of a share by f bits. -/
  | gtrunc (st : BitVec 3) (d a f : BitVec 6)
  /-- GMSB (R340): Computes a boolean share of the sign bit via a KIND 5 record. -/
  | gmsb (st : BitVec 3) (d a : BitVec 6)
  /-- GB2A (R341): Converts a boolean bit share to an arithmetic share. -/
  | gb2a (st : BitVec 3) (d a : BitVec 6)
  /-- GREVEAL (R342): Reveals a .z32 value to a receiving partition. -/
  | greveal (st : BitVec 3) (d a : BitVec 6)
  /-- GTRIPT (R330): Draws a matrix triple record into tile registers. -/
  | gtript (st d : BitVec 3)
  /-- GMASKT (R343): Masks tile shares with a matrix triple and posts D and E. -/
  | gmaskt (st d a b : BitVec 3)
  /-- GOPENT (R343): Awaits and opens the tile crossings D and E. -/
  | gopent (st d : BitVec 3)
  /-- LAUNCH (R368): Enqueues a copy of a launch record in the device queue with its grant. -/
  | launch (st : BitVec 3) (d a : BitVec 6)
  /-- EMIT (R370): Sends a cutting to the die's nursery and raises the job counter. -/
  | emit (st : BitVec 3) (d a : BitVec 6)
  /-- SPAWN (R373): Starts a one-lane group from a cutting on the same core. -/
  | spawn (st : BitVec 3) (d a b : BitVec 6)
  /-- TLBDRAIN (R431): Opens a drain and marks covered translation entries draining. -/
  | tlbdrain (st : BitVec 3) (a : BitVec 6)
  /-- TLBCONF (R432): Confirms the oldest matching drain once covered accesses are performed. -/
  | tlbconf (st : BitVec 3) (d a : BitVec 6)
  /-- CTXSV (R411): Saves the team of a named group to an image. -/
  | ctxsv (st : BitVec 3) (a b : BitVec 6)
  /-- CTXLD (R411): Restores, continues or ends a group according to the handle's ACTION. -/
  | ctxld (st : BitVec 3) (a b : BitVec 6)
  /-- IMX (R47): Hint word extending the immediate of the following instruction. -/
  | imx (payload : BitVec 22)
  /-- MOD (R188): Hint word applying rounding, scale, sign and clamp modifiers to the next instruction. -/
  | mod (m : BitVec 3) (k : BitVec 5) (u v w x y z : BitVec 1)
  /-- SCH (R49): Scheduling hint word with no architectural effect. -/
  | sch (b a y : BitVec 1)
  /-- SLICE_TIMER_EXPIRY (R365): A group's slice timer expires and the dispatcher may deliver a clamp. -/
  | sliceTimerExpiry (core slot : Nat)
  /-- CLAMP (R137): A delivered clamp takes effect at a unit boundary, landing a fragment with cause 11. -/
  | clamp (core slot : Nat)
  /-- PREEMPTION_DEADLINE (R415): A clamped group not ended or saved after 65,536 cycles takes a hard pre-emption. -/
  | preemptionDeadline (core slot : Nat)
  /-- ISSUE_AGEING_PROMOTION (R99): A ready group unissued for 4,096 cycles is promoted one priority class. -/
  | issueAgeingPromotion (core slot : Nat)
  /-- LOAD_RESPONSE (R238): Returned load data is written to the destination lanes and makes it ready. -/
  | loadResponse (core slot : Nat) (req : LoadPart)
  /-- ATOMIC_RESPONSE (R242): Old values of an atomic return and are written through the scoreboard. -/
  | atomicResponse (core slot req : Nat)
  /-- STORE_ACK (R223): The slice acknowledges a store, reporting any tag failure for a deferred TAG trap. -/
  | storeAck (core slot req : Nat)
  /-- SLICE_MERGE_STEP (R231): A slice applies up to 8 waiting stores to one line by source key. -/
  | sliceMergeStep (line : Nat) (picks : List Nat)
  /-- SLICE_ATOMIC (R243): A slice applies one atomic request lane by lane. -/
  | sliceAtomic (req line : Nat)
  /-- SLICE_TAGST (R247): A slice applies a tagst alone to its granule. -/
  | sliceTagst (req : Nat)
  /-- PEER_ACCESS (R226): A peer core's pool serves an ldp or stp, or answers PEERGONE. -/
  | peerAccess (core slot req : Nat)
  /-- OPERAND_LOG_REPLAY (R232): Faulted load lanes re-issue from the operand log after the page is mapped. -/
  | operandLogReplay (core slot req : Nat)
  /-- HAMPER_REPLAY (R233): A hamper entry replays its store lanes once the page is mapped. -/
  | hamperReplay (core slot req : Nat)
  /-- DEFERRED_TRAP_DELIVERY (R400): The oldest pending deferred trap is delivered at the group's next issue boundary. -/
  | deferredTrapDelivery (core slot : Nat)
  /-- TRAP_QUEUE_HEAD_WRITE (R404): The supervisor's write of HEAD is observed, frees slots and resolves passed replayable faults. -/
  | trapQueueHeadWrite (part : Nat)
  /-- EVENT_TIMER_EXPIRY (R151): A TIMER event source's count elapses and latches its slot. -/
  | eventTimerExpiry (core slot e : Nat)
  /-- WANY_DELIVERY (R159): A pending slot is delivered to a fragment parked in wany at a unit boundary. -/
  | wanyDelivery (core slot : Nat)
  /-- BATCH_COMPLETE (R173): A sealed batch completes: payload, completion word, peg arrival, count update, latches. -/
  | batchComplete (core slot cls : Nat)
  /-- STREAMER_PIECE (R286): The streamer moves one piece of a copy and advances its restart point. -/
  | streamerPiece (core slot copy : Nat)
  /-- MATRIX_OP_START (R310): A queued matrix operation starts in the engine. -/
  | matrixOpStart (core : Nat)
  /-- MATRIX_OPERANDS_CONSUMED (R300): A matrix operation has consumed its tiles, releasing held tile writes. -/
  | matrixOperandsConsumed (core : Nat)
  /-- MATRIX_OP_COMPLETE (R309): A matrix operation drains its results into its accumulator. -/
  | matrixOpComplete (core : Nat)
  /-- MATRIX_WATCHDOG (R315): An operation not completed 65,536 cycles after start resets the engine. -/
  | matrixWatchdog (core : Nat)
  /-- MATRIX_ENGINE_ERROR (R315): An uncorrectable error in the matrix engine resets it with MXRESET. -/
  | matrixEngineError (core : Nat)
  /-- MATRIX_RESET_END (R315): The engine resumes accepting operations after its reset. -/
  | matrixResetEnd (core : Nat)
  /-- GATE_DRAW_PERFORMED (R330): A record read completes; header checks and cursor move take place. -/
  | gateDrawPerformed (core slot : Nat)
  /-- GATE_CROSSING_ACCEPT (R333): The posting gate accepts a crossing, burning its triple or injecting a fault. -/
  | gateCrossingAccept (core slot : Nat)
  /-- GATE_CROSSING_ARRIVE (R332): A crossing reaches the peer gate and is buffered or consumed. -/
  | gateCrossingArrive (core slot : Nat)
  /-- GATE_PAIR_ABORT (R344): A lost or undeliverable crossing aborts the pair on the detecting side. -/
  | gatePairAbort (core slot : Nat)
  /-- GATE_ABORT_NOTICE (R344): The peer gate receives the abort notice and aborts its side. -/
  | gateAbortNotice (core slot : Nat)
  /-- GROUP_END (R115): After its work drains, the group's slot, registers and tiles return to the core. -/
  | groupEnd (core slot : Nat)
  /-- QTAIL_WRITE (R353): A host write of a queue's tail register lets the queue processor read records. -/
  | qtailWrite (part : HostPort) (queue : Nat) (value : BitVec 64)
  /-- QCTL_EN_WRITE (R352): A host write of QCTL.EN enables or stops ring reading. -/
  | qctlEnWrite (part : HostPort) (queue : Nat) (value : BitVec 64)
  /-- QCTL_ERR_CLEAR (R353): A host write of 1 to ERR resumes the queue at the same record. -/
  | qctlErrClear (part : HostPort) (queue : Nat)
  /-- LAUNCH_RECORD_ACCEPT (R353): The queue processor reads, checks, copies a record and snapshots the seed. -/
  | launchRecordAccept (part queue : Nat)
  /-- LAUNCH_START (R358): A launch starts once every wait token reaches its threshold. -/
  | launchStart (uid : Nat)
  /-- TEAM_PLACEMENT (R362): When a core frees room, the highest-ranked fitting team is zeroed and started. -/
  | teamPlacement (part : Nat)
  /-- PLACEMENT_WAIT_LIMIT (R363): A team waiting 1,048,576 cycles blocks lower-ranked teams from its cores. -/
  | placementWaitLimit (uid key : Nat) (origin : Bool)
  /-- NURSERY_IDLE_FLUSH (R371): A bin idle for 2,000 cycles is flushed into a group. -/
  | nurseryIdleFlush (die uid entry : Nat)
  /-- QUIESCENCE_SAMPLE (R375): A sample of the launch's activity decides quiescence. -/
  | quiescenceSample (uid : Nat)
  /-- QUANTUM_END (R378): A group's quantum ends on Q retired words. -/
  | quantumEnd (core slot : Nat)
  /-- COMMIT_PHASE (R382): With every quantum ended, the ticket unit commits groups in key order and starts the next round. -/
  | commitPhase (uid : Nat)
  /-- TEAM_SAVE (R410): After drains, a team's group images and team block are written and its resources released. -/
  | teamSave (core slot : Nat)
  /-- DEBUGGER_HALT (R408): A debugger halt stops a group at its boundary and freezes its timers. -/
  | debuggerHalt (core slot : Nat)
  /-- POOL_UNCORRECTABLE_ERROR (R418): An uncorrectable pool error ends the holding team and may relaunch it. -/
  | poolUncorrectableError (core offset : Nat)
  /-- SLICE_UNCORRECTABLE_ERROR (R419): A slice cannot correct a sector and marks it poisoned. -/
  | sliceUncorrectableError (sector : Nat)
  /-- CORE_SELF_CHECK_ERROR (R420): A core self-check finds an uncorrectable error and the core is frozen. -/
  | coreSelfCheckError (core : Nat)
  /-- CORE_ISSUE_WATCHDOG (R420): A ready group issuing nothing for 1,048,576 cycles freezes the core. -/
  | coreIssueWatchdog (core slot : Nat)
  /-- MIGRATION_COMPLETE (R421): A frozen core's state moves to a standby core, or teams are saved. -/
  | migrationComplete (core : Nat)
  /-- TLBCONF_COMPLETE (R432): Covered accesses are performed and covered entries removed, writing sD. -/
  | tlbconfComplete (core slot : Nat)
  /-- HOST_BAR2_READ (R452): A host read through the partition's BAR2 window. -/
  | hostBar2Read (part : HostPort) (offset n : Nat)
  /-- HOST_BAR2_WRITE (R452): A host write through the partition's BAR2 window. -/
  | hostBar2Write (part : HostPort) (offset : Nat) (bytes : List (BitVec 8))
  /-- HERR_CLEAR (R451): A host write of 1 to HERR clears it. -/
  | herrClear (part : HostPort)
  /-- REGISTER_WRITE (R451): A host write to a register with no row of its own, such as SEED, W2BASE, QBASE or a peer window entry. -/
  | registerWrite (fn : Option HostPort) (offset : Nat) (value : BitVec 64)
  /-- PEER_WINDOW_ACCESS (R455): A remote package's access through a peer port is served or refused. -/
  | peerWindowAccess (port rpkg rpart addr n : Nat) (write : Option (List (BitVec 8)))
  /-- CREATE (R436): Creates a partition from a descriptor: key, zeroing, clusters, queues. -/
  | create (desc : List (BitVec 8))
  /-- START (R457): Places the supervisor launch and clears PREP. -/
  | start (part : Nat)
  /-- HALT (R457): Halts a partition with HALTCODE 2. -/
  | halt (part : Nat)
  /-- DESTROY (R441): Ends launches, revokes sessions, removes TLB entries, destroys the key and frees resources. -/
  | destroy (part : Nat)
  /-- SLICE (R457): Sets a partition's slice length. -/
  | slice (part : Nat) (length : BitVec 32)
  /-- SUPERVISOR (R440): Places the supervisor launch again from SUPREC. -/
  | supervisor (part : Nat)
  /-- ATTEST (R458): Returns a signed attestation report for a partition. -/
  | attest (fn : Option Nat) (part : Nat) (nonce : List (BitVec 8))
  /-- GETCERT (R457): Returns the certificate chain of the device identity key. -/
  | getcert (fn : Option Nat)
  /-- BBREAD (R462): Returns 64 black-box entries of a die. -/
  | bbread (die first : Nat)
  /-- FREEZE (R460): Stops every core and fabric clock at one edge. -/
  | freeze 
  /-- READOUT (R461): Returns core state of a frozen device as DEBUG permits. -/
  | readout (core first n : Nat)
  /-- POWERCAP (R457): Sets the module power cap. -/
  | powercap (watts : Nat)
  /-- FLASH (R459): Verifies and writes a signed image to package flash. -/
  | flash (image : FlashImage)
  /-- FREEZE_N (R460): Driving the freeze pin low freezes the device. -/
  | freezeN 
  /-- RESET_RELEASE (R459): Reset release runs bring-up to STATE ready or recovery. -/
  | resetRelease 
  /-- POWER_ON (R462): Power-on clears the black box rings. -/
  | powerOn 
  /-- LINK_BEAT_ERROR (R445): A bad CRC or sequence gap makes the receiver discard and request a resend. -/
  | linkBeatError (lane : LinkLane)
  /-- LINK_AUDIT (R446): An audit beat reconciles credits, counting mismatches or triggering a retrain. -/
  | linkAudit (lane : LinkLane) (freed : BitVec 32)
  /-- LINK_RETRAIN_COMPLETE (R447): A retrain ends, resending unacknowledged beats, or the link goes down. -/
  | linkRetrainComplete (lane : LinkLane) (success : Bool)
  /-- ROUTER_SELF_CHECK_ERROR (R448): A router reports an uncorrectable error and fails. -/
  | routerSelfCheckError (die router : Nat)
  /-- ROUTER_STALL_TIMEOUT (R448): A router accepting nothing for 65,536 fabric cycles fails. -/
  | routerStallTimeout (die router : Nat)
  /-- ROUTER_FENCE_COMPLETE (R448): Routing tables fence the failed router and affected partitions halt. -/
  | routerFenceComplete (die router : Nat)
  /-- CXL_PORT_DOWN (R454): A CXL port goes down and its lines count as poisoned. -/
  | cxlPortDown (port : Nat)
  /-- POWER_CAP_EXCEEDED (R463): Module power above PCAP or junction at 105 C withholds issue cycles. -/
  | powerCapExceeded (watts : Nat) (celsius : HotSpot)
  /-- THERMAL_TRIP (R463): A junction at 115 C halts every partition and stops the clocks. -/
  | thermalTrip (die celsius : Nat)
  /-- CORRECTABLE_ERROR (R417): A correctable ECC error in the pool, a slice array or LPDDR-6 is corrected in place and counted in CECNT. -/
  | correctableError 
  /-- WITHHELD_ISSUE_CAUSE_CLEARS (R463): The cause for withholding issue cycles clears, because average power falls to PCAP or below and every junction is below 105 C, and issue resumes. -/
  | withheldIssueCauseClears (watts celsius : Nat)
  /-- DEBUGGER_HALT_END (R408): A debugger halt on a group ends; its slice timer and deadline resume and a pending clamp applies at the next boundary. -/
  | debuggerHaltEnd (core slot : Nat)
  /-- FREEZE_N_RELEASE (R460): The FREEZE_N pin returns high, which by rule does not restart the clocks. -/
  | freezeNRelease 
  deriving DecidableEq, Repr

end Sys2Proof
end

