-- ==== Sys2Proof/WellFormed.lean ====
section
/-! DEFINITION. WellFormed.lean: which instructions the encodings allow beyond the widths of their fields
(R42, R55 to R67). The checks that need a unit's hint words are in Machine/Operands.lean. -/

namespace Sys2Proof

/-- The special-register numbers of R56. -/
def specialListed (n : BitVec 6) : Bool :=
  n.toNat ≤ 0x05 || (0x08 ≤ n.toNat && n.toNat ≤ 0x0E) || (0x10 ≤ n.toNat && n.toNat ≤ 0x12) ||
  (0x14 ≤ n.toNat && n.toNat ≤ 0x19) || n == 0x1C#6 || n == 0x1D#6 || (0x20 ≤ n.toNat && n.toNat ≤ 0x22) ||
  (0x24 ≤ n.toNat && n.toNat ≤ 0x26) || (0x28 ≤ n.toNat && n.toNat ≤ 0x32) || n == 0x38#6

/-- The special registers read-only at every privilege, which `sets` must not name (R67, R90). -/
def specialReadOnly (n : BitVec 6) : Bool :=
  n.toNat ≤ 0x05 || n == 0x14#6 || n == 0x1C#6 || n == 0x1D#6 || (0x24 ≤ n.toNat && n.toNat ≤ 0x26) ||
  n == 0x30#6 || n == 0x31#6

/-- The special registers that `sets` may name at some privilege (R90). -/
def specialWritable (n : BitVec 6) : Bool := specialListed n && !specialReadOnly n

/-- A triple block at vD stays within v63 (R61): five registers, ten for .z64 (type code 2). -/
def tripleFits (t : BitVec 2) (d : BitVec 6) : Bool := if t == 2#2 then d.toNat ≤ 54 else d.toNat ≤ 59

/-- A share operand stays within v63: one register, a pair for .z64 (R319). -/
def shareFits (t : BitVec 2) (r : BitVec 6) : Bool := t != 2#2 || r.toNat ≤ 62

/-- Well-formedness of one instruction word (R66, R67); an event has no encoding to break. -/
def Instr.wellFormed : Instr → Bool
  | .add st pk d a b => !(st == 0#3 && pk == 0#2 && d == 0#6 && a == 0#6 && b == 0#6)
  | .sub .. => true
  | .mul .. => true
  | .mulh .. => true
  | .mulhn .. => true
  | .div .. => true
  | .divn .. => true
  | .rem .. => true
  | .remn .. => true
  | .and .. => true
  | .or .. => true
  | .xor .. => true
  | .andn .. => true
  | .shl .. => true
  | .shr .. => true
  | .sra .. => true
  | .clz .. => true
  | .popc .. => true
  | .min .. => true
  | .minn .. => true
  | .max .. => true
  | .maxn .. => true
  | .sel .. => true
  | .mov .. => true
  | .cmpeq .. => true
  | .cmpne .. => true
  | .cmplt .. => true
  | .cmpltn .. => true
  | .cmple .. => true
  | .cmplen .. => true
  | .addi .. => true
  | .andi .. => true
  | .ori .. => true
  | .xori .. => true
  | .shli _ _ _ _ i => i.toNat ≤ 63
  | .shri _ _ _ _ i => i.toNat ≤ 63
  | .srai _ _ _ _ i => i.toNat ≤ 63
  | .movi .. => true
  | .bra .. => true
  | .bz .. => true
  | .bnz .. => true
  | .call .. => true
  | .jmp .. => true
  | .ret .. => true
  | .split .. => true
  | .join .. => true
  | .exit .. => true
  | .nop .. => true
  | .brk .. => true
  | .trap .. => true
  | .rft .. => true
  | .gets _ _ n => specialListed n
  | .sets _ n _ => specialWritable n && n != 0x32#6 && n != 0x0C#6
  | .setsGinj .. => true
  | .setsLcause .. => true
  | .rfgive .. => true
  | .rfclaim .. => true
  | .land .. => true
  | .resume .. => true
  | .yield .. => true
  | .topup .. => true
  | .vadd .. => true
  | .vsub .. => true
  | .vaddc .. => true
  | .vsubc .. => true
  | .vmul .. => true
  | .vmad .. => true
  | .vmulh .. => true
  | .vmulhn .. => true
  | .vand .. => true
  | .vor .. => true
  | .vxor .. => true
  | .vandn .. => true
  | .vshl .. => true
  | .vshr .. => true
  | .vsra .. => true
  | .vsel .. => true
  | .vmin .. => true
  | .vminn .. => true
  | .vmax .. => true
  | .vmaxn .. => true
  | .vcmp _ _ c d _ _ _ => c.toNat ≤ 5 && d != 0#4
  | .vabs .. => true
  | .vclz .. => true
  | .vpopc .. => true
  | .vmovV .. => true
  | .vmovS .. => true
  | .vidx .. => true
  | .vaddi .. => true
  | .vandi .. => true
  | .vshli _ _ _ _ i => i.toNat ≤ 31
  | .vshri _ _ _ _ i => i.toNat ≤ 31
  | .vsrai _ _ _ _ i => i.toNat ≤ 31
  | .vmovs .. => true
  | .vbcast .. => true
  | .vperm .. => true
  | .vshflXor .. => true
  | .vshflRot .. => true
  | .vred _ _ _ _ c => c.toNat ≤ 10
  | .fadd .. => true
  | .fsub .. => true
  | .fmul .. => true
  | .fdiv .. => true
  | .ffma .. => true
  | .ffms .. => true
  | .fmin .. => true
  | .fmax .. => true
  | .fcmp _ _ c d _ _ _ => c.toNat ≤ 6 && d != 0#4
  | .frcp .. => true
  | .frsq .. => true
  | .fsqrt .. => true
  | .fexp2 .. => true
  | .flog2 .. => true
  | .fsin .. => true
  | .fcos .. => true
  | .fclass .. => true
  | .frnd .. => true
  | .rand .. => true
  | .hadd2 .. => true
  | .hmul2 .. => true
  | .hfma2 .. => true
  | .cvt _ _ _ _ u w => u.toNat ≤ 6 && w.toNat ≤ 6 && u != w
  | .cvtSr _ _ _ _ u w => (u == 1#3 || u == 2#3 || u == 5#3) && w.toNat ≤ 6 && u != w
  | .kand _ d _ _ => d != 0#4
  | .kor _ d _ _ => d != 0#4
  | .kxor _ d _ _ => d != 0#4
  | .kandn _ d _ _ => d != 0#4
  | .knot _ d _ => d != 0#4
  | .kmovK _ d _ => d != 0#4
  | .kmovS _ d _ => d != 0#4
  | .kget .. => true
  | .kpopc .. => true
  | .kffs .. => true
  | .ldv _ _ d _ _ z => z != 3#2 || d.toNat ≤ 62
  | .stv _ _ d _ _ z => z != 3#2 || d.toNat ≤ 62
  | .ldx .. => true
  | .stx .. => true
  | .lds _ _ d _ _ z => z != 3#2 || d.toNat ≤ 62
  | .sts _ _ d _ _ z => z != 3#2 || d.toNat ≤ 62
  | .ldp .. => true
  | .stp .. => true
  | .ldb _ _ d _ _ z => z != 3#2 || d.toNat ≤ 62
  | .stb _ _ d _ _ z => z != 3#2 || d.toNat ≤ 62
  | .ldacq _ _ _ _ c _ => c.toNat ≤ 5
  | .strel _ _ _ _ c _ => c.toNat ≤ 5
  | .atom _ _ d _ _ z => z == 0#1 || d.toNat ≤ 62
  | .atoms .. => true
  | .red _ _ d _ _ z => z == 0#1 || d.toNat ≤ 62
  | .fence _ c => c.toNat ≤ 5
  | .tagld .. => true
  | .tagst .. => true
  | .pref .. => true
  | .bdset .. => true
  | .bdgetLo .. => true
  | .bdgetHi .. => true
  | .cpyFromGlobal _ _ _ _ f => f.toNat ≤ 2
  | .cpyFromScratchpad _ _ _ _ f => f.toNat ≤ 2
  | .cpyFromPeer _ _ _ _ f => f.toNat ≤ 2
  | .cpyt .. => true
  | .cpyk .. => true
  | .cpym .. => true
  | .ebind .. => true
  | .ebindPers .. => true
  | .eunbind .. => true
  | .wany .. => true
  | .mpost .. => true
  | .pegget .. => true
  | .pegref .. => true
  | .pegput .. => true
  | .pegarr .. => true
  | .pegwait .. => true
  | .seal _ _ _ _ c => c.toNat ≤ 2
  | .waitb _ c _ => c.toNat ≤ 2
  | .tld .. => true
  | .tzero .. => true
  | .mma _ _ t _ _ _ => t.toNat ≤ 5
  | .mmaq _ _ t _ _ _ _ g => (t == 2#3 || t == 3#3) && g.toNat ≤ 2
  | .accz .. => true
  | .accrd .. => true
  | .accwr .. => true
  | .gsess .. => true
  | .gtrip _ d t => t.toNat ≤ 2 && tripleFits t d
  | .gmask _ d a b t => t.toNat ≤ 2 && tripleFits t d && shareFits t a && shareFits t b
  | .gopen _ d t => t.toNat ≤ 2 && tripleFits t d
  | .gfin _ d a t => t.toNat ≤ 2 && shareFits t d && tripleFits t a
  | .gtrunc _ _ _ f => f.toNat ≤ 31
  | .gmsb .. => true
  | .gb2a .. => true
  | .greveal .. => true
  | .gtript _ d => d.toNat ≤ 3
  | .gmaskt _ d _ _ => d.toNat ≤ 3
  | .gopent _ d => d.toNat ≤ 3
  | .launch .. => true
  | .emit .. => true
  | .spawn .. => true
  | .tlbdrain .. => true
  | .tlbconf .. => true
  | .ctxsv .. => true
  | .ctxld .. => true
  | .imx .. => true
  | .mod m _ _ _ _ _ _ _ => m.toNat ≤ 5
  | .sch .. => true
  | .sliceTimerExpiry .. => true
  | .clamp .. => true
  | .preemptionDeadline .. => true
  | .issueAgeingPromotion .. => true
  | .loadResponse .. => true
  | .atomicResponse .. => true
  | .storeAck .. => true
  | .sliceMergeStep .. => true
  | .sliceAtomic .. => true
  | .sliceTagst .. => true
  | .peerAccess .. => true
  | .operandLogReplay .. => true
  | .hamperReplay .. => true
  | .deferredTrapDelivery .. => true
  | .trapQueueHeadWrite .. => true
  | .eventTimerExpiry .. => true
  | .wanyDelivery .. => true
  | .batchComplete .. => true
  | .streamerPiece .. => true
  | .matrixOpStart .. => true
  | .matrixOperandsConsumed .. => true
  | .matrixOpComplete .. => true
  | .matrixWatchdog .. => true
  | .matrixEngineError .. => true
  | .matrixResetEnd .. => true
  | .gateDrawPerformed .. => true
  | .gateCrossingAccept .. => true
  | .gateCrossingArrive .. => true
  | .gatePairAbort .. => true
  | .gateAbortNotice .. => true
  | .groupEnd .. => true
  | .qtailWrite .. => true
  | .qctlEnWrite .. => true
  | .qctlErrClear .. => true
  | .launchRecordAccept .. => true
  | .launchStart .. => true
  | .teamPlacement .. => true
  | .placementWaitLimit .. => true
  | .nurseryIdleFlush .. => true
  | .quiescenceSample .. => true
  | .quantumEnd .. => true
  | .commitPhase .. => true
  | .teamSave .. => true
  | .debuggerHalt .. => true
  | .poolUncorrectableError .. => true
  | .sliceUncorrectableError .. => true
  | .coreSelfCheckError .. => true
  | .coreIssueWatchdog .. => true
  | .migrationComplete .. => true
  | .tlbconfComplete .. => true
  | .hostBar2Read .. => true
  | .hostBar2Write .. => true
  | .herrClear .. => true
  | .registerWrite .. => true
  | .peerWindowAccess .. => true
  | .create .. => true
  | .start .. => true
  | .halt .. => true
  | .destroy .. => true
  | .slice .. => true
  | .supervisor .. => true
  | .attest .. => true
  | .getcert .. => true
  | .bbread .. => true
  | .freeze => true
  | .readout .. => true
  | .powercap .. => true
  | .flash .. => true
  | .freezeN => true
  | .resetRelease => true
  | .powerOn => true
  | .linkBeatError .. => true
  | .linkAudit .. => true
  | .linkRetrainComplete .. => true
  | .routerSelfCheckError .. => true
  | .routerStallTimeout .. => true
  | .routerFenceComplete .. => true
  | .cxlPortDown .. => true
  | .powerCapExceeded .. => true
  | .thermalTrip .. => true
  | .correctableError => true
  | .withheldIssueCauseClears .. => true
  | .debuggerHaltEnd .. => true
  | .freezeNRelease => true

end Sys2Proof
end

