-- ==== Sys2Proof/Decode.lean ====
section
/-! DEFINITION. Decode.lean: instruction words to instructions, total, every refusal named (R40 to R67), and the
encoder written from the same layout. -/

namespace Sys2Proof

/-- Why a word is no instruction (R66, R67). -/
inductive Reject where
  /-- the word 0x0000_0000 (R66) -/
  | zeroWord
  /-- a major that R55 to R61 leave unassigned -/
  | unassignedMajor
  /-- an unlisted selector, or a field that must be 0 and is not -/
  | badField
  /-- a field outside its range, a mask write of k0, a register range past 63, a reserved code -/
  | outOfRange
  /-- a hint word with a reserved HT or a nonzero reserved bit (R45, R48, R49) -/
  | badHint
  deriving DecidableEq, Repr

/-- The fields of a word (R40, R41): OP, ST, PK, D, A, B and F, most significant first. -/
structure Fields where
  op : BitVec 7
  st : BitVec 3
  pk : BitVec 2
  d  : BitVec 6
  a  : BitVec 6
  b  : BitVec 6
  f  : BitVec 2
  deriving DecidableEq, Repr

/-- The fields of a word. -/
def Fields.ofWord (w : BitVec 32) : Fields :=
  ⟨w.extractLsb' 25 7, w.extractLsb' 22 3, w.extractLsb' 20 2, w.extractLsb' 14 6, w.extractLsb' 8 6,
    w.extractLsb' 2 6, w.extractLsb' 0 2⟩

/-- The word of the fields. -/
def Fields.toWord (x : Fields) : BitVec 32 := x.op ++ x.st ++ x.pk ++ x.d ++ x.a ++ x.b ++ x.f

/-- A hint word (R45, R48, R49): HT is where other words hold ST. -/
def decodeHint (x : Fields) : Except Reject Instr :=
  if x.st = 0#3 then .ok (.imx (x.pk ++ x.d ++ x.a ++ x.b ++ x.f))
  else if x.st = 1#3 ∧ x.pk = 0#2 ∧ x.d = 0#6 then
    .ok (.mod (x.a.extractLsb' 3 3) (x.a.extractLsb' 0 3 ++ x.b.extractLsb' 4 2) (x.b.extractLsb' 3 1)
      (x.b.extractLsb' 2 1) (x.b.extractLsb' 1 1) (x.b.extractLsb' 0 1) (x.f.extractLsb' 1 1) (x.f.extractLsb' 0 1))
  else if x.st = 2#3 ∧ x.pk = 0#2 ∧ x.d = 0#6 ∧ x.a = 0#6 ∧ x.b.extractLsb' 1 5 = 0#5 then
    .ok (.sch (x.b.extractLsb' 0 1) (x.f.extractLsb' 1 1) (x.f.extractLsb' 0 1))
  else .error .badHint

/-- The opcode map (R55 to R65): selectors and fields that must be 0. -/
def decodeFields (x : Fields) : Except Reject Instr :=
  match x.op.toNat with
    | 0x00 =>
      if x.f = 0#2 then .ok (.add x.st x.pk x.d x.a x.b)
      else if x.f = 1#2 then .ok (.sub x.st x.pk x.d x.a x.b)
      else if x.f = 2#2 then .ok (.mul x.st x.pk x.d x.a x.b)
      else if x.f = 3#2 then .ok (.mulh x.st x.pk x.d x.a x.b)
      else .error .badField
    | 0x01 =>
      if x.f = 0#2 then .ok (.mulhn x.st x.pk x.d x.a x.b)
      else if x.f = 1#2 then .ok (.div x.st x.pk x.d x.a x.b)
      else if x.f = 2#2 then .ok (.divn x.st x.pk x.d x.a x.b)
      else if x.f = 3#2 then .ok (.rem x.st x.pk x.d x.a x.b)
      else .error .badField
    | 0x02 =>
      if x.f = 0#2 then .ok (.remn x.st x.pk x.d x.a x.b)
      else if x.f = 1#2 then .ok (.and x.st x.pk x.d x.a x.b)
      else if x.f = 2#2 then .ok (.or x.st x.pk x.d x.a x.b)
      else if x.f = 3#2 then .ok (.xor x.st x.pk x.d x.a x.b)
      else .error .badField
    | 0x03 =>
      if x.f = 0#2 then .ok (.andn x.st x.pk x.d x.a x.b)
      else if x.f = 1#2 then .ok (.shl x.st x.pk x.d x.a x.b)
      else if x.f = 2#2 then .ok (.shr x.st x.pk x.d x.a x.b)
      else if x.f = 3#2 then .ok (.sra x.st x.pk x.d x.a x.b)
      else .error .badField
    | 0x04 =>
      if x.b = 0#6 ∧ x.f = 0#2 then .ok (.clz x.st x.pk x.d x.a)
      else if x.b = 0#6 ∧ x.f = 1#2 then .ok (.popc x.st x.pk x.d x.a)
      else if x.f = 2#2 then .ok (.min x.st x.pk x.d x.a x.b)
      else if x.f = 3#2 then .ok (.minn x.st x.pk x.d x.a x.b)
      else .error .badField
    | 0x05 =>
      if x.b = 0#6 ∧ x.f = 3#2 then .ok (.mov x.st x.pk x.d x.a)
      else if x.f = 0#2 then .ok (.max x.st x.pk x.d x.a x.b)
      else if x.f = 1#2 then .ok (.maxn x.st x.pk x.d x.a x.b)
      else if x.f = 2#2 then .ok (.sel x.st x.pk x.d x.a x.b)
      else .error .badField
    | 0x06 =>
      if x.f = 0#2 then .ok (.cmpeq x.st x.pk x.d x.a x.b)
      else if x.f = 1#2 then .ok (.cmpne x.st x.pk x.d x.a x.b)
      else if x.f = 2#2 then .ok (.cmplt x.st x.pk x.d x.a x.b)
      else if x.f = 3#2 then .ok (.cmpltn x.st x.pk x.d x.a x.b)
      else .error .badField
    | 0x07 =>
      if x.f = 0#2 then .ok (.cmple x.st x.pk x.d x.a x.b)
      else if x.f = 1#2 then .ok (.cmplen x.st x.pk x.d x.a x.b)
      else .error .badField
    | 0x08 =>
      .ok (.addi x.st x.pk x.d x.a (x.b ++ x.f))
    | 0x09 =>
      .ok (.andi x.st x.pk x.d x.a (x.b ++ x.f))
    | 0x0a =>
      .ok (.ori x.st x.pk x.d x.a (x.b ++ x.f))
    | 0x0b =>
      .ok (.xori x.st x.pk x.d x.a (x.b ++ x.f))
    | 0x0c =>
      .ok (.shli x.st x.pk x.d x.a (x.b ++ x.f))
    | 0x0d =>
      .ok (.shri x.st x.pk x.d x.a (x.b ++ x.f))
    | 0x0e =>
      .ok (.srai x.st x.pk x.d x.a (x.b ++ x.f))
    | 0x0f =>
      if x.a = 0#6 then .ok (.movi x.st x.pk x.d (x.b ++ x.f))
      else .error .badField
    | 0x10 =>
      if x.pk = 0#2 ∧ x.d = 0#6 then .ok (.bra x.st (x.a ++ x.b ++ x.f))
      else if x.pk = 1#2 then .ok (.bz x.st x.d (x.a ++ x.b ++ x.f))
      else if x.pk = 2#2 then .ok (.bnz x.st x.d (x.a ++ x.b ++ x.f))
      else .error .badField
    | 0x11 =>
      if x.pk = 0#2 ∧ x.d = 0#6 then .ok (.call x.st (x.a ++ x.b ++ x.f))
      else .error .badField
    | 0x12 =>
      if x.pk = 0#2 ∧ x.d = 0#6 ∧ x.a = 0#6 ∧ x.b = 0#6 ∧ x.f = 1#2 then .ok (.ret x.st)
      else if x.pk = 0#2 ∧ x.d = 0#6 ∧ x.a = 0#6 ∧ x.b = 0#6 ∧ x.f = 3#2 then .ok (.join x.st)
      else if x.pk = 0#2 ∧ x.d = 0#6 ∧ x.b = 0#6 ∧ x.f = 0#2 then .ok (.jmp x.st x.a)
      else if x.pk = 0#2 ∧ x.a.extractLsb' 4 2 = 0#2 ∧ x.f = 2#2 then .ok (.split x.st x.d (x.a.extractLsb' 0 4) x.b)
      else .error .badField
    | 0x13 =>
      if x.pk = 0#2 ∧ x.d = 0#6 ∧ x.a = 0#6 ∧ x.b = 0#6 ∧ x.f = 0#2 then .ok (.exit x.st)
      else if x.pk = 0#2 ∧ x.d = 0#6 ∧ x.a = 0#6 ∧ x.b = 0#6 ∧ x.f = 1#2 then .ok (.nop x.st)
      else if x.pk = 0#2 ∧ x.d = 0#6 ∧ x.a = 0#6 ∧ x.b = 0#6 ∧ x.f = 2#2 then .ok (.brk x.st)
      else if x.pk = 0#2 ∧ x.d = 0#6 ∧ x.a = 0#6 ∧ x.f = 3#2 then .ok (.trap x.st x.b)
      else .error .badField
    | 0x14 =>
      if x.pk = 0#2 ∧ x.d = 0#6 ∧ x.a = 0#6 ∧ x.b = 0#6 ∧ x.f = 0#2 then .ok (.rft x.st)
      else if x.pk = 0#2 ∧ x.d = 50#6 ∧ x.b = 0#6 ∧ x.f = 2#2 then .ok (.setsGinj x.st x.a)
      else if x.pk = 0#2 ∧ x.d = 12#6 ∧ x.b = 0#6 ∧ x.f = 2#2 then .ok (.setsLcause x.st x.a)
      else if x.pk = 0#2 ∧ x.b = 0#6 ∧ x.f = 1#2 then .ok (.gets x.st x.d x.a)
      else if x.pk = 0#2 ∧ x.b = 0#6 ∧ x.f = 2#2 then .ok (.sets x.st x.d x.a)
      else .error .badField
    | 0x15 =>
      if x.pk = 0#2 ∧ x.d = 0#6 ∧ x.b = 0#6 ∧ x.f = 0#2 then .ok (.rfgive x.st x.a)
      else if x.pk = 0#2 ∧ x.b = 0#6 ∧ x.f = 1#2 then .ok (.rfclaim x.st x.d x.a)
      else .error .badField
    | 0x16 =>
      if x.pk = 0#2 ∧ x.d = 0#6 then .ok (.land x.st (x.a ++ x.b ++ x.f))
      else .error .badField
    | 0x17 =>
      if x.pk = 0#2 ∧ x.d = 0#6 ∧ x.a = 0#6 ∧ x.b = 0#6 ∧ x.f = 0#2 then .ok (.resume x.st)
      else if x.pk = 0#2 ∧ x.d = 0#6 ∧ x.b = 0#6 ∧ x.f = 1#2 then .ok (.yield x.st x.a)
      else if x.pk = 0#2 ∧ x.f = 2#2 then .ok (.topup x.st x.d x.a x.b)
      else .error .badField
    | 0x20 =>
      .ok (.vadd x.st x.pk x.d x.a x.b (x.f.extractLsb' 1 1) (x.f.extractLsb' 0 1))
    | 0x21 =>
      .ok (.vsub x.st x.pk x.d x.a x.b (x.f.extractLsb' 1 1) (x.f.extractLsb' 0 1))
    | 0x22 =>
      if x.f.extractLsb' 1 1 = 0#1 then .ok (.vaddc x.st x.pk x.d x.a x.b (x.f.extractLsb' 0 1))
      else if x.f.extractLsb' 1 1 = 1#1 then .ok (.vsubc x.st x.pk x.d x.a x.b (x.f.extractLsb' 0 1))
      else .error .badField
    | 0x23 =>
      if x.f.extractLsb' 1 1 = 0#1 then .ok (.vmul x.st x.pk x.d x.a x.b (x.f.extractLsb' 0 1))
      else if x.f.extractLsb' 1 1 = 1#1 then .ok (.vmad x.st x.pk x.d x.a x.b (x.f.extractLsb' 0 1))
      else .error .badField
    | 0x24 =>
      if x.f.extractLsb' 1 1 = 0#1 then .ok (.vmulh x.st x.pk x.d x.a x.b (x.f.extractLsb' 0 1))
      else if x.f.extractLsb' 1 1 = 1#1 then .ok (.vmulhn x.st x.pk x.d x.a x.b (x.f.extractLsb' 0 1))
      else .error .badField
    | 0x25 =>
      if x.f.extractLsb' 1 1 = 0#1 then .ok (.vand x.st x.pk x.d x.a x.b (x.f.extractLsb' 0 1))
      else if x.f.extractLsb' 1 1 = 1#1 then .ok (.vor x.st x.pk x.d x.a x.b (x.f.extractLsb' 0 1))
      else .error .badField
    | 0x26 =>
      if x.f.extractLsb' 1 1 = 0#1 then .ok (.vxor x.st x.pk x.d x.a x.b (x.f.extractLsb' 0 1))
      else if x.f.extractLsb' 1 1 = 1#1 then .ok (.vandn x.st x.pk x.d x.a x.b (x.f.extractLsb' 0 1))
      else .error .badField
    | 0x27 =>
      if x.f.extractLsb' 1 1 = 0#1 then .ok (.vshl x.st x.pk x.d x.a x.b (x.f.extractLsb' 0 1))
      else if x.f.extractLsb' 1 1 = 1#1 then .ok (.vshr x.st x.pk x.d x.a x.b (x.f.extractLsb' 0 1))
      else .error .badField
    | 0x28 =>
      if x.f.extractLsb' 1 1 = 0#1 then .ok (.vsra x.st x.pk x.d x.a x.b (x.f.extractLsb' 0 1))
      else if x.f.extractLsb' 1 1 = 1#1 then .ok (.vsel x.st x.pk x.d x.a x.b (x.f.extractLsb' 0 1))
      else .error .badField
    | 0x29 =>
      if x.f.extractLsb' 1 1 = 0#1 then .ok (.vmin x.st x.pk x.d x.a x.b (x.f.extractLsb' 0 1))
      else if x.f.extractLsb' 1 1 = 1#1 then .ok (.vminn x.st x.pk x.d x.a x.b (x.f.extractLsb' 0 1))
      else .error .badField
    | 0x2a =>
      if x.f.extractLsb' 1 1 = 0#1 then .ok (.vmax x.st x.pk x.d x.a x.b (x.f.extractLsb' 0 1))
      else if x.f.extractLsb' 1 1 = 1#1 then .ok (.vmaxn x.st x.pk x.d x.a x.b (x.f.extractLsb' 0 1))
      else .error .badField
    | 0x2b =>
      .ok (.vcmp x.st x.pk ((x.d.extractLsb' 4 2) ++ (x.f.extractLsb' 1 1)) (x.d.extractLsb' 0 4) x.a x.b (x.f.extractLsb' 0 1))
    | 0x2c =>
      if x.a = 0#6 ∧ x.b = 4#6 ∧ x.f = 0#2 then .ok (.vidx x.st x.pk x.d)
      else if x.b = 0#6 ∧ x.f = 0#2 then .ok (.vabs x.st x.pk x.d x.a)
      else if x.b = 1#6 ∧ x.f = 0#2 then .ok (.vclz x.st x.pk x.d x.a)
      else if x.b = 2#6 ∧ x.f = 0#2 then .ok (.vpopc x.st x.pk x.d x.a)
      else if x.b = 3#6 ∧ x.f = 0#2 then .ok (.vmovV x.st x.pk x.d x.a)
      else if x.b = 3#6 ∧ x.f = 1#2 then .ok (.vmovS x.st x.pk x.d x.a)
      else .error .badField
    | 0x2d =>
      .ok (.vaddi x.st x.pk x.d x.a (x.b ++ x.f))
    | 0x2e =>
      .ok (.vandi x.st x.pk x.d x.a (x.b ++ x.f))
    | 0x2f =>
      .ok (.vshli x.st x.pk x.d x.a (x.b ++ x.f))
    | 0x30 =>
      .ok (.vshri x.st x.pk x.d x.a (x.b ++ x.f))
    | 0x31 =>
      .ok (.vsrai x.st x.pk x.d x.a (x.b ++ x.f))
    | 0x32 =>
      if x.pk = 0#2 ∧ x.f = 0#2 then .ok (.vmovs x.st x.d x.a x.b)
      else if x.f = 2#2 then .ok (.vbcast x.st x.pk x.d x.a x.b)
      else .error .badField
    | 0x33 =>
      if x.f.extractLsb' 1 1 = 0#1 then .ok (.vperm x.st x.pk x.d x.a x.b (x.f.extractLsb' 0 1))
      else .error .badField
    | 0x34 =>
      if x.f.extractLsb' 1 1 = 0#1 then .ok (.vshflXor x.st x.pk x.d x.a x.b (x.f.extractLsb' 0 1))
      else if x.f.extractLsb' 1 1 = 1#1 then .ok (.vshflRot x.st x.pk x.d x.a x.b (x.f.extractLsb' 0 1))
      else .error .badField
    | 0x35 =>
      if x.f = 0#2 then .ok (.vred x.st x.pk x.d x.a x.b)
      else .error .badField
    | 0x36 =>
      if x.f.extractLsb' 1 1 = 0#1 then .ok (.fadd x.st x.pk x.d x.a x.b (x.f.extractLsb' 0 1))
      else if x.f.extractLsb' 1 1 = 1#1 then .ok (.fsub x.st x.pk x.d x.a x.b (x.f.extractLsb' 0 1))
      else .error .badField
    | 0x37 =>
      if x.f.extractLsb' 1 1 = 0#1 then .ok (.fmul x.st x.pk x.d x.a x.b (x.f.extractLsb' 0 1))
      else if x.f.extractLsb' 1 1 = 1#1 then .ok (.fdiv x.st x.pk x.d x.a x.b (x.f.extractLsb' 0 1))
      else .error .badField
    | 0x38 =>
      if x.f.extractLsb' 1 1 = 0#1 then .ok (.ffma x.st x.pk x.d x.a x.b (x.f.extractLsb' 0 1))
      else if x.f.extractLsb' 1 1 = 1#1 then .ok (.ffms x.st x.pk x.d x.a x.b (x.f.extractLsb' 0 1))
      else .error .badField
    | 0x39 =>
      if x.f.extractLsb' 1 1 = 0#1 then .ok (.fmin x.st x.pk x.d x.a x.b (x.f.extractLsb' 0 1))
      else if x.f.extractLsb' 1 1 = 1#1 then .ok (.fmax x.st x.pk x.d x.a x.b (x.f.extractLsb' 0 1))
      else .error .badField
    | 0x3a =>
      .ok (.fcmp x.st x.pk ((x.d.extractLsb' 4 2) ++ (x.f.extractLsb' 1 1)) (x.d.extractLsb' 0 4) x.a x.b (x.f.extractLsb' 0 1))
    | 0x3b =>
      if x.a = 0#6 ∧ x.b = 9#6 ∧ x.f = 0#2 then .ok (.rand x.st x.pk x.d)
      else if x.b = 0#6 ∧ x.f = 0#2 then .ok (.frcp x.st x.pk x.d x.a)
      else if x.b = 1#6 ∧ x.f = 0#2 then .ok (.frsq x.st x.pk x.d x.a)
      else if x.b = 2#6 ∧ x.f = 0#2 then .ok (.fsqrt x.st x.pk x.d x.a)
      else if x.b = 3#6 ∧ x.f = 0#2 then .ok (.fexp2 x.st x.pk x.d x.a)
      else if x.b = 4#6 ∧ x.f = 0#2 then .ok (.flog2 x.st x.pk x.d x.a)
      else if x.b = 5#6 ∧ x.f = 0#2 then .ok (.fsin x.st x.pk x.d x.a)
      else if x.b = 6#6 ∧ x.f = 0#2 then .ok (.fcos x.st x.pk x.d x.a)
      else if x.b = 7#6 ∧ x.f = 0#2 then .ok (.fclass x.st x.pk x.d x.a)
      else if x.b = 8#6 ∧ x.f = 0#2 then .ok (.frnd x.st x.pk x.d x.a)
      else .error .badField
    | 0x3c =>
      if x.f.extractLsb' 0 1 = 0#1 then .ok (.hadd2 x.st x.pk x.d x.a x.b (x.f.extractLsb' 1 1))
      else if x.f.extractLsb' 0 1 = 1#1 then .ok (.hmul2 x.st x.pk x.d x.a x.b (x.f.extractLsb' 1 1))
      else .error .badField
    | 0x3d =>
      .ok (.hfma2 x.st x.pk x.d x.a x.b (x.f.extractLsb' 1 1) (x.f.extractLsb' 0 1))
    | 0x3e =>
      if x.f = 0#2 then .ok (.cvt x.st x.pk x.d x.a (x.b.extractLsb' 3 3) (x.b.extractLsb' 0 3))
      else if x.f = 1#2 then .ok (.cvtSr x.st x.pk x.d x.a (x.b.extractLsb' 3 3) (x.b.extractLsb' 0 3))
      else .error .badField
    | 0x3f =>
      if x.pk = 0#2 ∧ x.d.extractLsb' 4 2 = 0#2 ∧ x.a.extractLsb' 4 2 = 0#2 ∧ x.b = 16#6 ∧ x.f = 0#2 then .ok (.knot x.st (x.d.extractLsb' 0 4) (x.a.extractLsb' 0 4))
      else if x.pk = 0#2 ∧ x.d.extractLsb' 4 2 = 0#2 ∧ x.a.extractLsb' 4 2 = 0#2 ∧ x.b = 16#6 ∧ x.f = 1#2 then .ok (.kmovK x.st (x.d.extractLsb' 0 4) (x.a.extractLsb' 0 4))
      else if x.pk = 0#2 ∧ x.d.extractLsb' 4 2 = 0#2 ∧ x.b = 16#6 ∧ x.f = 2#2 then .ok (.kmovS x.st (x.d.extractLsb' 0 4) x.a)
      else if x.pk = 0#2 ∧ x.a.extractLsb' 4 2 = 0#2 ∧ x.b = 16#6 ∧ x.f = 3#2 then .ok (.kget x.st x.d (x.a.extractLsb' 0 4))
      else if x.pk = 0#2 ∧ x.a.extractLsb' 4 2 = 0#2 ∧ x.b = 32#6 ∧ x.f = 0#2 then .ok (.kpopc x.st x.d (x.a.extractLsb' 0 4))
      else if x.pk = 0#2 ∧ x.a.extractLsb' 4 2 = 0#2 ∧ x.b = 32#6 ∧ x.f = 1#2 then .ok (.kffs x.st x.d (x.a.extractLsb' 0 4))
      else if x.pk = 0#2 ∧ x.d.extractLsb' 4 2 = 0#2 ∧ x.a.extractLsb' 4 2 = 0#2 ∧ x.b.extractLsb' 4 2 = 0#2 ∧ x.f = 0#2 then .ok (.kand x.st (x.d.extractLsb' 0 4) (x.a.extractLsb' 0 4) (x.b.extractLsb' 0 4))
      else if x.pk = 0#2 ∧ x.d.extractLsb' 4 2 = 0#2 ∧ x.a.extractLsb' 4 2 = 0#2 ∧ x.b.extractLsb' 4 2 = 0#2 ∧ x.f = 1#2 then .ok (.kor x.st (x.d.extractLsb' 0 4) (x.a.extractLsb' 0 4) (x.b.extractLsb' 0 4))
      else if x.pk = 0#2 ∧ x.d.extractLsb' 4 2 = 0#2 ∧ x.a.extractLsb' 4 2 = 0#2 ∧ x.b.extractLsb' 4 2 = 0#2 ∧ x.f = 2#2 then .ok (.kxor x.st (x.d.extractLsb' 0 4) (x.a.extractLsb' 0 4) (x.b.extractLsb' 0 4))
      else if x.pk = 0#2 ∧ x.d.extractLsb' 4 2 = 0#2 ∧ x.a.extractLsb' 4 2 = 0#2 ∧ x.b.extractLsb' 4 2 = 0#2 ∧ x.f = 3#2 then .ok (.kandn x.st (x.d.extractLsb' 0 4) (x.a.extractLsb' 0 4) (x.b.extractLsb' 0 4))
      else .error .badField
    | 0x40 =>
      .ok (.ldv x.st x.pk x.d x.a x.b x.f)
    | 0x41 =>
      .ok (.stv x.st x.pk x.d x.a x.b x.f)
    | 0x42 =>
      if x.b = 0#6 then .ok (.ldx x.st x.pk x.d x.a x.f)
      else .error .badField
    | 0x43 =>
      if x.b = 0#6 then .ok (.stx x.st x.pk x.d x.a x.f)
      else .error .badField
    | 0x44 =>
      .ok (.lds x.st x.pk x.d x.a x.b x.f)
    | 0x45 =>
      .ok (.sts x.st x.pk x.d x.a x.b x.f)
    | 0x46 =>
      .ok (.ldp x.st x.pk x.d x.a x.b x.f)
    | 0x47 =>
      .ok (.stp x.st x.pk x.d x.a x.b x.f)
    | 0x48 =>
      if x.a.extractLsb' 4 2 = 0#2 then .ok (.ldb x.st x.pk x.d (x.a.extractLsb' 0 4) x.b x.f)
      else .error .badField
    | 0x49 =>
      if x.a.extractLsb' 4 2 = 0#2 then .ok (.stb x.st x.pk x.d (x.a.extractLsb' 0 4) x.b x.f)
      else .error .badField
    | 0x4a =>
      if x.b.extractLsb' 3 3 = 0#3 ∧ x.f.extractLsb' 1 1 = 1#1 then .ok (.ldacq x.st x.pk x.d x.a (x.b.extractLsb' 0 3) (x.f.extractLsb' 0 1))
      else .error .badField
    | 0x4b =>
      if x.b.extractLsb' 3 3 = 0#3 ∧ x.f.extractLsb' 1 1 = 1#1 then .ok (.strel x.st x.pk x.d x.a (x.b.extractLsb' 0 3) (x.f.extractLsb' 0 1))
      else .error .badField
    | 0x4c =>
      if x.f.extractLsb' 1 1 = 1#1 then .ok (.atom x.st x.pk x.d x.a x.b (x.f.extractLsb' 0 1))
      else .error .badField
    | 0x4d =>
      if x.b = 0#6 ∧ x.f.extractLsb' 1 1 = 1#1 then .ok (.atoms x.st x.pk x.d x.a (x.f.extractLsb' 0 1))
      else .error .badField
    | 0x4e =>
      if x.f.extractLsb' 1 1 = 1#1 then .ok (.red x.st x.pk x.d x.a x.b (x.f.extractLsb' 0 1))
      else .error .badField
    | 0x4f =>
      if x.pk = 0#2 ∧ x.d = 0#6 ∧ x.a = 0#6 ∧ x.b.extractLsb' 3 3 = 0#3 ∧ x.f = 0#2 then .ok (.fence x.st (x.b.extractLsb' 0 3))
      else .error .badField
    | 0x50 =>
      if x.b = 0#6 ∧ x.f = 0#2 then .ok (.tagld x.st x.pk x.d x.a)
      else .error .badField
    | 0x51 =>
      if x.b = 0#6 ∧ x.f = 0#2 then .ok (.tagst x.st x.pk x.d x.a)
      else .error .badField
    | 0x52 =>
      if x.d = 0#6 ∧ x.f = 0#2 then .ok (.pref x.st x.pk x.a x.b)
      else .error .badField
    | 0x53 =>
      if x.pk = 0#2 ∧ x.d.extractLsb' 4 2 = 0#2 ∧ x.f = 0#2 then .ok (.bdset x.st (x.d.extractLsb' 0 4) x.a x.b)
      else .error .badField
    | 0x54 =>
      if x.pk = 0#2 ∧ x.a.extractLsb' 4 2 = 0#2 ∧ x.b = 0#6 ∧ x.f = 0#2 then .ok (.bdgetLo x.st x.d (x.a.extractLsb' 0 4))
      else if x.pk = 0#2 ∧ x.a.extractLsb' 4 2 = 0#2 ∧ x.b = 0#6 ∧ x.f = 1#2 then .ok (.bdgetHi x.st x.d (x.a.extractLsb' 0 4))
      else .error .badField
    | 0x58 =>
      if x.pk = 0#2 then .ok (.cpyFromGlobal x.st x.d x.a x.b x.f)
      else .error .badField
    | 0x59 =>
      if x.pk = 0#2 then .ok (.cpyFromScratchpad x.st x.d x.a x.b x.f)
      else .error .badField
    | 0x5a =>
      if x.pk = 0#2 then .ok (.cpyFromPeer x.st x.d x.a x.b x.f)
      else .error .badField
    | 0x5b =>
      if x.pk = 0#2 ∧ x.b = 0#6 ∧ x.f.extractLsb' 1 1 = 0#1 then .ok (.cpyt x.st x.d x.a (x.f.extractLsb' 0 1))
      else .error .badField
    | 0x5c =>
      if x.pk = 0#2 ∧ x.b = 0#6 ∧ x.f.extractLsb' 1 1 = 0#1 then .ok (.cpyk x.st x.d x.a (x.f.extractLsb' 0 1))
      else .error .badField
    | 0x5d =>
      if x.pk = 0#2 ∧ x.f = 0#2 then .ok (.cpym x.st x.d x.a x.b)
      else .error .badField
    | 0x60 =>
      if x.pk = 0#2 ∧ x.d.extractLsb' 3 3 = 0#3 ∧ x.f = 0#2 then .ok (.ebind x.st (x.d.extractLsb' 0 3) x.a x.b)
      else if x.pk = 0#2 ∧ x.d.extractLsb' 3 3 = 0#3 ∧ x.f = 1#2 then .ok (.ebindPers x.st (x.d.extractLsb' 0 3) x.a x.b)
      else .error .badField
    | 0x61 =>
      if x.pk = 0#2 ∧ x.d = 0#6 ∧ x.a = 0#6 ∧ x.b = 0#6 ∧ x.f = 1#2 then .ok (.wany x.st)
      else if x.pk = 0#2 ∧ x.d.extractLsb' 3 3 = 0#3 ∧ x.a = 0#6 ∧ x.b = 0#6 ∧ x.f = 0#2 then .ok (.eunbind x.st (x.d.extractLsb' 0 3))
      else if x.pk = 0#2 ∧ x.f = 2#2 then .ok (.mpost x.st x.d x.a x.b)
      else .error .badField
    | 0x62 =>
      if x.pk = 0#2 ∧ x.d = 0#6 ∧ x.b = 0#6 ∧ x.f = 1#2 then .ok (.pegref x.st x.a)
      else if x.pk = 0#2 ∧ x.d = 0#6 ∧ x.b = 0#6 ∧ x.f = 2#2 then .ok (.pegput x.st x.a)
      else if x.pk = 0#2 ∧ x.b = 0#6 ∧ x.f = 0#2 then .ok (.pegget x.st x.d x.a)
      else if x.pk = 0#2 ∧ x.d = 0#6 ∧ x.f = 3#2 then .ok (.pegarr x.st x.a x.b)
      else .error .badField
    | 0x63 =>
      if x.pk = 0#2 ∧ x.d = 0#6 ∧ x.f = 0#2 then .ok (.pegwait x.st x.a x.b)
      else .error .badField
    | 0x64 =>
      if x.pk = 0#2 then .ok (.seal x.st x.d x.a x.b x.f)
      else .error .badField
    | 0x65 =>
      if x.pk = 0#2 ∧ x.d.extractLsb' 2 4 = 0#4 ∧ x.a = 0#6 then .ok (.waitb x.st (x.d.extractLsb' 0 2) (x.b ++ x.f))
      else .error .badField
    | 0x68 =>
      if x.pk = 0#2 ∧ x.d.extractLsb' 3 3 = 0#3 ∧ x.f = 0#2 then .ok (.tld x.st (x.d.extractLsb' 0 3) x.a x.b)
      else .error .badField
    | 0x69 =>
      if x.pk = 0#2 ∧ x.d.extractLsb' 3 3 = 0#3 ∧ x.a = 0#6 ∧ x.b = 0#6 ∧ x.f = 0#2 then .ok (.tzero x.st (x.d.extractLsb' 0 3))
      else .error .badField
    | 0x6a =>
      if x.a.extractLsb' 3 3 = 0#3 ∧ x.b.extractLsb' 3 3 = 0#3 ∧ x.f = 0#2 then .ok (.mma x.st x.pk (x.d.extractLsb' 3 3) (x.d.extractLsb' 0 3) (x.a.extractLsb' 0 3) (x.b.extractLsb' 0 3))
      else .error .badField
    | 0x6b =>
      .ok (.mmaq x.st x.pk (x.d.extractLsb' 3 3) (x.d.extractLsb' 0 3) ((x.a.extractLsb' 3 3) ++ (x.b.extractLsb' 3 3)) (x.a.extractLsb' 0 3) (x.b.extractLsb' 0 3) x.f)
    | 0x6c =>
      if x.d.extractLsb' 3 3 = 0#3 ∧ x.a = 0#6 ∧ x.b = 0#6 ∧ x.f = 0#2 then .ok (.accz x.st x.pk (x.d.extractLsb' 0 3))
      else if x.a.extractLsb' 3 3 = 0#3 ∧ x.f = 1#2 then .ok (.accrd x.st x.pk x.d (x.a.extractLsb' 0 3) x.b)
      else if x.d.extractLsb' 3 3 = 0#3 ∧ x.f = 2#2 then .ok (.accwr x.st x.pk (x.d.extractLsb' 0 3) x.a x.b)
      else .error .badField
    | 0x70 =>
      if x.pk = 0#2 ∧ x.b = 0#6 ∧ x.f = 0#2 then .ok (.gsess x.st x.d x.a)
      else .error .badField
    | 0x71 =>
      if x.pk = 0#2 ∧ x.a = 0#6 ∧ x.b = 0#6 then .ok (.gtrip x.st x.d x.f)
      else .error .badField
    | 0x72 =>
      if x.pk = 0#2 then .ok (.gmask x.st x.d x.a x.b x.f)
      else .error .badField
    | 0x73 =>
      if x.pk = 0#2 ∧ x.a = 0#6 ∧ x.b = 0#6 then .ok (.gopen x.st x.d x.f)
      else .error .badField
    | 0x74 =>
      if x.pk = 0#2 ∧ x.b = 0#6 then .ok (.gfin x.st x.d x.a x.f)
      else .error .badField
    | 0x75 =>
      if x.pk = 0#2 ∧ x.b = 0#6 ∧ x.f = 1#2 then .ok (.gmsb x.st x.d x.a)
      else if x.pk = 0#2 ∧ x.b = 0#6 ∧ x.f = 2#2 then .ok (.gb2a x.st x.d x.a)
      else if x.pk = 0#2 ∧ x.b = 0#6 ∧ x.f = 3#2 then .ok (.greveal x.st x.d x.a)
      else if x.pk = 0#2 ∧ x.f = 0#2 then .ok (.gtrunc x.st x.d x.a x.b)
      else .error .badField
    | 0x76 =>
      if x.pk = 0#2 ∧ x.d.extractLsb' 3 3 = 0#3 ∧ x.a = 0#6 ∧ x.b = 0#6 ∧ x.f = 0#2 then .ok (.gtript x.st (x.d.extractLsb' 0 3))
      else if x.pk = 0#2 ∧ x.d.extractLsb' 3 3 = 0#3 ∧ x.a = 0#6 ∧ x.b = 0#6 ∧ x.f = 2#2 then .ok (.gopent x.st (x.d.extractLsb' 0 3))
      else if x.pk = 0#2 ∧ x.d.extractLsb' 3 3 = 0#3 ∧ x.a.extractLsb' 3 3 = 0#3 ∧ x.b.extractLsb' 3 3 = 0#3 ∧ x.f = 1#2 then .ok (.gmaskt x.st (x.d.extractLsb' 0 3) (x.a.extractLsb' 0 3) (x.b.extractLsb' 0 3))
      else .error .badField
    | 0x78 =>
      if x.pk = 0#2 ∧ x.b = 0#6 ∧ x.f = 0#2 then .ok (.launch x.st x.d x.a)
      else .error .badField
    | 0x79 =>
      if x.pk = 0#2 ∧ x.b = 0#6 ∧ x.f = 0#2 then .ok (.emit x.st x.d x.a)
      else .error .badField
    | 0x7a =>
      if x.pk = 0#2 ∧ x.f = 0#2 then .ok (.spawn x.st x.d x.a x.b)
      else .error .badField
    | 0x7c =>
      if x.pk = 0#2 ∧ x.d = 0#6 ∧ x.b = 0#6 ∧ x.f = 0#2 then .ok (.tlbdrain x.st x.a)
      else if x.pk = 0#2 ∧ x.b = 0#6 ∧ x.f = 1#2 then .ok (.tlbconf x.st x.d x.a)
      else .error .badField
    | 0x7d =>
      if x.pk = 0#2 ∧ x.d = 0#6 ∧ x.f = 0#2 then .ok (.ctxsv x.st x.a x.b)
      else if x.pk = 0#2 ∧ x.d = 0#6 ∧ x.f = 1#2 then .ok (.ctxld x.st x.a x.b)
      else .error .badField
    | 0x7f => decodeHint x
    | _ => .error .unassignedMajor

/-- The instruction a word encodes. -/
def decode (w : BitVec 32) : Except Reject Instr :=
  if w = 0#32 then .error .zeroWord
  else
    match decodeFields (Fields.ofWord w) with
    | .ok i => if i.wellFormed then .ok i else .error .outOfRange
    | .error r => .error r

/-- The fields of an instruction's word; an event has no word. -/
def Instr.fields : Instr → Option Fields
  | .add st pk d a b => some ⟨0#7, st, pk, d, a, b, 0#2⟩
  | .sub st pk d a b => some ⟨0#7, st, pk, d, a, b, 1#2⟩
  | .mul st pk d a b => some ⟨0#7, st, pk, d, a, b, 2#2⟩
  | .mulh st pk d a b => some ⟨0#7, st, pk, d, a, b, 3#2⟩
  | .mulhn st pk d a b => some ⟨1#7, st, pk, d, a, b, 0#2⟩
  | .div st pk d a b => some ⟨1#7, st, pk, d, a, b, 1#2⟩
  | .divn st pk d a b => some ⟨1#7, st, pk, d, a, b, 2#2⟩
  | .rem st pk d a b => some ⟨1#7, st, pk, d, a, b, 3#2⟩
  | .remn st pk d a b => some ⟨2#7, st, pk, d, a, b, 0#2⟩
  | .and st pk d a b => some ⟨2#7, st, pk, d, a, b, 1#2⟩
  | .or st pk d a b => some ⟨2#7, st, pk, d, a, b, 2#2⟩
  | .xor st pk d a b => some ⟨2#7, st, pk, d, a, b, 3#2⟩
  | .andn st pk d a b => some ⟨3#7, st, pk, d, a, b, 0#2⟩
  | .shl st pk d a b => some ⟨3#7, st, pk, d, a, b, 1#2⟩
  | .shr st pk d a b => some ⟨3#7, st, pk, d, a, b, 2#2⟩
  | .sra st pk d a b => some ⟨3#7, st, pk, d, a, b, 3#2⟩
  | .clz st pk d a => some ⟨4#7, st, pk, d, a, 0#6, 0#2⟩
  | .popc st pk d a => some ⟨4#7, st, pk, d, a, 0#6, 1#2⟩
  | .min st pk d a b => some ⟨4#7, st, pk, d, a, b, 2#2⟩
  | .minn st pk d a b => some ⟨4#7, st, pk, d, a, b, 3#2⟩
  | .max st pk d a b => some ⟨5#7, st, pk, d, a, b, 0#2⟩
  | .maxn st pk d a b => some ⟨5#7, st, pk, d, a, b, 1#2⟩
  | .sel st pk d a b => some ⟨5#7, st, pk, d, a, b, 2#2⟩
  | .mov st pk d a => some ⟨5#7, st, pk, d, a, 0#6, 3#2⟩
  | .cmpeq st pk d a b => some ⟨6#7, st, pk, d, a, b, 0#2⟩
  | .cmpne st pk d a b => some ⟨6#7, st, pk, d, a, b, 1#2⟩
  | .cmplt st pk d a b => some ⟨6#7, st, pk, d, a, b, 2#2⟩
  | .cmpltn st pk d a b => some ⟨6#7, st, pk, d, a, b, 3#2⟩
  | .cmple st pk d a b => some ⟨7#7, st, pk, d, a, b, 0#2⟩
  | .cmplen st pk d a b => some ⟨7#7, st, pk, d, a, b, 1#2⟩
  | .addi st pk d a i => some ⟨8#7, st, pk, d, a, i.extractLsb' 2 6, i.extractLsb' 0 2⟩
  | .andi st pk d a i => some ⟨9#7, st, pk, d, a, i.extractLsb' 2 6, i.extractLsb' 0 2⟩
  | .ori st pk d a i => some ⟨10#7, st, pk, d, a, i.extractLsb' 2 6, i.extractLsb' 0 2⟩
  | .xori st pk d a i => some ⟨11#7, st, pk, d, a, i.extractLsb' 2 6, i.extractLsb' 0 2⟩
  | .shli st pk d a i => some ⟨12#7, st, pk, d, a, i.extractLsb' 2 6, i.extractLsb' 0 2⟩
  | .shri st pk d a i => some ⟨13#7, st, pk, d, a, i.extractLsb' 2 6, i.extractLsb' 0 2⟩
  | .srai st pk d a i => some ⟨14#7, st, pk, d, a, i.extractLsb' 2 6, i.extractLsb' 0 2⟩
  | .movi st pk d i => some ⟨15#7, st, pk, d, 0#6, i.extractLsb' 2 6, i.extractLsb' 0 2⟩
  | .bra st o => some ⟨16#7, st, 0#2, 0#6, o.extractLsb' 8 6, o.extractLsb' 2 6, o.extractLsb' 0 2⟩
  | .bz st a o => some ⟨16#7, st, 1#2, a, o.extractLsb' 8 6, o.extractLsb' 2 6, o.extractLsb' 0 2⟩
  | .bnz st a o => some ⟨16#7, st, 2#2, a, o.extractLsb' 8 6, o.extractLsb' 2 6, o.extractLsb' 0 2⟩
  | .call st o => some ⟨17#7, st, 0#2, 0#6, o.extractLsb' 8 6, o.extractLsb' 2 6, o.extractLsb' 0 2⟩
  | .jmp st a => some ⟨18#7, st, 0#2, 0#6, a, 0#6, 0#2⟩
  | .ret st => some ⟨18#7, st, 0#2, 0#6, 0#6, 0#6, 1#2⟩
  | .split st d a b => some ⟨18#7, st, 0#2, d, 0#2 ++ a, b, 2#2⟩
  | .join st => some ⟨18#7, st, 0#2, 0#6, 0#6, 0#6, 3#2⟩
  | .exit st => some ⟨19#7, st, 0#2, 0#6, 0#6, 0#6, 0#2⟩
  | .nop st => some ⟨19#7, st, 0#2, 0#6, 0#6, 0#6, 1#2⟩
  | .brk st => some ⟨19#7, st, 0#2, 0#6, 0#6, 0#6, 2#2⟩
  | .trap st c => some ⟨19#7, st, 0#2, 0#6, 0#6, c, 3#2⟩
  | .rft st => some ⟨20#7, st, 0#2, 0#6, 0#6, 0#6, 0#2⟩
  | .gets st d n => some ⟨20#7, st, 0#2, d, n, 0#6, 1#2⟩
  | .sets st n a => some ⟨20#7, st, 0#2, n, a, 0#6, 2#2⟩
  | .setsGinj st a => some ⟨20#7, st, 0#2, 50#6, a, 0#6, 2#2⟩
  | .setsLcause st a => some ⟨20#7, st, 0#2, 12#6, a, 0#6, 2#2⟩
  | .rfgive st a => some ⟨21#7, st, 0#2, 0#6, a, 0#6, 0#2⟩
  | .rfclaim st d a => some ⟨21#7, st, 0#2, d, a, 0#6, 1#2⟩
  | .land st o => some ⟨22#7, st, 0#2, 0#6, o.extractLsb' 8 6, o.extractLsb' 2 6, o.extractLsb' 0 2⟩
  | .resume st => some ⟨23#7, st, 0#2, 0#6, 0#6, 0#6, 0#2⟩
  | .yield st a => some ⟨23#7, st, 0#2, 0#6, a, 0#6, 1#2⟩
  | .topup st d a b => some ⟨23#7, st, 0#2, d, a, b, 2#2⟩
  | .vadd st pk d a b t x => some ⟨32#7, st, pk, d, a, b, t ++ x⟩
  | .vsub st pk d a b t x => some ⟨33#7, st, pk, d, a, b, t ++ x⟩
  | .vaddc st pk d a b x => some ⟨34#7, st, pk, d, a, b, 0#1 ++ x⟩
  | .vsubc st pk d a b x => some ⟨34#7, st, pk, d, a, b, 1#1 ++ x⟩
  | .vmul st pk d a b x => some ⟨35#7, st, pk, d, a, b, 0#1 ++ x⟩
  | .vmad st pk d a b x => some ⟨35#7, st, pk, d, a, b, 1#1 ++ x⟩
  | .vmulh st pk d a b x => some ⟨36#7, st, pk, d, a, b, 0#1 ++ x⟩
  | .vmulhn st pk d a b x => some ⟨36#7, st, pk, d, a, b, 1#1 ++ x⟩
  | .vand st pk d a b x => some ⟨37#7, st, pk, d, a, b, 0#1 ++ x⟩
  | .vor st pk d a b x => some ⟨37#7, st, pk, d, a, b, 1#1 ++ x⟩
  | .vxor st pk d a b x => some ⟨38#7, st, pk, d, a, b, 0#1 ++ x⟩
  | .vandn st pk d a b x => some ⟨38#7, st, pk, d, a, b, 1#1 ++ x⟩
  | .vshl st pk d a b x => some ⟨39#7, st, pk, d, a, b, 0#1 ++ x⟩
  | .vshr st pk d a b x => some ⟨39#7, st, pk, d, a, b, 1#1 ++ x⟩
  | .vsra st pk d a b x => some ⟨40#7, st, pk, d, a, b, 0#1 ++ x⟩
  | .vsel st pk d a b x => some ⟨40#7, st, pk, d, a, b, 1#1 ++ x⟩
  | .vmin st pk d a b x => some ⟨41#7, st, pk, d, a, b, 0#1 ++ x⟩
  | .vminn st pk d a b x => some ⟨41#7, st, pk, d, a, b, 1#1 ++ x⟩
  | .vmax st pk d a b x => some ⟨42#7, st, pk, d, a, b, 0#1 ++ x⟩
  | .vmaxn st pk d a b x => some ⟨42#7, st, pk, d, a, b, 1#1 ++ x⟩
  | .vcmp st pk c d a b x => some ⟨43#7, st, pk, (c.extractLsb' 1 2) ++ d, a, b, (c.extractLsb' 0 1) ++ x⟩
  | .vabs st pk d a => some ⟨44#7, st, pk, d, a, 0#6, 0#2⟩
  | .vclz st pk d a => some ⟨44#7, st, pk, d, a, 1#6, 0#2⟩
  | .vpopc st pk d a => some ⟨44#7, st, pk, d, a, 2#6, 0#2⟩
  | .vmovV st pk d a => some ⟨44#7, st, pk, d, a, 3#6, 0#2⟩
  | .vmovS st pk d a => some ⟨44#7, st, pk, d, a, 3#6, 1#2⟩
  | .vidx st pk d => some ⟨44#7, st, pk, d, 0#6, 4#6, 0#2⟩
  | .vaddi st pk d a i => some ⟨45#7, st, pk, d, a, i.extractLsb' 2 6, i.extractLsb' 0 2⟩
  | .vandi st pk d a i => some ⟨46#7, st, pk, d, a, i.extractLsb' 2 6, i.extractLsb' 0 2⟩
  | .vshli st pk d a i => some ⟨47#7, st, pk, d, a, i.extractLsb' 2 6, i.extractLsb' 0 2⟩
  | .vshri st pk d a i => some ⟨48#7, st, pk, d, a, i.extractLsb' 2 6, i.extractLsb' 0 2⟩
  | .vsrai st pk d a i => some ⟨49#7, st, pk, d, a, i.extractLsb' 2 6, i.extractLsb' 0 2⟩
  | .vmovs st d a b => some ⟨50#7, st, 0#2, d, a, b, 0#2⟩
  | .vbcast st pk d a b => some ⟨50#7, st, pk, d, a, b, 2#2⟩
  | .vperm st pk d a b x => some ⟨51#7, st, pk, d, a, b, 0#1 ++ x⟩
  | .vshflXor st pk d a b x => some ⟨52#7, st, pk, d, a, b, 0#1 ++ x⟩
  | .vshflRot st pk d a b x => some ⟨52#7, st, pk, d, a, b, 1#1 ++ x⟩
  | .vred st pk d a c => some ⟨53#7, st, pk, d, a, c, 0#2⟩
  | .fadd st pk d a b x => some ⟨54#7, st, pk, d, a, b, 0#1 ++ x⟩
  | .fsub st pk d a b x => some ⟨54#7, st, pk, d, a, b, 1#1 ++ x⟩
  | .fmul st pk d a b x => some ⟨55#7, st, pk, d, a, b, 0#1 ++ x⟩
  | .fdiv st pk d a b x => some ⟨55#7, st, pk, d, a, b, 1#1 ++ x⟩
  | .ffma st pk d a b x => some ⟨56#7, st, pk, d, a, b, 0#1 ++ x⟩
  | .ffms st pk d a b x => some ⟨56#7, st, pk, d, a, b, 1#1 ++ x⟩
  | .fmin st pk d a b x => some ⟨57#7, st, pk, d, a, b, 0#1 ++ x⟩
  | .fmax st pk d a b x => some ⟨57#7, st, pk, d, a, b, 1#1 ++ x⟩
  | .fcmp st pk c d a b x => some ⟨58#7, st, pk, (c.extractLsb' 1 2) ++ d, a, b, (c.extractLsb' 0 1) ++ x⟩
  | .frcp st pk d a => some ⟨59#7, st, pk, d, a, 0#6, 0#2⟩
  | .frsq st pk d a => some ⟨59#7, st, pk, d, a, 1#6, 0#2⟩
  | .fsqrt st pk d a => some ⟨59#7, st, pk, d, a, 2#6, 0#2⟩
  | .fexp2 st pk d a => some ⟨59#7, st, pk, d, a, 3#6, 0#2⟩
  | .flog2 st pk d a => some ⟨59#7, st, pk, d, a, 4#6, 0#2⟩
  | .fsin st pk d a => some ⟨59#7, st, pk, d, a, 5#6, 0#2⟩
  | .fcos st pk d a => some ⟨59#7, st, pk, d, a, 6#6, 0#2⟩
  | .fclass st pk d a => some ⟨59#7, st, pk, d, a, 7#6, 0#2⟩
  | .frnd st pk d a => some ⟨59#7, st, pk, d, a, 8#6, 0#2⟩
  | .rand st pk d => some ⟨59#7, st, pk, d, 0#6, 9#6, 0#2⟩
  | .hadd2 st pk d a b t => some ⟨60#7, st, pk, d, a, b, t ++ 0#1⟩
  | .hmul2 st pk d a b t => some ⟨60#7, st, pk, d, a, b, t ++ 1#1⟩
  | .hfma2 st pk d a b t x => some ⟨61#7, st, pk, d, a, b, t ++ x⟩
  | .cvt st pk d a u w => some ⟨62#7, st, pk, d, a, u ++ w, 0#2⟩
  | .cvtSr st pk d a u w => some ⟨62#7, st, pk, d, a, u ++ w, 1#2⟩
  | .kand st d a b => some ⟨63#7, st, 0#2, 0#2 ++ d, 0#2 ++ a, 0#2 ++ b, 0#2⟩
  | .kor st d a b => some ⟨63#7, st, 0#2, 0#2 ++ d, 0#2 ++ a, 0#2 ++ b, 1#2⟩
  | .kxor st d a b => some ⟨63#7, st, 0#2, 0#2 ++ d, 0#2 ++ a, 0#2 ++ b, 2#2⟩
  | .kandn st d a b => some ⟨63#7, st, 0#2, 0#2 ++ d, 0#2 ++ a, 0#2 ++ b, 3#2⟩
  | .knot st d a => some ⟨63#7, st, 0#2, 0#2 ++ d, 0#2 ++ a, 16#6, 0#2⟩
  | .kmovK st d a => some ⟨63#7, st, 0#2, 0#2 ++ d, 0#2 ++ a, 16#6, 1#2⟩
  | .kmovS st d a => some ⟨63#7, st, 0#2, 0#2 ++ d, a, 16#6, 2#2⟩
  | .kget st d a => some ⟨63#7, st, 0#2, d, 0#2 ++ a, 16#6, 3#2⟩
  | .kpopc st d a => some ⟨63#7, st, 0#2, d, 0#2 ++ a, 32#6, 0#2⟩
  | .kffs st d a => some ⟨63#7, st, 0#2, d, 0#2 ++ a, 32#6, 1#2⟩
  | .ldv st pk d a b z => some ⟨64#7, st, pk, d, a, b, z⟩
  | .stv st pk d a b z => some ⟨65#7, st, pk, d, a, b, z⟩
  | .ldx st pk d a z => some ⟨66#7, st, pk, d, a, 0#6, z⟩
  | .stx st pk d a z => some ⟨67#7, st, pk, d, a, 0#6, z⟩
  | .lds st pk d a b z => some ⟨68#7, st, pk, d, a, b, z⟩
  | .sts st pk d a b z => some ⟨69#7, st, pk, d, a, b, z⟩
  | .ldp st pk d a b q => some ⟨70#7, st, pk, d, a, b, q⟩
  | .stp st pk d a b q => some ⟨71#7, st, pk, d, a, b, q⟩
  | .ldb st pk d a b z => some ⟨72#7, st, pk, d, 0#2 ++ a, b, z⟩
  | .stb st pk d a b z => some ⟨73#7, st, pk, d, 0#2 ++ a, b, z⟩
  | .ldacq st pk d a c z => some ⟨74#7, st, pk, d, a, 0#3 ++ c, 1#1 ++ z⟩
  | .strel st pk d a c z => some ⟨75#7, st, pk, d, a, 0#3 ++ c, 1#1 ++ z⟩
  | .atom st pk d a b z => some ⟨76#7, st, pk, d, a, b, 1#1 ++ z⟩
  | .atoms st pk d a z => some ⟨77#7, st, pk, d, a, 0#6, 1#1 ++ z⟩
  | .red st pk d a b z => some ⟨78#7, st, pk, d, a, b, 1#1 ++ z⟩
  | .fence st c => some ⟨79#7, st, 0#2, 0#6, 0#6, 0#3 ++ c, 0#2⟩
  | .tagld st pk d a => some ⟨80#7, st, pk, d, a, 0#6, 0#2⟩
  | .tagst st pk d a => some ⟨81#7, st, pk, d, a, 0#6, 0#2⟩
  | .pref st pk a b => some ⟨82#7, st, pk, 0#6, a, b, 0#2⟩
  | .bdset st d a b => some ⟨83#7, st, 0#2, 0#2 ++ d, a, b, 0#2⟩
  | .bdgetLo st d a => some ⟨84#7, st, 0#2, d, 0#2 ++ a, 0#6, 0#2⟩
  | .bdgetHi st d a => some ⟨84#7, st, 0#2, d, 0#2 ++ a, 0#6, 1#2⟩
  | .cpyFromGlobal st d a b f => some ⟨88#7, st, 0#2, d, a, b, f⟩
  | .cpyFromScratchpad st d a b f => some ⟨89#7, st, 0#2, d, a, b, f⟩
  | .cpyFromPeer st d a b f => some ⟨90#7, st, 0#2, d, a, b, f⟩
  | .cpyt st d a f => some ⟨91#7, st, 0#2, d, a, 0#6, 0#1 ++ f⟩
  | .cpyk st d a f => some ⟨92#7, st, 0#2, d, a, 0#6, 0#1 ++ f⟩
  | .cpym st d a b => some ⟨93#7, st, 0#2, d, a, b, 0#2⟩
  | .ebind st d a b => some ⟨96#7, st, 0#2, 0#3 ++ d, a, b, 0#2⟩
  | .ebindPers st d a b => some ⟨96#7, st, 0#2, 0#3 ++ d, a, b, 1#2⟩
  | .eunbind st d => some ⟨97#7, st, 0#2, 0#3 ++ d, 0#6, 0#6, 0#2⟩
  | .wany st => some ⟨97#7, st, 0#2, 0#6, 0#6, 0#6, 1#2⟩
  | .mpost st d a b => some ⟨97#7, st, 0#2, d, a, b, 2#2⟩
  | .pegget st d a => some ⟨98#7, st, 0#2, d, a, 0#6, 0#2⟩
  | .pegref st a => some ⟨98#7, st, 0#2, 0#6, a, 0#6, 1#2⟩
  | .pegput st a => some ⟨98#7, st, 0#2, 0#6, a, 0#6, 2#2⟩
  | .pegarr st a b => some ⟨98#7, st, 0#2, 0#6, a, b, 3#2⟩
  | .pegwait st a b => some ⟨99#7, st, 0#2, 0#6, a, b, 0#2⟩
  | .seal st d a b c => some ⟨100#7, st, 0#2, d, a, b, c⟩
  | .waitb st c i => some ⟨101#7, st, 0#2, 0#4 ++ c, 0#6, i.extractLsb' 2 6, i.extractLsb' 0 2⟩
  | .tld st d a b => some ⟨104#7, st, 0#2, 0#3 ++ d, a, b, 0#2⟩
  | .tzero st d => some ⟨105#7, st, 0#2, 0#3 ++ d, 0#6, 0#6, 0#2⟩
  | .mma st pk t d a b => some ⟨106#7, st, pk, t ++ d, 0#3 ++ a, 0#3 ++ b, 0#2⟩
  | .mmaq st pk t d q a b g => some ⟨107#7, st, pk, t ++ d, (q.extractLsb' 3 3) ++ a, (q.extractLsb' 0 3) ++ b, g⟩
  | .accz st pk d => some ⟨108#7, st, pk, 0#3 ++ d, 0#6, 0#6, 0#2⟩
  | .accrd st pk d a b => some ⟨108#7, st, pk, d, 0#3 ++ a, b, 1#2⟩
  | .accwr st pk d a b => some ⟨108#7, st, pk, 0#3 ++ d, a, b, 2#2⟩
  | .gsess st d a => some ⟨112#7, st, 0#2, d, a, 0#6, 0#2⟩
  | .gtrip st d t => some ⟨113#7, st, 0#2, d, 0#6, 0#6, t⟩
  | .gmask st d a b t => some ⟨114#7, st, 0#2, d, a, b, t⟩
  | .gopen st d t => some ⟨115#7, st, 0#2, d, 0#6, 0#6, t⟩
  | .gfin st d a t => some ⟨116#7, st, 0#2, d, a, 0#6, t⟩
  | .gtrunc st d a f => some ⟨117#7, st, 0#2, d, a, f, 0#2⟩
  | .gmsb st d a => some ⟨117#7, st, 0#2, d, a, 0#6, 1#2⟩
  | .gb2a st d a => some ⟨117#7, st, 0#2, d, a, 0#6, 2#2⟩
  | .greveal st d a => some ⟨117#7, st, 0#2, d, a, 0#6, 3#2⟩
  | .gtript st d => some ⟨118#7, st, 0#2, 0#3 ++ d, 0#6, 0#6, 0#2⟩
  | .gmaskt st d a b => some ⟨118#7, st, 0#2, 0#3 ++ d, 0#3 ++ a, 0#3 ++ b, 1#2⟩
  | .gopent st d => some ⟨118#7, st, 0#2, 0#3 ++ d, 0#6, 0#6, 2#2⟩
  | .launch st d a => some ⟨120#7, st, 0#2, d, a, 0#6, 0#2⟩
  | .emit st d a => some ⟨121#7, st, 0#2, d, a, 0#6, 0#2⟩
  | .spawn st d a b => some ⟨122#7, st, 0#2, d, a, b, 0#2⟩
  | .tlbdrain st a => some ⟨124#7, st, 0#2, 0#6, a, 0#6, 0#2⟩
  | .tlbconf st d a => some ⟨124#7, st, 0#2, d, a, 0#6, 1#2⟩
  | .ctxsv st a b => some ⟨125#7, st, 0#2, 0#6, a, b, 0#2⟩
  | .ctxld st a b => some ⟨125#7, st, 0#2, 0#6, a, b, 1#2⟩
  | .imx payload => some ⟨127#7, 0#3, payload.extractLsb' 20 2, payload.extractLsb' 14 6, payload.extractLsb' 8 6, payload.extractLsb' 2 6, payload.extractLsb' 0 2⟩
  | .mod m k u v w x y z => some ⟨127#7, 1#3, 0#2, 0#6, m ++ (k.extractLsb' 2 3), (k.extractLsb' 0 2) ++ u ++ v ++ w ++ x, y ++ z⟩
  | .sch b a y => some ⟨127#7, 2#3, 0#2, 0#6, 0#6, 0#5 ++ b, a ++ y⟩
  | .sliceTimerExpiry .. => none
  | .clamp .. => none
  | .preemptionDeadline .. => none
  | .issueAgeingPromotion .. => none
  | .loadResponse .. => none
  | .atomicResponse .. => none
  | .storeAck .. => none
  | .sliceMergeStep .. => none
  | .sliceAtomic .. => none
  | .sliceTagst .. => none
  | .peerAccess .. => none
  | .operandLogReplay .. => none
  | .hamperReplay .. => none
  | .deferredTrapDelivery .. => none
  | .trapQueueHeadWrite .. => none
  | .eventTimerExpiry .. => none
  | .wanyDelivery .. => none
  | .batchComplete .. => none
  | .streamerPiece .. => none
  | .matrixOpStart .. => none
  | .matrixOperandsConsumed .. => none
  | .matrixOpComplete .. => none
  | .matrixWatchdog .. => none
  | .matrixEngineError .. => none
  | .matrixResetEnd .. => none
  | .gateDrawPerformed .. => none
  | .gateCrossingAccept .. => none
  | .gateCrossingArrive .. => none
  | .gatePairAbort .. => none
  | .gateAbortNotice .. => none
  | .groupEnd .. => none
  | .qtailWrite .. => none
  | .qctlEnWrite .. => none
  | .qctlErrClear .. => none
  | .launchRecordAccept .. => none
  | .launchStart .. => none
  | .teamPlacement .. => none
  | .placementWaitLimit .. => none
  | .nurseryIdleFlush .. => none
  | .quiescenceSample .. => none
  | .quantumEnd .. => none
  | .commitPhase .. => none
  | .teamSave .. => none
  | .debuggerHalt .. => none
  | .poolUncorrectableError .. => none
  | .sliceUncorrectableError .. => none
  | .coreSelfCheckError .. => none
  | .coreIssueWatchdog .. => none
  | .migrationComplete .. => none
  | .tlbconfComplete .. => none
  | .hostBar2Read .. => none
  | .hostBar2Write .. => none
  | .herrClear .. => none
  | .registerWrite .. => none
  | .peerWindowAccess .. => none
  | .create .. => none
  | .start .. => none
  | .halt .. => none
  | .destroy .. => none
  | .slice .. => none
  | .supervisor .. => none
  | .attest .. => none
  | .getcert .. => none
  | .bbread .. => none
  | .freeze .. => none
  | .readout .. => none
  | .powercap .. => none
  | .flash .. => none
  | .freezeN .. => none
  | .resetRelease .. => none
  | .powerOn .. => none
  | .linkBeatError .. => none
  | .linkAudit .. => none
  | .linkRetrainComplete .. => none
  | .routerSelfCheckError .. => none
  | .routerStallTimeout .. => none
  | .routerFenceComplete .. => none
  | .cxlPortDown .. => none
  | .powerCapExceeded .. => none
  | .thermalTrip .. => none
  | .correctableError .. => none
  | .withheldIssueCauseClears .. => none
  | .debuggerHaltEnd .. => none
  | .freezeNRelease .. => none

/-- The word of a well-formed instruction (R41, R45, R55 to R65). -/
def encode (i : Instr) : Option (BitVec 32) := i.fields.map Fields.toWord

/-- A 32-bit word from its four bytes, the lowest address first (R40: little-endian). -/
def wordOfBytes (b0 b1 b2 b3 : BitVec 8) : BitVec 32 := b3 ++ b2 ++ b1 ++ b0

/-- The four bytes of a word, the lowest address first (R40). -/
def bytesOfWord (w : BitVec 32) : List (BitVec 8) :=
  [w.extractLsb' 0 8, w.extractLsb' 8 8, w.extractLsb' 16 8, w.extractLsb' 24 8]

/-- The decoder on the bytes a row of the opcode table stands for: every row with an encoding is one 32-bit word. -/
def decodeTableWord (nbits w : Nat) : Option Instr :=
  if nbits ≤ 32 then
    match bytesOfWord (BitVec.ofNat 32 w) with
    | [b0, b1, b2, b3] => (decode (wordOfBytes b0 b1 b2 b3)).toOption
    | _ => none
  else none

end Sys2Proof
end

