-- ==== Sys2Proof/Config.lean ====
section
/-! DEFINITION. Config.lean: what the part fixes (R18, R37, R163, R232, R233, R274, R309) and the free values the spec
leaves open, as constants without a body. -/

namespace Sys2Proof.Config

/-- Entries of a core's first-level TLB (R427). -/
def coreTlb : Nat := 64
/-- Entries of a die's last-level TLB (R27). -/
def dieTlb : Nat := 32768
/-- Cores per compute die (R14). -/
def coresPerDie : Nat := 240
/-- Group slots of a core (R18). -/
def groupSlots : Nat := 32
/-- Resident teams of a core (R18). -/
def teamSlots : Nat := 4
/-- Pool granules of a core (R18). -/
def granules : Nat := 16
/-- Team-scope pegs of a core (R163). -/
def teamPegs : Nat := 64
/-- Cluster-scope pegs of a logical cluster (R163). -/
def clusterPegs : Nat := 32
/-- Entries of a core's operand log (R232). -/
def logEntries : Nat := 32
/-- Entries of a core's hamper (R233). -/
def hamperEntries : Nat := 64
/-- Copies in flight of a core's streamer (R274). -/
def copySlots : Nat := 32
/-- Entries of a core's matrix queue (R309). -/
def matrixQueue : Nat := 16
/-- Gate words outstanding of a group (R410). -/
def gateWords : Nat := 16
/-- Sealed incomplete batches of a class (R171). -/
def maxBatches : Nat := 64
/-- Records of a partition's device queue (R368). -/
def deviceQueue : Nat := 64
/-- Open drains of a partition (R431). -/
def maxDrains : Nat := 16

/-- Beat units of a link lane's receiver for one class (R446): fixed; no rule gives the number. (DESIGN CHOICE, log 17) -/
opaque beatUnits : Nat

/-- A byte that lies outside the package (an external page, R426) when the device reads it: free, one value a draw. (DESIGN CHOICE, log 6) -/
opaque externalByte : Nat → BitVec 8

/-- A byte that a group's write to a place its own copy in flight reads or writes has left undefined (R34): free, one
value a draw. (DESIGN CHOICE, log 5) -/
opaque racedByte : Nat → BitVec 8

/-- Whether another package refuses or faults an access through a peer port (R455): free, by clock, draw and 64 KiB page. (DESIGN CHOICE, log 6) -/
opaque peerRefuses : Nat → Nat → Nat → Bool

/-- Units that credit fields have returned to a lane's sender since the audit before, and units it still has (R446: they depend on the
beats on their way): free, one a draw. (DESIGN CHOICE, log 30) -/
opaque creditsReturned : Nat → Nat
opaque unitsLeft : Nat → Nat

/-- The state word of a core in a readout (R461: no rule gives its codes), by whether the core is frozen and whether it is out of service:
free. (DESIGN CHOICE, log 55) -/
opaque coreStateWord : Bool → Bool → BitVec 64

/-- A byte of a save image whose layout the spec does not state (R413): free, one value a draw. (DESIGN CHOICE, log 10) -/
opaque imageByte : Nat → BitVec 8

/-- A byte of a signature of the secure-element die (R458), whose salt is random and whose key nothing reads: free, one
value a draw. (DESIGN CHOICE, log 17) -/
opaque secureByte : Nat → BitVec 8

/-- Which of the values that a racing read may take it takes, by number (R212): free, one a draw. (DESIGN CHOICE, log 16) -/
opaque raceChoice : Nat → Nat

/-- Whether a copy reads a byte of its source that it has overwritten as it was (R291), and whether a `tld` reads a word of its image
after a racing write (R298): free, one a draw. (DESIGN CHOICE, log 16) -/
opaque raceBit : Nat → Bool

/-- The word that a lane-crossing read takes of a lane whose value another fragment's access has yet to bring (R212): free, one a
draw. (DESIGN CHOICE, log 16) -/
opaque racedWord : Nat → BitVec 32

/-- The team that holds the pool granule of an error, among the granules of a core that teams hold (R20, R418: no rule says
which granules a team is given): free, one a draw. (DESIGN CHOICE, log 17) -/
opaque heldGranule : Nat → Nat

/-- A byte of a record, a black-box entry or a register that the spec names and gives no value: free, one a draw. (DESIGN CHOICE, log 17) -/
opaque unstatedByte : Nat → BitVec 8

/-- Whether a partition's traffic needs the ports of a router in column 0 or 7 of a die (R25, R448: no rule says which router
carries which port): free, by die, router and partition. (DESIGN CHOICE, log 31) -/
opaque needsPorts : Nat → Nat → Nat → Bool

/-- Tier-2 blocks of 512 MiB attached to the package (R23, R436, R454): fixed by what is plugged in. (DESIGN CHOICE, log 17) -/
opaque tier2Blocks : Nat

/-- SHA-512 of an image in package flash, by byte (R458): free, since the image's bytes are not part of the model. (DESIGN CHOICE, log 12) -/
opaque imageDigest : FlashImage → Nat → BitVec 8

/-- SHA-512 of the device's identity public key, by byte (R458): free. (DESIGN CHOICE, log 17) -/
opaque identityDigest : Nat → BitVec 8

/-- The length of the certificate chain of the device identity key (R457). (DESIGN CHOICE, log 17) -/
opaque certLength : Nat

/-- The certificate chain, by byte (R457): free. (DESIGN CHOICE, log 17) -/
opaque certByte : Nat → BitVec 8

/-- Which end of its enclosing interval would stand for a special function's exact value if bounds with 2^64 bits still did not agree (R189):
free, by function number and operand. (DEDUCED, log 7) -/
opaque undecidedRounding : Nat → BitVec 32 → Bool

end Sys2Proof.Config
end

