-- ==== Sys2Proof/Machine/State.lean ====
section
/-! DEFINITION. Machine/State.lean: the whole package as plain data (INVENTORY.md, "## State"). -/

namespace Sys2Proof.Machine

/-- Why a step stops without a next state. -/
inductive Fault where
  /-- An instruction was asked of a state in which no live fragment is selected to issue. `step` never raises it,
  since it selects the fragment first; the meanings raise it. Safe: the machine stops. -/
  | noIssuer
  deriving DecidableEq, Repr

/-- Why an instruction has no meaning here. -/
inductive Refusal where
  /-- No meaning has been written for this instruction yet. Raised by `exec` only. Safe. -/
  | notModelled (mnemonic : String)
  deriving DecidableEq, Repr

/-- The parts of the family (R1). -/
inductive Variant where
  | kn960 | kn960l | kn480
  deriving DecidableEq, Repr

/-- STATE of the capability block (R456). -/
inductive DevState where
  | booting | recovery | ready | frozen
  deriving DecidableEq, Repr

/-- The trap causes (R397). -/
inductive Cause where
  | illegal | absent | priv | understall | joinovf | vreg | addr | align | tag | bounds | scratch | peergone
  | xn | ro | page | accbusy | layout | streamrights | cpymask | gateTaint | gateAbort | gateSession | mxreset
  | scrub | budgetHard | swtrap | debug | pte | migrate
  deriving DecidableEq, Repr

/-- STATE of a split-table entry (R80). -/
inductive FState where
  | free | ready | atJoin | inWany | inPegwait | held | inWaitb
  deriving DecidableEq, Repr

/-- The classes of asynchronous work (R33): streamer, matrix engine, gate. -/
inductive BatchClass where
  | c | m | g
  deriving DecidableEq, Repr

/-- A register of one of the files of R74. -/
inductive Reg where
  | s (n : BitVec 6)
  | v (n : BitVec 6)
  | k (n : BitVec 4)
  | t (n : BitVec 3)
  | acc (n : BitVec 3)
  | b (n : BitVec 4)
  deriving DecidableEq, Repr

/-- A write in flight of a word that has issued (R52): a fixed-latency one with what the register held before it (R53), or a
class-X one of the core (R54, R472), a vector's with what it held (R212); and the cycle it is ready. -/
inductive Pend where
  | s (n : BitVec 6) (old : Word) (readyAt : Nat)
  | v (n : BitVec 6) (old : Lanes) (lanes : Mask) (readyAt : Nat)
  | k (n : BitVec 4) (old lanes : Mask) (readyAt : Nat)
  | x (r : Reg) (readyAt : Nat)
  | xv (n : BitVec 6) (old : Lanes) (lanes : Mask) (readyAt : Nat)
  deriving DecidableEq, Repr

/-- What a parked fragment waits for (R170, R174), and the unit after the waiting one. -/
inductive Wait where
  | none
  | peg (handle : Word) (phase : BitVec 16) (next : Word)
  | batch (cls : BatchClass) (n : Nat) (next : Word)
  deriving DecidableEq, Repr

/-- One entry of the split table (R80) with the state its fragment owns (R74). `hints` are the hint words of the
current unit that have issued (R46); `pend`, `nextIssue` and `lastIssue` serve R51, R53 and R82 (`lastIssue` is one
more than the cycle, 0 before the first issue); `parkedAt` serves R159; `fetchRec` names the PAGE record a held fetch waits for (R397). `heldTrap` numbers the outermost in-group trap
that holds the fragment, counted on the join stack from 1, and `heldLand` says that a landing holds it (R87, R135). `paid` is what
a word that waits as a release has paid, units and sectors, and the block it has read (R368, R370, R373). -/
structure Frag where
  mask      : Mask
  pc        : Word
  state     : FState
  seam      : Option Nat
  s         : Vector Word 64
  hints     : List Instr
  pend      : List Pend
  nextIssue : Nat
  lastIssue : Nat
  parkedAt  : Nat
  wait      : Wait
  fetchRec  : Option Nat
  heldTrap  : Option Nat
  heldLand  : Bool
  paid      : Option (Nat × Nat × List Byte)
  deriving DecidableEq, Repr

/-- A join-stack entry (R85): a seam, or an in-group trap; `gone` says that a seam's primary has exited (R83). -/
structure StackEntry where
  isTrap : Bool
  frag   : Nat
  id     : BitVec 8
  addr   : Word
  mask   : Mask
  gone   : Bool
  deriving DecidableEq, Repr

/-- A bound event slot (R150). A TIMER slot expires at `timerAt` and merges `expiries` since the last delivery. -/
structure Binding where
  desc     : Word
  handler  : Word
  pers     : Bool
  pend     : Bool
  timerAt  : Nat
  expiries : Nat
  deriving DecidableEq, Repr

/-- A sealed incomplete batch (R171 to R173); `order` puts the batches of a group in the order of their seals (R382). -/
structure Sealed where
  num     : BitVec 32
  peg     : Option Word
  word    : Option (Nat × BitVec 32)
  payload : Nat
  short   : Bool
  round   : Nat
  order   : Nat
  deriving DecidableEq, Repr

/-- The batch state of one class (R171): counter, latest completed number, sealed incomplete batches (oldest first),
and the payload and short-delivery mark of the open batch. -/
structure Batches where
  counter   : BitVec 32
  latest    : BitVec 32
  seals     : List Sealed
  payload   : Nat
  short     : Bool
  deriving DecidableEq, Repr

/-- Where one lane of a request stands. -/
inductive LaneSt where
  | waiting
  | draining
  | performed
  | faulted
  | failed (cause : Cause)
  deriving DecidableEq, Repr

/-- One lane of a memory request: effective address, the physical address of each byte, the bytes on pages with T = 1
(R222), whether a page of it is external, data to store, the second operand of cas (the failing address of a lane whose tag differs at
the slice), the value read, and whether it has waited in the operand log or the hamper. -/
structure LaneAcc where
  lane : Nat
  ea   : Word
  pas  : List Nat
  tpas : List Nat
  ext  : Bool
  data : Word
  new  : Word
  res  : Word
  st   : LaneSt
  logged : Bool
  deriving DecidableEq, Repr

/-- The operation of a memory request; `piece` is the store of a piece of a copy (R290). -/
inductive ReqKind where
  | load | window | store | piece | atomic (op : Nat) | red (op : Nat) | tagld | tagst | peerLoad (pos : Nat) | peerStore (pos : Nat) | gsess
  deriving DecidableEq, Repr

/-- A memory request of a group, from issue until its result is written or it is acknowledged. Its faulted lanes make
it operand-log or hamper entry `entry` of its core (R232, R233); `ticket` names the PAGE record it waits for; `key` is the
core and the slot of its source key (R231). -/
structure Request where
  id      : Nat
  kind    : ReqKind
  size    : Nat
  scalar  : Bool
  dst     : Nat
  lanes   : List LaneAcc
  acquire : Bool
  frag    : Nat
  fmask   : Mask
  pc      : Word
  ticket  : Option Nat
  entry   : Nat
  key     : Nat × Nat
  deriving DecidableEq, Repr

/-- A place of a copy (R275, R276). -/
inductive Place where
  | global (ptr : Word)
  | window (pos : Option Nat) (offset : Nat)
  deriving DecidableEq, Repr

/-- The box of a cpyt or cpyk copy (R279 to R283). -/
structure Box where
  sbase : Nat
  rb : Nat
  pitch : Nat
  span : Nat
  dim : Nat × Nat × Nat
  org : Int × Int × Int
  box : Nat × Nat × Nat
  stride1 : Nat
  stride2 : Nat
  esize : Nat
  fill : Word
  base : Word
  table : Bool
  toWindow : Bool
  deriving DecidableEq, Repr

/-- What a copy moves. -/
inductive CopyOp where
  | linear (dst src : Place) (length : Nat)
  | multicast (offset : Nat) (src : Word) (length mask : Nat)
  | tensor (x : Box)
  deriving DecidableEq, Repr

/-- Whether a copy runs, waits for a PAGE record, or has stopped the group (R287). -/
inductive CopySt where
  | running
  | paged (rec : Nat)
  | stopped
  deriving DecidableEq, Repr

/-- A copy in flight (R274, R286): `pos` is the byte its restart point names, counted over the length or over the box's
rows; `raced` lists the bytes of its sequence whose result a write of the group has left undefined (R34), each with the
number of the destination; `origs` what the copy has overwritten of its own source (R291); `out` the store of a piece that is on
its way to its slice (R290). -/
structure Copy where
  id      : Nat
  op      : CopyOp
  pos     : Nat
  entry   : Option (Nat × Word)
  batch   : BitVec 32
  pc      : Word
  payload : Nat
  short   : Bool
  st      : CopySt
  raced   : List (Nat × Nat)
  origs   : List (Nat × Byte)
  out     : Option Nat
  deriving DecidableEq, Repr

/-- A gate mark (R331). -/
inductive Mark where
  | none | fresh (q : Word) | slot (q : Word) | posted (q : Word) | opened (q : Word)
  deriving DecidableEq, Repr

/-- The gate words that draw, post or await (R330, R332). -/
inductive GateOp where
  | gtrip (t : Nat) | gmask (t : Nat) | gopen (t : Nat) | gtript | gmaskt | gopent | gmsb | gb2a | greveal
  deriving DecidableEq, Repr

/-- An outstanding gate word (R337, R410): whether its record is drawn, the crossings it has still to post, how many its
own gate has accepted and the peer's gate has not, how many it awaits, what it has received, its working values, its
record's PAGE record and the operand-log entry it waits in (R330), the place and size of the record it has drawn. -/
structure GateWord where
  id       : Nat
  op       : GateOp
  d        : Nat
  q        : Word
  drawn    : Bool
  post     : List (Nat × Lanes)
  flying   : Nat
  await    : Nat
  got      : List Lanes
  round    : Nat
  x        : Lanes
  g        : Lanes
  p        : Lanes
  record   : List Lanes
  joins    : Bool
  batch    : BitVec 32
  pc       : Word
  ticket   : Option Nat
  frag     : Nat
  entry    : Option Nat
  span     : Word × Nat
  deriving DecidableEq, Repr

/-- A deferred trap that is pending (R403): no lanes of its own for a scalar or control cause (R398). -/
structure Deferred where
  cause : Cause
  addr  : Word
  lanes : Option Mask
  pc    : Word
  copy  : Bool
  deriving DecidableEq, Repr

/-- A cutting (R369): entry, SOLO, grant halves, payload words. -/
structure Cutting where
  ent     : Nat
  solo    : Bool
  igrant  : Nat
  mgrant  : Nat
  payload : List (BitVec 32)
  deriving DecidableEq, Repr

/-- A launch record (R355). -/
structure LaunchRec where
  lid     : BitVec 32
  entry   : Word
  args    : Word
  land    : Word
  save    : Word
  gx      : Nat
  gy      : Nat
  gz      : Nat
  groups  : Nat
  shape   : Nat
  vregs   : Nat
  pool    : BitVec 32
  accs    : Nat
  tiles   : Nat
  prod    : Nat
  prio    : Nat
  idem    : Bool
  det     : Bool
  cores   : Bool
  sess    : Bool
  inj     : Bool
  qlog    : Nat
  sid     : Nat
  waits   : List (Word × Word)
  signal  : Option (Word × Word)
  scratch : Nat
  ibud    : Nat
  mbud    : Nat
  ires    : Nat
  mres    : Nat
  topr    : Bool
  ipool   : Nat
  mpool   : Nat
  roles   : BitVec 128
  etab    : List (BitVec 32)
  deriving DecidableEq, Repr

/-- A piece of a copy as it is staged (R292): address, bytes, data, and the tag they must have. -/
structure StagedPiece where
  ea   : Word
  pas  : List Nat
  data : List Byte
  tag  : Option (BitVec 4)
  deriving DecidableEq, Repr

/-- A staged effect of a group of a deterministic launch (R380), in issue order. A copy takes its place when it issues, with the
lines it will write, and its pieces join it as they move (R292). -/
inductive Staged where
  | write (req : Request)
  | peer (pos : Nat) (req : Request)
  | copy (id : Nat) (lines : List Nat) (pieces : List StagedPiece) (pc : Word)
  | arrive (handle : Word) (k : Nat)
  | cutting (c : Cutting) (spawned : Bool)
  | yielded (c : Cutting)
  | record (r : LaunchRec) (cls : Nat)
  deriving DecidableEq, Repr

/-- The commit-point word that ended a quantum (R379). -/
inductive CommitWord where
  | access (req : Request)
  | post (target : Word) (token : BitVec 32) (dst : BitVec 6) (frag : Nat)
  | pegget (cfg : Word) (dst : BitVec 6) (frag : Nat)
  deriving DecidableEq, Repr

/-- The shape a tile control register gives (R95). -/
structure TileShape where
  rows : Nat
  ew   : BitVec 2
  cols : Nat
  deriving DecidableEq, Repr

/-- The key of a team: its launch, its linear index or serial number, and ORIGIN (R192). -/
structure TeamKey where
  uid    : Nat
  index  : Nat
  origin : Bool
  deriving DecidableEq, Repr

/-- The landing registers (R127 to R129). -/
structure Landing where
  land   : Word
  lret   : Word
  clampp : Bool
  inres  : Bool
  frag   : BitVec 2
  cause  : BitVec 2
  topr   : Bool
  mres   : Nat
  ires   : Nat
  deriving DecidableEq, Repr

/-- The trap registers (R399). -/
structure TrapRegs where
  tvec     : Word
  tdeliver : BitVec 32
  frag     : BitVec 2
  replay   : Bool
  defer    : Bool
  cause    : BitVec 8
  taddr    : Word
  tmask    : Mask
  deriving DecidableEq, Repr

/-- A read of a tile image that has issued and is not ready (R298): the tile, its shape, the image's window offset and layout word, and
the cycle at which the tile is ready; the requests numbered below `req` are older. -/
structure TileRead where
  tile   : Nat
  shape  : TileShape
  base   : Nat
  layout : Nat
  ready  : Nat
  req    : Nat
  deriving DecidableEq, Repr

/-- The skip that an abort asks of a stream (R344 step 4): the number it must reach, the PAGE record it waits for, and the stops that follow
it, each the address and the PC of its GATE_ABORT (step 6). -/
structure Skip where
  target : Word
  ticket : Option Nat
  stops  : List (Word × Word)
  deriving DecidableEq, Repr

/-- What a `ctxsv` in progress has asked for (R411): its fragment, unit, handle and base, the team it saves, and the cause that
save met. -/
structure SaveReq where
  frag   : Nat
  unit   : Word
  handle : Word
  base   : Word
  key    : TeamKey
  bad    : Option (Cause × Word)
  deriving DecidableEq, Repr

/-- A resident group (R69, R74): registers of the group, its fragments, and its work in flight. `lastIssue` is one
more than the cycle of its last issue, 0 before the first, and `lastCls` that word's slot class (R19, R366);
`drain` is the descriptor, destination and fragment of a `tlbconf` in progress (R432), `atRound` the wanted slots as the commit of a deterministic launch left them (R379), `saves` what its `ctxsv` in
progress have asked for (R411); `parkCut` is the cutting of a `yield` that waits for room, with its fragment and its sectors (R142); `stopAt` and `haltAt` are the cycles its slice timer and its deadline froze (R402, R408); `cursor` is its triple stream
(R328: base, length, next number and offset), `drawn` the records drawn with the words that drew them (R345), `skip` the
move of its stream that an abort asks for (R344), `lost` the batches of its gate words that a fault has ended, until that fault is handled (R173, R337), `gateSeq` the triple its latest arrived `gopen` opens (R155); `flagsAt` is the cycle at which the last of its words that
raise flags has written them (R122); `tlds` are its reads of tile images under way (R298), `orphans` the writes in flight of its fragments
that have ended (R84, R122, R123, R212); `deferHeld` says that a deferred trap has been delivered and no word has issued since (R403);
`groupHeld` names the fragment whose word holds the whole group (R232, R233); `aside` holds what a clamp landing of a deterministic launch keeps: the budgets, the landing registers, and the rotation of the
fragments (R389, R390). -/
structure Group where
  part      : Nat
  team      : TeamKey
  gidx      : Nat
  core      : Nat
  slot      : Nat
  seq       : BitVec 16
  cuttings  : Nat
  frags     : Vector Frag 4
  stack     : List StackEntry
  seamCount : BitVec 8
  k         : Vector Mask 16
  v         : Vector Lanes 64
  valloc    : Nat
  tiles     : Vector (SMap 8) 8
  tc        : Vector TileShape 8
  accs      : Vector (SMap 32) 8
  binds     : Vector (List (BitVec 32)) 8
  b         : Vector (BitVec 128) 16
  slots     : Vector (Option Binding) 8
  evm       : BitVec 8
  evinfo    : Word
  mailbox   : List (BitVec 32)
  ibud      : Nat
  mbud      : Nat
  landing   : Landing
  trap      : TrapRegs
  fflags    : BitVec 6
  flagsAt   : Nat
  rm        : BitVec 3
  ftz       : Bool
  privl     : Bool
  lchk      : Bool
  uchk      : Bool
  icnt      : Nat
  retired   : Nat
  draws     : Vector (BitVec 32) 64
  sessValid : Bool
  injArm    : Bool
  injKind   : BitVec 2
  injAfter  : BitVec 16
  injCount  : Nat
  qround    : BitVec 32
  qcnt      : Nat
  atRound   : BitVec 8
  vmarks    : Vector Mark 64
  tmarks    : Vector Mark 8
  cursor    : Option (Word × Word × Word × Word)
  drawn     : List (Word × Word)
  gateSeq   : Word
  skip      : Option Skip
  lost      : List (BitVec 32)
  bc        : Batches
  bm        : Batches
  bg        : Batches
  reqs      : List Request
  copies    : List Copy
  gates     : List GateWord
  tlds      : List TileRead
  orphans   : List Pend
  lastMma   : Word
  deferred  : List Deferred
  deferHeld : Bool
  groupHeld : Option Nat
  stopped   : Option Nat
  halted    : Bool
  ending    : Bool
  clampPend : Bool
  clampAt   : Option Nat
  sliceAt   : Nat
  boost     : Nat
  readyAt   : Nat
  lastIssue : Nat
  lastCls   : Nat
  yielded   : Bool
  stopAt    : Nat
  haltAt    : Nat
  saving    : Bool
  drain     : Option (Word × BitVec 6 × Nat)
  saves     : List SaveReq
  parkCut   : Option (Nat × Cutting × Nat)
  staged    : List Staged
  commit    : Option CommitWord
  qdone     : Bool
  aside     : Option (Nat × Nat × Landing × List Nat)
  deriving DecidableEq, Repr

/-- A resident team (R98): its window (R79), layout tags (R284), shared pools (R77, R130). `saving` is where a save it
waits for goes, `saveRec` the PAGE record that save waits for, `saveBad` says that another fault has stopped it (R411). -/
structure Team where
  key       : TeamKey
  part      : Nat
  core      : Nat
  pos       : Nat
  shape     : Nat
  groups    : Nat
  ended     : Nat
  scratch   : Nat
  window    : SMap 8
  ltags     : SMap 3
  ipool     : Nat
  mpool     : Nat
  vfree     : Nat
  granules  : Nat
  relaunched : Bool
  migrating : Bool
  saving    : Option Word
  saveRec   : Option Nat
  saveBad   : Bool
  deriving DecidableEq, Repr

/-- A peg (R163 to R165). A pool is a core (team scope) or a logical cluster (cluster scope). -/
structure Peg where
  cluster  : Bool
  pool     : Nat
  index    : Nat
  gen      : BitVec 8
  live     : Bool
  owner    : TeamKey
  arrivals : Nat
  bytes    : Nat
  phase    : BitVec 16
  a        : Int
  b        : Nat
  explicit : Nat
  implicit : Nat
  deriving DecidableEq, Repr

/-- A team waiting for room (R363), fresh, gathered from cuttings on `die`, or saved, to be restored on `core` when it is
named (R411). -/
structure Waiting where
  key      : TeamKey
  lanes    : List Cutting
  since    : Nat
  blocking : Bool
  head     : Bool
  die      : Option Nat
  core     : Option Nat
  image    : Option Word
  relaunch : Bool
  deriving DecidableEq, Repr

/-- A launch (R352 to R376); `queue` is the host queue it came from, none for a device or a supervisor launch; `look` says that
its wait tokens are to be read (R358), `commits` that the commit phase of its round is under way (R377). -/
structure Launch where
  uid      : Nat
  part     : Nat
  record   : LaunchRec
  seed     : Word
  super    : Bool
  cls      : Nat
  home     : Nat
  queue    : Option Nat
  started  : Bool
  jobs     : Nat
  sent     : Nat
  received : Nat
  sample   : Option (Nat × Nat × Nat)
  serial   : Nat
  round    : Nat
  tokenRec : Option Nat
  look     : Bool
  clampAll : Bool
  commits  : Bool
  waiting  : List Waiting
  done     : Bool
  deriving DecidableEq, Repr

/-- A team saved under R410: the save slot, the objects whose image bytes have no stated layout (R413), and the header of each
group image as it was written, by group index (R414). -/
structure Saved where
  addr   : Word
  part   : Nat
  team   : Team
  groups : List Group
  pegs   : List Peg
  heads  : List (Nat × List Byte)
  deriving DecidableEq, Repr

/-- A host command queue (R352). -/
structure Queue where
  qbase : Word
  en    : Bool
  err   : Bool
  ecode : BitVec 8
  log2n : Nat
  head  : BitVec 32
  tail  : BitVec 32
  deriving DecidableEq, Repr

/-- A trap record (R398). -/
structure TrapRec where
  pc     : Word
  addr   : Word
  fmask  : Mask
  lmask  : Mask
  lid    : BitVec 32
  tidx   : BitVec 32
  cause  : Cause
  replay : Bool
  defer  : Bool
  origin : Bool
  saved  : Bool
  relaunch : Bool
  part   : Nat
  gidx   : Nat
  frag   : Nat
  handle : Word
  info   : Word
  /-- the record number a waiting fault holds until the ring admits it (R406) -/
  ticket : Nat
  deriving DecidableEq, Repr

/-- An unresolved replayable record that is in the ring or waits to enter it (R406, R407). -/
structure RecRef where
  ticket   : Nat
  admitted : Option (BitVec 32)
  body     : TrapRec
  deriving DecidableEq, Repr

/-- A partition (R37, R435): its descriptor, VF registers (R451), queues, trap queue (R404) and VF mailbox (R456). -/
structure Partition where
  num      : Nat
  desc     : List Byte
  ptroot   : Nat
  tqcb     : Word
  suprec   : Word
  tdef     : BitVec 32
  slice    : Nat
  clusters : List Nat
  q1       : List Nat
  q2       : List Nat
  key      : Nat
  prep     : Bool
  halted   : Bool
  haltcode : BitVec 8
  herr     : Bool
  seed     : Word
  w2base   : BitVec 19
  queues   : List (Nat × Queue)
  devQ     : List (LaunchRec × Nat)
  tqBase   : Word
  tqLog    : Nat
  tqTail   : BitVec 32
  tqHead   : BitVec 32
  held     : List (Nat × TrapRec)
  nextTick : Nat
  recs     : List RecRef
  drains   : List Word
  command  : Word
  status   : BitVec 64
  buffer   : SMap 8
  deriving DecidableEq, Repr

/-- What a cached entry of a walk is (R427): the leaf of a 64 KiB page or of a 512 MiB block, a level-2 or a level-1 pointer. -/
inductive TlbKind where
  | page | block | ptr2 | ptr1
  deriving DecidableEq, Repr

/-- A cached entry (R427, R431): in the first-level TLB of a core, or in the last-level TLB or the pointer cache of a die; its
partition, an address it covers, the table entry it holds, whether it drains. -/
structure TlbEntry where
  part     : Nat
  die      : Nat
  core     : Option Nat
  kind     : TlbKind
  base     : Nat
  pte      : Word
  draining : Bool
  deriving DecidableEq, Repr

/-- A gate session (R321, R322); one that is not open is the waiting request of the partition of one role, which names
`peer`. -/
structure Session where
  peer    : Nat
  sid     : Nat
  part0   : Option Nat
  part1   : Option Nat
  nonce   : Word
  frac    : Nat
  reveal  : Nat
  opened  : Bool
  revoked : Bool
  streams0 : Word × Nat
  streams1 : Word × Nat
  deriving DecidableEq, Repr

/-- A crossing (R332): sequence number, index in its word, the pair's abort count, 64 lanes; `wid` numbers the word that
posted it. -/
structure Crossing where
  wid    : Nat
  q      : Word
  index  : Nat
  aborts : Nat
  data   : Lanes
  deriving DecidableEq, Repr

/-- A gate pair (R327, R332, R350): per role the crossings it has sent that are on their way and those in its receive
buffer, the aborts its gate has performed, the notices on their way to it, each with the sequence number the streams move to, oldest first (R344), the number that its stream still has
to move to when no group of its side stands (R344 step 4), a stream entry that cannot be written (R328), and whether its group has ended. -/
structure Pair where
  sid     : Nat
  team    : Nat
  gidx    : Nat
  sent0   : List Crossing
  sent1   : List Crossing
  buf0    : List Crossing
  buf1    : List Crossing
  aborts0 : Nat
  aborts1 : Nat
  notice0 : List Word
  notice1 : List Word
  late0   : Option Word
  late1   : Option Word
  bad0    : Bool
  bad1    : Bool
  ended0  : Bool
  ended1  : Bool
  deriving DecidableEq, Repr

/-- A matrix operation (R301, R305, R309): owner, type code, accumulator, active rows, shapes, operands once
consumed, group size and scales for mmaq. -/
structure MatOp where
  core     : Nat
  slot     : Nat
  ty       : Nat
  quant    : Option Nat
  acc      : Nat
  rows     : Mask
  ta       : Nat
  tb       : Nat
  shapeA   : TileShape
  shapeB   : TileShape
  dataA    : SMap 8
  dataB    : SMap 8
  consumed : Bool
  started  : Option Nat
  sa       : List (BitVec 16)
  za       : List Int
  sb       : List (BitVec 16)
  zb       : List Int
  batch    : BitVec 32
  pc       : Word
  deriving DecidableEq, Repr

/-- The matrix engine of a core (R309, R315). -/
structure Engine where
  core      : Nat
  queue     : List MatOp
  resetting : Bool
  deriving DecidableEq, Repr

/-- A bin of a die's nursery (R371). `lastAt` is the cycle in which it last received a cutting, in a deterministic launch the
round (R385). -/
structure Bin where
  die    : Nat
  uid    : Nat
  entry  : Nat
  cuts   : List Cutting
  lastAt : Nat
  deriving DecidableEq, Repr

/-- The send window of one class of a lane (R446): FREE and RET. -/
structure LinkWin where
  free : Nat
  ret  : BitVec 32
  deriving DecidableEq, Repr

/-- One lane of a link (R445 to R447): the units of its receiver, the windows of its classes, its mismatches and its repair. -/
structure LinkState where
  link       : Nat
  lane       : Nat
  units      : Nat
  wins       : Vector LinkWin 4
  mismatches : List Nat
  resend     : Nat
  retraining : Bool
  failures   : Nat
  down       : Bool
  deriving DecidableEq, Repr

/-- A black-box entry (R462). -/
structure BoxEntry where
  die     : Nat
  fcycle  : Nat
  ty      : BitVec 8
  part    : Nat
  seq     : BitVec 32
  payload : List Nat
  deriving DecidableEq, Repr

/-- The write-back of a stream entry that waits when its group is gone (R328): the group as it ended, its session, the request. -/
structure Back where
  g   : Group
  sid : Option Nat
  req : Request
  deriving DecidableEq, Repr

/-- A peer window entry (R455). -/
structure PeerWin where
  port  : Nat
  index : Nat
  value : Word
  deriving DecidableEq, Repr

/-- What leaves the device on a host or peer access (R452, R455 to R461). (DESIGN CHOICE, log 13) -/
inductive HostOut where
  | data (fn : Option Nat) (bytes : List Byte)
  | unsupported (fn : Option Nat)
  | irq (fn : Option Nat) (vector : Nat)
  deriving DecidableEq, Repr

/-- An access of the host through a virtual function, or of a remote package through a peer port (R450 to R452, R455): a write carries its
bytes or its value. -/
inductive HostOp where
  | bar2 (offset n : Nat) (write : Option (List Byte))
  | reg (offset : Nat) (write : Option Word)
  | errClear (queue : Nat)
  | peer (va : Word) (n : Nat) (write : Option (List Byte))
  deriving DecidableEq, Repr

/-- An access that has arrived through one of the two host links and is not performed (R450, R452, R453), and the function it is of; a peer access
comes through no host link, and its link is 0. -/
structure HostReq where
  fn : HostPort
  op : HostOp
  deriving DecidableEq, Repr

/-- What an agent does next; the order is data (DESIGN CHOICE, log 1). `read` is the host's read of a register of BAR0 (R450). -/
inductive Agent where
  | event (i : Instr)
  | read (fn : Option HostPort) (offset : Nat)
  | issue (core slot : Nat)
  | idle (cycles : Nat)
  deriving DecidableEq, Repr

/-- The management function's registers and what bring-up and service keep (R456, R459, R463). -/
structure Mgmt where
  devState : DevState
  fw       : FlashImage
  cfg      : FlashImage
  fwver    : Nat
  cfgver   : Nat
  rollfw   : Nat
  rollcfg  : Nat
  pkgid    : BitVec 8
  debug    : Bool
  cecnt    : Word
  power    : Nat
  pcap     : Nat
  tmax     : Nat
  withheld : Bool
  command  : Word
  status   : BitVec 64
  buffer   : SMap 8
  deriving DecidableEq, Repr

/-- The package (INVENTORY.md); `dead` lists the frozen cores that no standby core could take over (R421), `left` the core, the slot class
and the cycle of the last words of groups that have left their slots since (R19), `hostQ` the host's accesses that wait, in order of
arrival (R453), `lastTrap` the code of each core's last trap (R461). -/
structure State where
  variant   : Variant
  clock     : Nat
  fclock    : Nat
  agenda    : List Agent
  cur       : Option (Nat × Nat × Nat)
  draws     : Nat
  mem       : List Host.Cell
  tags      : SMap 4
  poison    : List Nat
  deadPorts : List Nat
  parts     : List Partition
  launches  : List Launch
  teams     : List Team
  groups    : List Group
  left      : List (Nat × Nat × Nat)
  saved     : List Saved
  backs     : List Back
  pegs      : List Peg
  engines   : List Engine
  bins      : List Bin
  sessions  : List Session
  pairs     : List Pair
  tlb       : List TlbEntry
  nextUid   : Nat
  nextReq   : Nat
  nextSeq   : BitVec 16
  keys      : Nat
  mgmt      : Mgmt
  standby   : List (Nat × Nat)
  phys      : List (Nat × Nat)
  frozen    : List Nat
  dead      : List Nat
  links     : List LinkState
  fenced    : List (Nat × Nat × Nat)
  failed    : List (Nat × Nat)
  bbox      : List BoxEntry
  bboxSeq   : SMap 32
  peerWins  : List PeerWin
  hostQ     : List HostReq
  hostOut   : List HostOut
  lastTrap  : SMap 8
  deriving DecidableEq, Repr

/-- The image in flash that no rule describes: signed, version 0, no defect, no fenced channel (DESIGN CHOICE, log 12). -/
def blankImage (firmware : Bool) : FlashImage :=
  ⟨firmware, true, 0, 0, [], [], 0#8, 2400, false⟩

/-- The package at reset release, before bring-up (R459): STATE 0, nothing placed. (DESIGN CHOICE, log 3) -/
def State.reset : State where
  variant := .kn960
  clock := 0
  fclock := 0
  agenda := []
  cur := none
  draws := 0
  mem := []
  tags := []
  poison := []
  deadPorts := []
  parts := []
  launches := []
  teams := []
  groups := []
  left := []
  saved := []
  backs := []
  pegs := []
  engines := []
  bins := []
  sessions := []
  pairs := []
  tlb := []
  nextUid := 0
  nextReq := 0
  nextSeq := 0#16
  keys := 0
  mgmt := ⟨.booting, blankImage true, blankImage false, 0, 0, 0, 0, 0#8, false, 0#64, 0, 2400, 0, false, 0#64, 0#64, []⟩
  standby := []
  phys := []
  frozen := []
  dead := []
  links := []
  fenced := []
  failed := []
  bbox := []
  bboxSeq := []
  peerWins := []
  hostQ := []
  hostOut := []
  lastTrap := []

end Sys2Proof.Machine
end

