-- ==== Sys2Proof/Machine/Mem.lean ====
section
/-! DEFINITION. Machine/Mem.lean: sparse maps and byte order. -/

namespace Sys2Proof.Machine

/-- The cell numbered `k`; an unlisted cell reads 0. (DESIGN CHOICE, log 4) -/
def sget {w : Nat} : SMap w → Nat → BitVec w
  | [], _ => 0#w
  | (a, v) :: r, k => if a = k then v else sget r k

/-- Write cell `k`, keeping keys rising and no zero cell listed. -/
def sset {w : Nat} : SMap w → Nat → BitVec w → SMap w
  | [], k, v => if v = 0#w then [] else [(k, v)]
  | (a, x) :: r, k, v =>
    if k < a then (if v = 0#w then (a, x) :: r else (k, v) :: (a, x) :: r)
    else if k = a then (if v = 0#w then r else (k, v) :: r)
    else (a, x) :: sset r k v

/-- The canonical form: keys strictly rising, no zero cell. -/
def swf {w : Nat} : SMap w → Bool
  | [] => true
  | [(_, v)] => v != 0#w
  | (a, v) :: (b, x) :: r => v != 0#w && decide (a < b) && swf ((b, x) :: r)

/-- Write several cells, in the order given. -/
def ssetAll {w : Nat} (m : SMap w) : List (Nat × BitVec w) → SMap w
  | [] => m
  | (k, v) :: r => ssetAll (sset m k v) r

/-- The canonical form of a byte memory. -/
def Memory.wf (m : List Host.Cell) : Bool := swf m

/-- The value of bytes, the lowest address first (R180: little-endian). -/
def leValue : List Byte → Nat
  | [] => 0
  | b :: r => b.toNat + 256 * leValue r

/-- The `n` low bytes of a value, the lowest first (R180). -/
def leBytes (n : Nat) (x : Nat) : List Byte :=
  match n with
  | 0 => []
  | n + 1 => BitVec.ofNat 8 x :: leBytes n (x / 256)

/-- The bytes of `m` at the addresses given. -/
def readAt (m : SMap 8) (as : List Nat) : List Byte := as.map (sget m)

/-- `n` bytes from `a`. -/
def readBytes (m : SMap 8) (a n : Nat) : List Byte := readAt m ((List.range n).map (a + ·))

/-- `n` bytes from `a`, little-endian. -/
def readLE (m : SMap 8) (a n : Nat) : Nat := leValue (readBytes m a n)

/-- Write bytes at the addresses given, pairwise. -/
def writeAt (m : SMap 8) (as : List Nat) (bs : List Byte) : SMap 8 := ssetAll m (as.zip bs)

/-- Write bytes from `a`. -/
def writeBytes (m : SMap 8) (a : Nat) (bs : List Byte) : SMap 8 :=
  writeAt m ((List.range bs.length).map (a + ·)) bs

/-- Bit `i` of a natural number. -/
def natBit (x i : Nat) : Bool := x / 2 ^ i % 2 == 1

/-- Bits [hi:lo] of a word as a number. -/
def field (w : Word) (hi lo : Nat) : Nat := w.toNat / 2 ^ lo % 2 ^ (hi + 1 - lo)

/-- The lanes whose bit is set, in increasing order (R9). -/
def lanesOf (m : Mask) : List Nat := (List.range 64).filter fun l => m.getLsbD l

/-- The mask of the lanes listed. -/
def maskOf (ls : List Nat) : Mask := ls.foldl (fun m l => m ||| (1#64 <<< l)) 0#64

/-- The number of set bits. -/
def popCount {w : Nat} (x : BitVec w) : Nat := ((List.range w).filter fun i => x.getLsbD i).length

/-- Replace the elements that satisfy `p`. -/
def mapIf {α : Type} (p : α → Bool) (f : α → α) (l : List α) : List α := l.map fun x => if p x then f x else x

/-- Replace the element at an index. -/
def modifyAt {α : Type} (l : List α) (i : Nat) (f : α → α) : List α :=
  match l, i with
  | [], _ => []
  | x :: r, 0 => f x :: r
  | x :: r, i + 1 => x :: modifyAt r i f

/-- Put an element into a sorted list, after the elements not above it. -/
def insertBy {α : Type} (le : α → α → Bool) (x : α) : List α → List α
  | [] => [x]
  | y :: r => if le y x then y :: insertBy le x r else x :: y :: r

/-- Sort a list; equal elements keep their order. -/
def sortBy {α : Type} (le : α → α → Bool) (l : List α) : List α := l.foldl (fun r x => insertBy le x r) []

/-- Apply a function to every element of a vector. -/
def vmap {α β : Type} {n : Nat} (f : α → β) (v : Vector α n) : Vector β n := Vector.ofFn fun i => f v[i.val]

/-- Combine two vectors element by element. -/
def vzip {α β γ : Type} {n : Nat} (f : α → β → γ) (v : Vector α n) (w : Vector β n) : Vector γ n :=
  Vector.ofFn fun i => f v[i.val] w[i.val]

end Sys2Proof.Machine
end

