-- ==== Sys2Proof/Machine/Access.lean ====
section
/-! DEFINITION. Machine/Access.lean: finding and replacing the parts of the state, and reading and writing registers. -/

namespace Sys2Proof.Machine

/-- The group in a slot of a core. -/
def State.group? (s : State) (core slot : Nat) : Option Group :=
  s.groups.find? fun g => g.core == core && g.slot == slot

/-- Put back a group at its core and slot. -/
def State.setGroup (s : State) (g : Group) : State :=
  { s with groups := mapIf (fun h => h.core == g.core && h.slot == g.slot) (fun _ => g) s.groups }

/-- Change the group in a slot. -/
def State.modGroup (s : State) (core slot : Nat) (f : Group → Group) : State :=
  match s.group? core slot with
  | some g => s.setGroup (f g)
  | none => s

/-- The resident team with a key. -/
def State.team? (s : State) (k : TeamKey) : Option Team := s.teams.find? fun t => t.key == k

/-- Change the team with a key. -/
def State.modTeam (s : State) (k : TeamKey) (f : Team → Team) : State :=
  { s with teams := mapIf (fun t => t.key == k) f s.teams }

/-- The launch numbered `uid`. -/
def State.launch? (s : State) (uid : Nat) : Option Launch := s.launches.find? fun l => l.uid == uid

/-- Change a launch. -/
def State.modLaunch (s : State) (uid : Nat) (f : Launch → Launch) : State :=
  { s with launches := mapIf (fun l => l.uid == uid) f s.launches }

/-- The partition numbered `n`. -/
def State.part? (s : State) (n : Nat) : Option Partition := s.parts.find? fun p => p.num == n

/-- Change a partition. -/
def State.modPart (s : State) (n : Nat) (f : Partition → Partition) : State :=
  { s with parts := mapIf (fun p => p.num == n) f s.parts }

/-- A fragment of a group. -/
def Group.frag (g : Group) (i : Nat) : Frag := g.frags[i % 4]'(Nat.mod_lt _ (by decide))

/-- Put back a fragment. -/
def Group.setFrag (g : Group) (i : Nat) (f : Frag) : Group :=
  { g with frags := g.frags.set (i % 4) f (Nat.mod_lt _ (by decide)) }

/-- Change a fragment. -/
def Group.modFrag (g : Group) (i : Nat) (f : Frag → Frag) : Group := g.setFrag i (f (g.frag i))

/-- Change every fragment. -/
def Group.mapFrags (g : Group) (f : Nat → Frag → Frag) : Group :=
  { g with frags := Vector.ofFn fun i => f i.val (g.frags[i.val]) }

/-- A fragment id that lives (R81). -/
def Frag.live (f : Frag) : Bool := f.state != .free

/-- The ids of the live fragments. -/
def Group.liveFrags (g : Group) : List Nat := (List.range 4).filter fun i => (g.frag i).live

/-- A scalar register as a fragment reads it: s0 reads 0 (R74). -/
def Frag.rd (f : Frag) (n : BitVec 6) : Word := if n = 0#6 then 0#64 else f.s[n.toNat]'n.isLt

/-- Write a scalar register; a write to s0 is discarded (R42). -/
def Frag.wr (f : Frag) (n : BitVec 6) (x : Word) : Frag :=
  if n = 0#6 then f else { f with s := f.s.set n.toNat x n.isLt }

/-- A vector register's lanes. -/
def Group.rdV (g : Group) (n : BitVec 6) : Lanes := g.v[n.toNat]'n.isLt

/-- Write the lanes of a vector register that a mask names; the others keep their words (R194). -/
def Group.wrV (g : Group) (n : BitVec 6) (m : Mask) (x : Lanes) : Group :=
  let old := g.v[n.toNat]'n.isLt
  { g with v := g.v.set n.toNat (Vector.ofFn fun l => if m.getLsbD l.val then x[l.val] else old[l.val]) n.isLt }

/-- A mask register as a fragment reads it: k0 is the fragment's lane mask (R74). -/
def Group.rdK (g : Group) (f : Frag) (n : BitVec 4) : Mask := if n = 0#4 then f.mask else g.k[n.toNat]'n.isLt

/-- Write the bits of a mask register that `m` names (R75); k0 is read-only. -/
def Group.wrK (g : Group) (n : BitVec 4) (m x : Mask) : Group :=
  if n = 0#4 then g
  else { g with k := g.k.set n.toNat (((g.k[n.toNat]'n.isLt) &&& ~~~m) ||| (x &&& m)) n.isLt }

/-- A tile register's bytes. -/
def Group.tile (g : Group) (n : Nat) : SMap 8 := g.tiles[n % 8]'(Nat.mod_lt _ (by decide))

/-- Write a tile register. -/
def Group.setTile (g : Group) (n : Nat) (x : SMap 8) : Group :=
  { g with tiles := g.tiles.set (n % 8) x (Nat.mod_lt _ (by decide)) }

/-- A tile's shape (R95). -/
def Group.shape (g : Group) (n : Nat) : TileShape := g.tc[n % 8]'(Nat.mod_lt _ (by decide))

/-- Write a tile's shape. -/
def Group.setShape (g : Group) (n : Nat) (x : TileShape) : Group :=
  { g with tc := g.tc.set (n % 8) x (Nat.mod_lt _ (by decide)) }

/-- An accumulator: word n of row i is cell 64 i + n (R294). -/
def Group.acc (g : Group) (n : Nat) : SMap 32 := g.accs[n % 8]'(Nat.mod_lt _ (by decide))

/-- Write an accumulator. -/
def Group.setAcc (g : Group) (n : Nat) (x : SMap 32) : Group :=
  { g with accs := g.accs.set (n % 8) x (Nat.mod_lt _ (by decide)) }

/-- The bindings of an accumulator (R311). -/
def Group.bind (g : Group) (n : Nat) : List (BitVec 32) := g.binds[n % 8]'(Nat.mod_lt _ (by decide))

/-- Write the bindings of an accumulator. -/
def Group.setBind (g : Group) (n : Nat) (x : List (BitVec 32)) : Group :=
  { g with binds := g.binds.set (n % 8) x (Nat.mod_lt _ (by decide)) }

/-- An event slot (R150). -/
def Group.slotAt (g : Group) (e : Nat) : Option Binding := g.slots[e % 8]'(Nat.mod_lt _ (by decide))

/-- Write an event slot. -/
def Group.setSlot (g : Group) (e : Nat) (x : Option Binding) : Group :=
  { g with slots := g.slots.set (e % 8) x (Nat.mod_lt _ (by decide)) }

/-- The batch state of a class. -/
def Group.batch (g : Group) : BatchClass → Batches
  | .c => g.bc
  | .m => g.bm
  | .g => g.bg

/-- Write the batch state of a class. -/
def Group.setBatch (g : Group) (cls : BatchClass) (b : Batches) : Group :=
  match cls with
  | .c => { g with bc := b }
  | .m => { g with bm := b }
  | .g => { g with bg := b }

/-- A class from its code (R60). -/
def BatchClass.ofCode (n : Nat) : BatchClass := if n = 0 then .c else if n = 1 then .m else .g

/-- The gate mark of a vector register (R331). -/
def Group.vmark (g : Group) (n : Nat) : Mark := g.vmarks[n % 64]'(Nat.mod_lt _ (by decide))

/-- Set the gate mark of a vector register. -/
def Group.setVmark (g : Group) (n : Nat) (m : Mark) : Group :=
  { g with vmarks := g.vmarks.set (n % 64) m (Nat.mod_lt _ (by decide)) }

/-- The gate mark of a tile register. -/
def Group.tmark (g : Group) (n : Nat) : Mark := g.tmarks[n % 8]'(Nat.mod_lt _ (by decide))

/-- Set the gate mark of a tile register. -/
def Group.setTmark (g : Group) (n : Nat) (m : Mark) : Group :=
  { g with tmarks := g.tmarks.set (n % 8) m (Nat.mod_lt _ (by decide)) }

/-- Whether the part has the gate (R1). -/
def Variant.hasGate : Variant → Bool
  | .kn960 => true
  | .kn960l => false
  | .kn480 => false

/-- Whether the part has peer ports (R1). -/
def Variant.hasPeer : Variant → Bool
  | .kn960 => true
  | .kn960l => false
  | .kn480 => true

/-- Compute dies of the part (R1). -/
def Variant.dies : Variant → Nat
  | .kn960 => 4
  | .kn960l => 4
  | .kn480 => 2

/-- The die of a core (R16). -/
def dieOf (core : Nat) : Nat := core / Config.coresPerDie

/-- The logical cluster of a core, counted over the package (R16). -/
def clusterOf (core : Nat) : Nat := core / 4

/-- The home slice's die of a tier-1 or tier-2 block (R449). -/
def homeDieOf (v : Variant) (b : Nat) : Nat := b % (32 * v.dies) / 32

/-- The physical core behind a core (R15, R16). -/
def State.physOf (s : State) (core : Nat) : Nat := (s.phys.find? fun x => x.1 == core).elim (core % Config.coresPerDie) (·.2)

/-- The launch record of a group. -/
def State.recordOf (s : State) (g : Group) : Option LaunchRec := (s.launch? g.team.uid).map (·.record)

/-- Whether a group belongs to a deterministic launch (R355). -/
def State.isDet (s : State) (g : Group) : Bool :=
  match s.recordOf g with
  | some r => r.det
  | none => false

/-- Add an entry to a die's black box (R462): the ring keeps 1,024 entries. (DESIGN CHOICE, log 8) -/
def State.blackBox (s : State) (die : Nat) (ty : BitVec 8) (part : Nat) (payload : List Nat) : State :=
  let q := sget s.bboxSeq die
  let old := s.bbox.filter fun e => !(e.die == die && (q - e.seq).toNat ≥ 1024)
  { s with bbox := old ++ [⟨die, s.fclock, ty, part, q, payload⟩], bboxSeq := sset s.bboxSeq die (q + 1#32) }

/-- Raise an MSI-X vector of a function (R450): none is the physical function. -/
def State.irq (s : State) (fn : Option Nat) (vector : Nat) : State :=
  { s with hostOut := s.hostOut ++ [.irq fn vector] }

/-- Halt a partition (R406, R450): HALTED and HALTCODE, the black box, and the host's vector. -/
def State.haltPart (s : State) (n code : Nat) : State :=
  match s.part? n with
  | none => s
  | some p =>
    if p.halted then s
    else ((s.modPart n fun p => { p with halted := true, haltcode := BitVec.ofNat 8 code }).blackBox 0 0x08#8 n
      [code]).irq (some n) 1 |>.irq none 1

/-- Draw a byte from outside the package (R426): free. -/
def State.externalByte (s : State) : Byte × State :=
  (Config.externalByte s.draws, { s with draws := s.draws + 1 })

end Sys2Proof.Machine
end

