-- ==== Sys2Proof/Machine/Translate.lean ====
section
/-! DEFINITION. Machine/Translate.lean: page walks (R423 to R426), cached translations and draining (R427 to R433),
and the checks of a global access (R216 to R222). -/

namespace Sys2Proof.Machine

/-- First physical address of tier 2 (R426). -/
def tier2Base : Nat := 0x100000000000

/-- Bytes of tier 1 (R426). -/
def tier1Size (v : Variant) : Nat := if v = .kn480 then 2 ^ 40 else 2 ^ 41

/-- A physical address lies in the partition's quota (R425, R435). -/
def inQuota (v : Variant) (p : Partition) (pa : Nat) : Bool :=
  if pa < tier1Size v then p.q1.contains (pa / 2 ^ 29)
  else if tier2Base ≤ pa && pa < 2 * tier2Base then p.q2.contains ((pa - tier2Base) / 2 ^ 29)
  else false

/-- PA of an entry, bits [51:16] in place (R424). -/
def ptePA (e : Nat) : Nat := e / 2 ^ 16 % 2 ^ 36 * 2 ^ 16

/-- A leaf with E = 1 lies in an external range (R426). -/
def externalOk (v : Variant) (pa : Nat) : Bool :=
  pa / 2 ^ 48 == 8 || (pa / 2 ^ 48 == 9 && v.hasPeer)

/-- What a walk or a lookup answers (R425, R433). -/
inductive Trans where
  | ok (pa : Nat) (pte : Nat)
  | page
  | pte
  | draining
  deriving DecidableEq, Repr

/-- What one entry of a walk is (R425). -/
inductive Entry where
  | pointer (table : Nat)
  | leaf (pa : Nat)
  | page
  | pte
  deriving DecidableEq, Repr

/-- Test an entry of level 1, 2 or 3 against the rows of R425, in order. -/
def classifyEntry (v : Variant) (p : Partition) (level e : Nat) : Entry :=
  let big := level == 2 && natBit e 7
  let isLeaf := level == 3 || big
  let pa := ptePA e
  let ext := isLeaf && natBit e 6
  if !natBit e 0 then .page
  else if !ext && !inQuota v p pa then .page
  else if e / 2 ^ 52 != 0 || e / 2 ^ 8 % 2 ^ 8 != 0 || natBit e 1 then .pte
  else if natBit e 7 && level != 2 then .pte
  else if !isLeaf then (if e / 4 % 32 != 0 then .pte else .pointer pa)
  else if big && pa / 2 ^ 16 % 2 ^ 13 != 0 then .pte
  else if natBit e 2 && !natBit e 3 then .pte
  else if ext && (natBit e 4 || !externalOk v pa) then .pte
  else .leaf pa

/-- The bits of a virtual address that an entry of a kind does not tell apart (R423). -/
def TlbKind.bits : TlbKind → Nat
  | .page => 16
  | .block => 29
  | .ptr2 => 29
  | .ptr1 => 42

/-- A leaf, which translates; the others are pointers. -/
def TlbKind.leaf : TlbKind → Bool
  | .page => true
  | .block => true
  | _ => false

/-- A cached entry covers a virtual address. -/
def TlbEntry.covers (t : TlbEntry) (va : Nat) : Bool := t.base / 2 ^ t.kind.bits == va / 2 ^ t.kind.bits

/-- An invalidation descriptor covers the leaf for a page or block (R430). -/
def drainCovers (d : Word) (base : Nat) (big : Bool) : Bool :=
  let va := d.toNat % 2 ^ 55
  match field d 63 62 with
  | 0 => if big then base / 2 ^ 29 == va / 2 ^ 29 else base / 2 ^ 16 == va / 2 ^ 16
  | 1 => base / 2 ^ 29 == va / 2 ^ 29
  | _ => true

/-- An invalidation descriptor covers a cached entry (R430): KIND 00 leaves only, KIND 01 the leaves and the pointer within its
block, KIND 10 all. -/
def TlbEntry.drained (t : TlbEntry) (d : Word) : Bool :=
  match t.kind with
  | .page => drainCovers d t.base false
  | .block => drainCovers d t.base true
  | .ptr2 => field d 63 62 != 0 && drainCovers d t.base true
  | .ptr1 => decide (field d 63 62 ≥ 2)

/-- Where an access comes from: a core, with its first-level TLB; a core on which a supervisor group issues it, whose accesses wait for
their range's drains (R433); or the device itself on a die. -/
inductive Site where
  | ofCore (n : Nat)
  | ofSuper (n : Nat)
  | ofDie (n : Nat)
  deriving DecidableEq, Repr

/-- The die of a site. -/
def Site.dieNo : Site → Nat
  | .ofCore n => dieOf n
  | .ofSuper n => dieOf n
  | .ofDie n => n

/-- The core of a site. -/
def Site.core? : Site → Option Nat
  | .ofCore n => some n
  | .ofSuper n => some n
  | .ofDie _ => none

/-- The access is a supervisor group's. -/
def Site.super : Site → Bool
  | .ofSuper _ => true
  | _ => false

/-- Where the accesses of a group come from. A fetch is no access of R433's last sentence: it waits for a draining entry only.
(DEDUCED, log 43) -/
def Group.site (g : Group) : Site := if g.privl then .ofSuper g.core else .ofCore g.core

/-- The entry of a first-level TLB (`core` some), or of a die's TLB and pointer cache (`core` none), that covers an address. -/
def State.cachedAt (s : State) (part die : Nat) (core : Option Nat) (want : TlbKind → Bool) (va : Nat) : Option TlbEntry :=
  s.tlb.find? fun t => t.part == part && t.die == die && t.core == core && want t.kind && t.covers va

/-- The leaf cached for an address: the core's, else its die's (R427). -/
def State.cachedLeaf (s : State) (part : Nat) (at' : Site) (va : Nat) : Option TlbEntry :=
  let first := match at'.core? with
    | some c => s.cachedAt part at'.dieNo (some c) TlbKind.leaf va
    | none => none
  first.or (s.cachedAt part at'.dieNo none TlbKind.leaf va)

/-- What a walk finds: its answer, whether its leaf is a block, and the pointers it has read. -/
abbrev Walked := Trans × Bool × List (TlbKind × Nat)

/-- The last level of a walk, from its table. -/
def walk3 (s : State) (p : Partition) (t3 va : Nat) (read : List (TlbKind × Nat)) : Walked :=
  let e3 := readLE s.mem (t3 + 8 * (va / 2 ^ 16 % 2 ^ 13)) 8
  match classifyEntry s.variant p 3 e3 with
  | .page => (.page, false, [])
  | .pte => (.pte, false, [])
  | .pointer _ => (.pte, false, [])
  | .leaf pa => (.ok (pa + va % 2 ^ 16) e3, false, read)

/-- The second level of a walk, from its table. -/
def walk2 (s : State) (p : Partition) (t2 va : Nat) (read : List (TlbKind × Nat)) : Walked :=
  let e2 := readLE s.mem (t2 + 8 * (va / 2 ^ 29 % 2 ^ 13)) 8
  match classifyEntry s.variant p 2 e2 with
  | .page => (.page, false, [])
  | .pte => (.pte, false, [])
  | .leaf pa => (.ok (pa + va % 2 ^ 29) e2, true, read)
  | .pointer t3 => walk3 s p t3 va (read ++ [(.ptr2, e2)])

/-- Walk the tables of a partition for a virtual address from their root (R423, R425). -/
def walk1 (s : State) (p : Partition) (va : Nat) : Walked :=
  let e1 := readLE s.mem (p.ptroot + 8 * (va / 2 ^ 42 % 2 ^ 13)) 8
  match classifyEntry s.variant p 1 e1 with
  | .page => (.page, false, [])
  | .pte => (.pte, false, [])
  | .leaf _ => (.pte, false, [])
  | .pointer t2 => walk2 s p t2 va [(.ptr1, e1)]

/-- A walk from a die (R427, R428): it goes on from the lowest pointer its cache holds, and waits for one that drains (R433). -/
def walk (s : State) (p : Partition) (die va : Nat) : Walked :=
  match s.cachedAt p.num die none (· == .ptr2) va with
  | some t => if t.draining then (.draining, false, []) else walk3 s p (ptePA t.pte.toNat) va []
  | none =>
    match s.cachedAt p.num die none (· == .ptr1) va with
    | some t => if t.draining then (.draining, false, []) else walk2 s p (ptePA t.pte.toNat) va []
    | none => walk1 s p va

/-- Entries that a first-level TLB or the last-level TLB of a die holds (R27, R427): pointers stand in a cache of their own. -/
def State.tlbCount (s : State) (die : Nat) (core : Option Nat) : Nat :=
  (s.tlb.filter fun t => t.die == die && t.core == core && t.kind.leaf).length

/-- Keep a leaf in the TLB of a core or of a die; a full TLB keeps what it holds. (DESIGN CHOICE, log 11) -/
def State.fillLeaf (s : State) (part die : Nat) (core : Option Nat) (k : TlbKind) (va : Nat) (e : Word) : State :=
  if s.tlbCount die core < (if core.isSome then Config.coreTlb else Config.dieTlb) then
    { s with tlb := s.tlb ++ [⟨part, die, core, k, va, e, false⟩] }
  else s

/-- Keep what a walk from a site has read (R427): its pointers, and its leaf in the TLBs of the die and of the core. -/
def State.fillWalk (s : State) (part : Nat) (at' : Site) (va : Nat) (big : Bool) (e : Word) (ptrs : List (TlbKind × Nat)) : State :=
  let k := if big then TlbKind.block else .page
  let s1 : State := { s with tlb := s.tlb ++ ptrs.map fun x => ⟨part, at'.dieNo, none, x.1, va, BitVec.ofNat 64 x.2, false⟩ }
  let s2 := s1.fillLeaf part at'.dieNo none k va e
  match at'.core? with
  | some c => s2.fillLeaf part at'.dieNo (some c) k va e
  | none => s2

/-- Translate for an access from a site: a cached leaf if one covers the address, unless it drains, else a walk; what a walk has
read is cached unless an open drain covers the address (R427, R431, R433). A supervisor's access to a page of an open drain waits
(R433). -/
def translate (s : State) (part : Nat) (at' : Site) (va : Nat) : Trans × State :=
  match s.part? part with
  | none => (.page, s)
  | some p =>
    if at'.super && p.drains.any fun d => drainCovers d va false then (.draining, s)
    else match s.cachedLeaf part at' va with
    | some t =>
      if t.draining then (.draining, s)
      else
        let s1 := match t.core, at'.core? with
          | none, some c => s.fillLeaf part at'.dieNo (some c) t.kind va t.pte
          | _, _ => s
        (.ok (ptePA t.pte.toNat + va % 2 ^ t.kind.bits) t.pte.toNat, s1)
    | none =>
      match walk s p at'.dieNo va with
      | (.ok pa e, big, ptrs) =>
        if p.drains.any fun d => drainCovers d va big then (.ok pa e, s)
        else (.ok pa e, s.fillWalk part at' va big (BitVec.ofNat 64 e) ptrs)
      | (r, _, _) => (r, s)

/-- Where the tables put a virtual address now, whatever is cached or drains (R425). -/
def State.tablePlace (s : State) (part va : Nat) : Option Nat :=
  match (s.part? part).map fun p => (walk1 s p (va % 2 ^ 55)).1 with
  | some (.ok pa _) => some pa
  | _ => none

/-- What a global access does to its bytes (R219): `late` when its tag is compared at the slice (R223), `noTag` when it
carries no tag. -/
structure AccKind where
  write  : Bool
  atomic : Bool
  tagOp  : Bool
  noTag  : Bool
  late   : Bool
  deriving DecidableEq, Repr

/-- The access reads what it touches, so that a poisoned sector stops it (R419): a load or an atomic. -/
def AccKind.reads (k : AccKind) : Bool := !k.write || k.atomic

/-- The outcome of the checks of one lane. -/
inductive LaneRes where
  | ok (pas tpas : List Nat) (ext : Bool)
  | fault (c : Cause) (addr : Word)
  | wait
  deriving DecidableEq, Repr

/-- The granule of a physical address and the sector have the same size (R22, R132). -/
def granule (pa : Nat) : Nat := pa / 32

/-- A peer window is open for a partition (R455 step 1). -/
def importOpen (s : State) (part pa : Nat) : Bool :=
  s.peerWins.any fun w => w.port == pa / 2 ^ 45 % 8 && field w.value 63 63 == 1 && field w.value 35 35 == 0 &&
    field w.value 41 36 == part

/-- A byte of an access to a page with T = 1 whose granule's tag differs from the pointer's (R222). -/
def tagDiffers (s : State) (ea : Word) (tpas : List Nat) (pa : Nat) : Bool :=
  tpas.contains pa && sget s.tags (granule pa) != BitVec.ofNat 4 (field ea 63 60)

/-- The lowest byte of an access whose granule's tag differs (R222). -/
def tagMiss (s : State) (ea : Word) (pas tpas : List Nat) : Option Nat :=
  (List.range pas.length).find? fun i => tagDiffers s ea tpas (pas.getD i 0)

/-- A byte lies in a poisoned sector (R419), or behind a CXL port that is down (R449, R454). -/
def poisoned (s : State) (pa : Nat) : Bool :=
  s.poison.contains (granule pa) ||
    (decide (tier2Base ≤ pa) && decide (pa < 2 * tier2Base) &&
      s.deadPorts.contains ((pa - tier2Base) / 2 ^ 29 % (if s.variant = .kn480 then 2 else 4)))

/-- The lowest poisoned byte of an access. -/
def poisonAt (s : State) (pas : List Nat) : Option Nat := (List.range pas.length).find? fun i => poisoned s (pas.getD i 0)

/-- A physical address reaches another package through a peer port (R426, R455). -/
def peerPa (pa : Nat) : Bool := pa / 2 ^ 48 == 9

/-- The remote side refuses or faults an access of a byte (R455 step 3). -/
def State.remoteRefuses (s : State) (pa : Nat) : Bool := peerPa pa && Config.peerRefuses s.clock s.draws (pa / 2 ^ 16)

/-- The lowest byte of a load that the remote side refuses. -/
def refusedAt (s : State) (pas : List Nat) : Option Nat := (List.range pas.length).find? fun i => s.remoteRefuses (pas.getD i 0)

/-- A host or peer access through a partition failed (R451). -/
def State.setHerr (s : State) (part : Nat) : State := s.modPart part fun p => { p with herr := true }

/-- A store to bytes of another package that the remote side refuses is dropped, and its partition's HERR is set (R455 step 3). -/
def State.remoteStore (s : State) (part : Nat) (pas : List Nat) : State :=
  if pas.any s.remoteRefuses then s.setHerr part else s

/-- The checks of one lane of a global access, in the order of R218, with R217 for two pages. An ADDR fault names the lane's first byte, also
when only a later byte leaves 55 bits. (DEDUCED, log 26) -/
def laneCheck (s : State) (part : Nat) (at' : Site) (k : AccKind) (align : Bool) (ea : Word) (n : Nat) : LaneRes × State :=
  let last := ea + BitVec.ofNat 64 (n - 1)
  if field ea 59 55 ≠ 0 || field last 59 55 ≠ 0 then (.fault .addr ea, s)
  else if align && ea.toNat % n ≠ 0 then (.fault .align ea, s)
  else
    let va := ea.toNat % 2 ^ 55
    let va2 := last.toNat % 2 ^ 55
    let second := ea + BitVec.ofNat 64 (2 ^ 16 - va % 2 ^ 16)
    let (r1, s1) := translate s part at' va
    let (r2, s2) := if va / 2 ^ 16 == va2 / 2 ^ 16 then (r1, s1) else translate s1 part at' va2
    match r1, r2 with
    | .draining, _ => (.wait, s2)
    | _, .draining => (.wait, s2)
    | .page, _ => (.fault .page ea, s2)
    | _, .page => (.fault .page second, s2)
    | .pte, _ => (.fault .pte ea, s2)
    | _, .pte => (.fault .pte second, s2)
    | .ok pa1 e1, .ok pa2 e2 =>
      let one := va / 2 ^ 16 == va2 / 2 ^ 16
      let pas := (List.range n).map fun i =>
        if one || (va + i) / 2 ^ 16 == va / 2 ^ 16 then pa1 + i else pa2 + i - (n - 1)
      let ext := natBit e1 6 || natBit e2 6
      let peer := fun (e pa : Nat) => natBit e 6 && pa / 2 ^ 48 == 9 && !importOpen s part pa
      if ext && (k.atomic || k.tagOp) then (.fault .addr ea, s2)
      else if peer e1 pa1 then (.fault .pte ea, s2)
      else if peer e2 pa2 then (.fault .pte second, s2)
      else if k.write && !natBit e1 2 then (.fault .ro ea, s2)
      else if k.write && !natBit e2 2 then (.fault .ro second, s2)
      else
        let tpas := if k.tagOp || k.noTag then [] else
          (List.range n).filterMap fun i =>
            let first := one || (va + i) / 2 ^ 16 == va / 2 ^ 16
            if natBit (if first then e1 else e2) 4 then pas[i]? else none
        let miss := if k.late then none else tagMiss s ea pas tpas
        match miss with
        | some i => (.fault .tag (ea + BitVec.ofNat 64 i), s2)
        | none =>
          match if k.reads && !k.tagOp then poisonAt s pas else none with
          | some i => (.fault .scrub ((ea + BitVec.ofNat 64 i) &&& ~~~31#64), s2)
          | none =>
            match if ext && k.reads then refusedAt s pas else none with
            | some i => (.fault .scrub (ea + BitVec.ofNat 64 i), s2)
            | none => (.ok pas tpas ext, s2)

/-- A physical address outside the package, as only a leaf with E = 1 gives one (R425, R426). -/
def outside (pa : Nat) : Bool := decide (pa / 2 ^ 48 ≥ 8)

/-- Read the physical bytes of an access; a byte outside the package is free (R426); `ext` says that some may be. -/
def readPas (s : State) (pas : List Nat) (ext : Bool) : List Byte × State :=
  if ext then
    ((List.range pas.length).map fun i =>
      if outside (pas.getD i 0) then Config.externalByte (s.draws + i) else sget s.mem (pas.getD i 0), { s with draws := s.draws + pas.length })
  else (readAt s.mem pas, s)

/-- Clear the poison of the sectors a store writes whole (R419). -/
def clearPoison (s : State) (pas : List Nat) : State :=
  { s with poison := s.poison.filter fun g => !((List.range 32).all fun i => pas.contains (32 * g + i)) }

/-- Write the physical bytes of an access of a partition; a byte outside the package leaves it (R426, R455). -/
def writePas (s : State) (part : Nat) (pas : List Nat) (bs : List Byte) : State :=
  { s with mem := ssetAll s.mem ((pas.zip bs).filter fun x => !outside x.1) }.remoteStore part pas

/-- The checks of one byte that the device itself accesses (R353, R405): no tag check. -/
def devCheck (s : State) (part die : Nat) (write : Bool) (a : Word) : LaneRes × State :=
  laneCheck s part (.ofDie die) ⟨write, false, false, true, false⟩ false a 1

/-- What stops an access of the device: a cause and its address; none for a draining entry, behind which it waits (R433). -/
abbrev DevStop := Option (Cause × Word)

/-- Read through a partition's tables as the device does (R353, R405). (DEDUCED, log 43) -/
def devRead (s : State) (part die : Nat) (ea : Word) (n : Nat) : Except DevStop (List Byte) × State :=
  let step := fun (r : Except DevStop (List Byte) × State) (i : Nat) =>
    match r with
    | (.error c, t) => (.error c, t)
    | (.ok bs, t) =>
      match devCheck t part die false (ea + BitVec.ofNat 64 i) with
      | (.ok pas _ ext, t) => let (b, t) := readPas t pas ext; (.ok (bs ++ b), t)
      | (.fault c a, t) => (.error (some (c, a)), t)
      | (.wait, t) => (.error none, t)
  (List.range n).foldl step (.ok [], s)

/-- Bytes as the tables give them, behind any draining entry. -/
def State.peek (s : State) (part die : Nat) (ea : Word) (n : Nat) : Option (List Byte) :=
  match (devRead { s with tlb := s.tlb.filter fun t => !t.draining } part die ea n).1 with
  | .ok bs => some bs
  | .error _ => none

/-- Write through a partition's tables as the device does (R405): no tag check; nothing is written when a byte fails.
A byte outside the package leaves it. -/
def devWrite (s : State) (part die : Nat) (ea : Word) (bs : List Byte) : Except DevStop State :=
  let step := fun (r : Except DevStop (State × List (Nat × Byte))) (x : Nat × Byte) =>
    match r with
    | .error c => .error c
    | .ok (t, out) =>
      match devCheck t part die true (ea + BitVec.ofNat 64 x.1) with
      | (.ok ps _ _, t) => .ok (t.remoteStore part ps, out ++ (ps.filter fun p => !outside p).map fun p => (p, x.2))
      | (.fault c a, _) => .error (some (c, a))
      | (.wait, _) => .error none
  match ((List.range bs.length).zip bs).foldl step (.ok (s, [])) with
  | .error c => .error c
  | .ok (t, out) => .ok (clearPoison { t with mem := ssetAll t.mem out } (out.map (·.1)))

end Sys2Proof.Machine
end

