-- ==== Sys2Proof/Machine/Latch.lean ====
section
/-! DEFINITION. Machine/Latch.lean: event slots and their sources (R150 to R159), pegs (R163 to R166), mailboxes
(R162), window writes that a WATCH source sees, batch completion counts (R171 to R174). -/

namespace Sys2Proof.Machine

/-- The kind of a source descriptor (R151). -/
def srcKind (desc : Word) : Nat := field desc 63 60

/-- Latch the bound slots that satisfy a test (R152). -/
def Group.latch (g : Group) (p : Binding → Bool) : Group :=
  { g with slots := g.slots |> vmap fun o => o.map fun b => if p b then { b with pend := true } else b }

/-- PEND, BOUND and PERS of %pev (R153). -/
def Group.slotBits (g : Group) (p : Binding → Bool) : BitVec 8 :=
  (List.range 8).foldl (fun x e => match g.slotAt e with
    | some b => if p b then x ||| (1#8 <<< e) else x
    | none => x) 0#8

/-- A binding stands pending; one of an MBOX source only while the mailbox holds a token (R152). -/
def Group.pends (g : Group) (b : Binding) : Bool := b.pend && (srcKind b.desc != 3 || !g.mailbox.isEmpty)

/-- PEND AND BOUND AND NOT MASK (R158). -/
def Group.wanted (g : Group) : BitVec 8 := g.slotBits g.pends &&& ~~~g.evm

/-- A landing or an in-group trap holds the fragment (R87, R135). -/
def Frag.held (f : Frag) : Bool := f.heldLand || f.heldTrap.isSome

/-- The state a fragment takes when its wait completes (R87, R135). -/
def Frag.wakeState (f : Frag) : FState := if f.held then .held else .ready

/-- A phase is reached (R166). -/
def reached (phase p : BitVec 16) : Bool := (phase - p).toNat < 2 ^ 15

/-- A phase is reached after one of the `n` phase advances that follow a phase (R152, R166). -/
def reachedBy (phase : BitVec 16) (n : Nat) (p : BitVec 16) : Bool :=
  let d := (phase + 1#16 - p).toNat
  decide (n ≥ 1) && (decide (d < 2 ^ 15) || decide (d + n > 2 ^ 16))

/-- The handle of a peg (R163). -/
def Peg.handle (p : Peg) : Word :=
  BitVec.ofNat 64 ((if p.cluster then 2 ^ 31 else 0) + 2 ^ 30 + p.gen.toNat * 256 + p.index)

/-- The cluster shape of a group's team: 1 without one. -/
def State.shapeOf (s : State) (g : Group) : Nat :=
  match s.team? g.team with
  | some t => t.shape
  | none => 1

/-- A group may use a peg (R163). -/
def State.mayUse (s : State) (g : Group) (p : Peg) : Bool :=
  if p.cluster then
    let n := s.shapeOf g
    p.pool == clusterOf g.core && n > 1 && !g.team.origin && p.owner.uid == g.team.uid &&
      p.owner.index / n == g.team.index / n
  else p.pool == g.core && p.owner == g.team

/-- The live peg a handle names for a group (R163). -/
def State.peg? (s : State) (g : Group) (h : Word) : Option Peg :=
  s.pegs.find? fun p => p.live && p.handle == h && s.mayUse g p

/-- Two pegs are the same place of a pool. -/
def Peg.same (p q : Peg) : Bool := p.cluster == q.cluster && p.pool == q.pool && p.index == q.index

/-- Replace a peg. -/
def State.setPeg (s : State) (p : Peg) : State := { s with pegs := mapIf (fun q => q.same p) (fun _ => p) s.pegs }

/-- A peg whose references have ended returns to its pool and its generation advances (R165). -/
def Peg.settle (p : Peg) : Peg :=
  if p.explicit + p.implicit = 0 then { p with live := false, gen := p.gen + 1#8 } else p

/-- Add to the implicit references of a peg (R165), also past the limit that a `pegref` traps at (DESIGN CHOICE, log 66). -/
def State.hold (s : State) (g : Group) (h : Word) : State :=
  match s.peg? g h with
  | some p => s.setPeg { p with implicit := p.implicit + 1 }
  | none => s

/-- Drop an implicit reference of a peg (R165). -/
def State.drop (s : State) (g : Group) (h : Word) : State :=
  match s.peg? g h with
  | some p => s.setPeg { p with implicit := p.implicit - 1 }.settle
  | none => s

/-- The phases an arrival completes (R164); fewer than the arrivals owed plus two. -/
def Peg.advance : Nat → Peg → Peg
  | 0, p => p
  | n + 1, p =>
    if p.a ≤ 0 ∧ p.b = 0 then Peg.advance n { p with phase := p.phase + 1#16, a := p.a + p.arrivals, b := p.bytes }
    else p

/-- An arrival of `k` arrivals and `y` bytes on a peg (R164). -/
def Peg.arrive (p : Peg) (k y : Nat) : Peg :=
  let q := { p with b := p.b - y, a := p.a - (k : Int) }
  q.advance (q.a.natAbs + 2)

/-- A fragment parked in `pegwait` continues when one of the `n` phase advances of the peg reaches its phase (R170). -/
def Group.wakePeg (g : Group) (p : Peg) (n : Nat) : Group :=
  g.mapFrags fun _ f =>
    match f.state, f.wait with
    | .inPegwait, .peg h ph next =>
      if h = p.handle ∧ reachedBy p.phase n ph then { f with state := f.wakeState, wait := .none, pc := next } else f
    | _, _ => f

/-- The fragments of a group parked on a peg for a phase that one of `n` phase advances reaches. -/
def Group.pegWaiters (g : Group) (p : Peg) (n : Nat) : Nat :=
  ((List.range 4).filter fun i =>
    match (g.frag i).state, (g.frag i).wait with
    | .inPegwait, .peg h ph _ => h == p.handle && reachedBy p.phase n ph
    | _, _ => false).length

/-- An arrival: the peg advances, PEG sources latch at each phase advance, waits complete and drop their references
(R152, R164, R165, R170). -/
def State.pegArrive (s : State) (p : Peg) (k y : Nat) : State :=
  let q := p.arrive k y
  let n := (q.phase - p.phase).toNat
  if n = 0 then s.setPeg q
  else
    let mine := fun (g : Group) => s.mayUse g p
    let woken := (s.groups.filter mine).foldl (fun m g => m + g.pegWaiters p n) 0
    let on := fun (b : Binding) =>
      srcKind b.desc == 1 && b.desc.toNat % 2 ^ 32 == q.handle.toNat && reachedBy p.phase n (BitVec.ofNat 16 (field b.desc 47 32))
    let s := { s with groups := mapIf mine (fun g => (g.latch on).wakePeg p n) s.groups }
    s.setPeg { q with implicit := q.implicit - woken }.settle

/-- A condition that already holds when a slot is bound (R152). -/
def State.holdsNow (s : State) (g : Group) (desc : Word) : Bool :=
  match srcKind desc with
  | 1 => match s.peg? g (BitVec.ofNat 64 (desc.toNat % 2 ^ 32)) with
    | some p => reached p.phase (BitVec.ofNat 16 (field desc 47 32))
    | none => false
  | 2 => (g.batch (.ofCode (field desc 1 0))).seals.length ≤ field desc 15 8
  | 3 => !g.mailbox.isEmpty
  | 4 => match s.team? g.team with
    | some t => (readLE t.window (field desc 51 32) 4 == field desc 31 0) == (field desc 59 59 == 0)
    | none => false
  | 5 => field desc 47 0 == 0
  | 7 => match s.part? g.part with
    | some p => p.tqTail != p.tqHead
    | none => false
  | _ => false

/-- Bytes of a row of a tile (R95). -/
def TileShape.rowBytes (t : TileShape) : Nat := t.cols * (4 * 2 ^ t.ew.toNat) / 8

/-- The row pitch of a layout word (R281, R298). -/
def layoutPitch (layout rb : Nat) : Nat := if layout / 256 % 4096 = 0 then rb else 16 * (layout / 256 % 4096)

/-- The window offsets of a tile image, row by row (R298). -/
def tileOffsets (t : TileShape) (a layout : Nat) : List Nat :=
  let s := 16 * 2 ^ (layout % 8)
  let p := layoutPitch layout t.rowBytes
  (List.range t.rows).flatMap fun r => (List.range t.rowBytes).map fun b =>
    a + r * p + b / s * s + ((b % s / 16) ^^^ (r % (s / 16))) * 16 + b % 16

/-- A write of aligned 8-byte words of the window meets a tile image that is being read (R298): each of them has, by a free bit, been read
before or is read after the write; all are, where an older `tld` of the group has read after it (`late`), for its reads come first (R298).
The answer says whether a word was. (DESIGN CHOICE, log 16) -/
def Group.raceTile (w : SMap 8) (words : List Nat) (draw : Nat) (q : Group × Bool) (r : TileRead) : Group × Bool :=
  let (g, late) := q
  let base := draw + words.length * (8 * g.gidx + r.tile)
  let after := (tileOffsets r.shape r.base r.layout).zipIdx.filter fun (o : Nat × Nat) =>
    late || words.zipIdx.any fun (v : Nat × Nat) => v.1 == o.1 / 8 && Config.raceBit (base + v.2)
  (g.setTile r.tile (after.foldl (fun (m : SMap 8) (o : Nat × Nat) => sset m o.2 (sget w o.1)) (g.tile r.tile)), late || !after.isEmpty)

/-- A write of the window of a group's team meets its tile images that are being read, the oldest first (R298). -/
def Group.raceTiles (g : Group) (w : SMap 8) (words : List Nat) (draw : Nat) : Group :=
  (g.tlds.foldl (Group.raceTile w words draw) (g, false)).1

/-- A group's own access to the window comes after all its reads of tile images under way (R258, R298). -/
def Group.tilesRead (g : Group) : Group := { g with tlds := [] }

/-- The groups of a team whose tile images are being read meet a write of its window (R298). -/
def State.raceTiles (s : State) (t : Team) (as : List Nat) : State :=
  if s.groups.any fun g => g.team == t.key && !g.tlds.isEmpty then
    let words := (as.map (· / 8)).dedup
    { s with
      draws := s.draws + 256 * words.length
      groups := mapIf (fun g => g.team == t.key) (fun g => g.raceTiles t.window words s.draws) s.groups }
  else s

/-- Window bytes of a team change: the bytes, the tile images that are being read (R298), and the WATCH sources of the team's groups on
the words written (R151). -/
def State.windowWrite (s : State) (k : TeamKey) (as : List Nat) (bs : List Byte) : State :=
  let s := s.modTeam k fun t => { t with window := writeAt t.window as bs }
  match s.team? k with
  | none => s
  | some t =>
    let s := s.raceTiles t as
    let hit := fun (b : Binding) =>
      srcKind b.desc == 4 && as.any (fun a => a / 4 == field b.desc 51 32 / 4) &&
        ((readLE t.window (field b.desc 51 32) 4 == field b.desc 31 0) == (field b.desc 59 59 == 0))
    { s with groups := mapIf (fun g => g.team == k) (fun g => g.latch hit) s.groups }

/-- A token enters a mailbox: MBOX sources latch (R152, R162). -/
def Group.post (g : Group) (token : BitVec 32) : Group :=
  { g with mailbox := g.mailbox ++ [token] }.latch fun b => srcKind b.desc == 3

/-- Records entered a trap queue: TRAPQ sources of the partition latch (R151), those of saved groups too (R160). -/
def State.latchTrapq (s : State) (part : Nat) : State :=
  let on := fun (g : Group) => g.latch fun b => srcKind b.desc == 7
  { s with
    groups := mapIf (fun g => g.part == part) on s.groups
    saved := mapIf (fun x => x.part == part) (fun x => { x with groups := x.groups.map on }) s.saved }

/-- The TIMER sources of a group of a deterministic launch latch at the word that their counts retire (R152, R378); a persistent one
starts its count again. -/
def Group.latchTimers (g : Group) : Group :=
  { g with slots := g.slots |> vmap fun o => o.map fun b =>
      let count := field b.desc 47 0
      if srcKind b.desc = 5 ∧ count ≠ 0 ∧ b.timerAt ≤ g.retired ∧ (b.pers ∨ b.expiries = 0) then
        { b with pend := true, expiries := b.expiries + 1, timerAt := if b.pers then b.timerAt + count else b.timerAt }
      else b }

/-- The source data of a delivery (R155). -/
def State.eventValue (s : State) (g : Group) (b : Binding) : Nat :=
  match srcKind b.desc with
  | 1 => match s.peg? g (BitVec.ofNat 64 (b.desc.toNat % 2 ^ 32)) with
    | some p => p.phase.toNat
    | none => 0
  | 2 => (g.batch (.ofCode (field b.desc 1 0))).latest.toNat
  | 3 => (g.mailbox.headD 0#32).toNat
  | 4 => match s.team? g.team with
    | some t => readLE t.window (field b.desc 51 32) 4
    | none => 0
  | 5 => min b.expiries 0xFFFFFFFF
  | 6 => g.gateSeq.toNat % 2 ^ 32
  | 7 => match s.part? g.part with
    | some p => (p.tqTail - p.tqHead).toNat
    | none => 0
  | _ => 0

/-- Accumulator bindings that a wait for count `n` covers are released (R311). -/
def Group.releaseBinds (g : Group) (n : Nat) : Group :=
  let c := g.bm.counter
  { g with binds := g.binds |> vmap fun bs => bs.filter fun b => !((c - BitVec.ofNat 32 n - b).toNat < 2 ^ 31) }

/-- Deliver slot `e` to fragment `f` (R159). The binding rule of R311 counts a BATCH delivery of class m. -/
def State.deliverEvent (s : State) (core slot e f : Nat) : State :=
  match s.group? core slot with
  | none => s
  | some g =>
    match g.slotAt e with
    | none => s
    | some b =>
      let kind := srcKind b.desc
      let info := BitVec.ofNat 64 (kind * 2 ^ 60 + e * 2 ^ 48 + s.eventValue g b)
      let mbox := if kind = 3 then g.mailbox.drop 1 else g.mailbox
      let again := (kind == 3 && !mbox.isEmpty) || (kind == 5 && field b.desc 47 0 == 0)
      let g1 := { g with evinfo := info, mailbox := mbox }
      let g2 := if kind = 3 ∧ mbox = [] then
          { g1 with slots := g1.slots |> vmap fun o => o.map fun x => if srcKind x.desc == 3 then { x with pend := false } else x }
        else g1
      let b' : Option Binding := if b.pers then
          some { b with pend := again, expiries := if again && kind == 5 then 1 else 0 } else none
      let g3 := g2.setSlot e b'
      let g4 := if kind = 2 ∧ field b.desc 1 0 = 1 then g3.releaseBinds (field b.desc 15 8) else g3
      let g5 := g4.modFrag f fun x => { x with pc := b.handler, state := x.wakeState, hints := [] }
      let s := s.setGroup g5
      if kind = 1 ∧ !b.pers then s.drop g (BitVec.ofNat 64 (b.desc.toNat % 2 ^ 32)) else s

/-- The lowest set bit of an 8-bit mask. -/
def lowBit (x : BitVec 8) : Nat := ((List.range 8).find? fun i => x.getLsbD i).getD 0

/-- Continue the fragments parked in `waitb` whose count holds; a class m continuation releases bindings (R174, R311). -/
def Group.wakeBatch (g : Group) (cls : BatchClass) : Group :=
  let out := (g.batch cls).seals.length
  let ready := (List.range 4).filterMap fun i =>
    match (g.frag i).state, (g.frag i).wait with
    | .inWaitb, .batch k n _ => if k = cls ∧ out ≤ n then some n else none
    | _, _ => none
  let g1 := g.mapFrags fun _ f =>
    match f.state, f.wait with
    | .inWaitb, .batch k n next =>
      if k = cls ∧ out ≤ n then { f with state := f.wakeState, wait := .none, pc := next } else f
    | _, _ => f
  if cls = .m then ready.foldl (fun h n => h.releaseBinds n) g1 else g1

end Sys2Proof.Machine
end

