-- ==== Sys2Proof/Machine/Ops.lean ====
section
/-! DEFINITION. Machine/Ops.lean: the shared operations of the control engine and the trap unit: trap records and the
trap queue (R398, R404 to R407), taking a trap (R400 to R403) and returning from one (R119), landings, hard
pre-emptions and clamps (R134 to R137). -/

namespace Sys2Proof.Machine

/-- The code of a cause (R397). -/
def Cause.code : Cause → Nat
  | .illegal => 0x01
  | .absent => 0x02
  | .priv => 0x03
  | .understall => 0x04
  | .joinovf => 0x05
  | .vreg => 0x06
  | .addr => 0x07
  | .align => 0x08
  | .tag => 0x09
  | .bounds => 0x0A
  | .scratch => 0x0B
  | .peergone => 0x0C
  | .xn => 0x0D
  | .ro => 0x0E
  | .page => 0x0F
  | .accbusy => 0x10
  | .layout => 0x11
  | .streamrights => 0x12
  | .cpymask => 0x13
  | .gateTaint => 0x14
  | .gateAbort => 0x15
  | .gateSession => 0x16
  | .mxreset => 0x17
  | .scrub => 0x18
  | .budgetHard => 0x19
  | .swtrap => 0x1A
  | .debug => 0x1B
  | .pte => 0x1C
  | .migrate => 0x1D

/-- The causes that may be delivered in-group (R397, R399). -/
def inGroupMask : BitVec 32 := 0x0C8F19FE#32

/-- The handle of a resident group (R409). -/
def Group.handle (g : Group) : Word :=
  BitVec.ofNat 64 (g.seq.toNat * 2 ^ 32 + g.core % 1024 * 2 ^ 12 + g.slot % 32)

/-- The value of %lcause (R128). -/
def Landing.value (x : Landing) : Word :=
  BitVec.ofNat 64 (x.clampp.toNat * 128 + x.inres.toNat * 64 + x.frag.toNat * 16 + x.cause.toNat)

/-- A class-X write of the core in flight (R54). -/
def Pend.classX (p : Pend) : Bool :=
  match p with
  | .x .. => true
  | .xv .. => true
  | _ => false

/-- A fragment stands between two units: no hint word of a unit has issued, and no word has paid and waits as a release (R368).
(DEDUCED, log 70) -/
def Frag.between (f : Frag) : Bool := f.hints == [] && f.paid.isNone

/-- Every pending fixed-latency write completes (R53). -/
def Group.settle (g : Group) : Group :=
  { g with orphans := g.orphans.filter Pend.classX }.mapFrags fun _ f => { f with pend := f.pend.filter Pend.classX }

/-- Bytes 0 to 63 of a trap record (R398). -/
def TrapRec.bytes (r : TrapRec) (rseq : BitVec 32) : List Byte :=
  leBytes 8 r.pc.toNat ++ leBytes 8 r.addr.toNat ++ leBytes 8 r.fmask.toNat ++ leBytes 8 r.lmask.toNat ++
  leBytes 4 r.lid.toNat ++ leBytes 4 r.tidx.toNat ++
  leBytes 1 r.cause.code ++
  leBytes 1 (r.replay.toNat + 2 * r.defer.toNat + 4 * r.origin.toNat + 8 * r.saved.toNat + 16 * r.relaunch.toNat) ++
  leBytes 1 (r.part % 64) ++ leBytes 1 (r.gidx % 32 + 32 * (r.frag % 4)) ++ leBytes 4 rseq.toNat ++
  leBytes 8 r.handle.toNat ++ leBytes 8 r.info.toNat

/-- The record of a trap of a group (R36, R398). -/
def State.mkRec (s : State) (g : Group) (frag : Nat) (cause : Cause) (addr : Word) (fmask lmask : Mask) (pc : Word) : TrapRec :=
  { pc := pc, addr := addr, fmask := fmask, lmask := lmask,
    lid := (s.recordOf g).elim 0#32 (·.lid), tidx := BitVec.ofNat 32 g.team.index, cause := cause,
    replay := false, defer := false, origin := g.team.origin, saved := false, relaunch := false,
    part := g.part, gidx := g.gidx, frag := frag, handle := g.handle, info := 0#64, ticket := 0 }

/-- Free slots of the ring (R406): the records whose writes wait behind a draining entry hold theirs. -/
def Partition.freeSlots (p : Partition) : Nat := 2 ^ p.tqLog - (p.tqTail - p.tqHead).toNat - p.held.length

/-- Write a record and then TAIL through the partition's tables; TRAPQ sources latch; a write that meets a cause halts
the partition (R405). None when a write meets a draining entry (R433). -/
def State.ringPut (s : State) (part die : Nat) (r : TrapRec) : Option State :=
  match s.part? part with
  | none => some s
  | some p =>
    let slot := p.tqBase + BitVec.ofNat 64 (64 * (p.tqTail.toNat % 2 ^ p.tqLog))
    match devWrite s part die slot (r.bytes p.tqTail) with
    | .error none => none
    | .error (some _) => some (s.haltPart part 1)
    | .ok s1 =>
      match devWrite s1 part die (p.tqcb + 16#64) (leBytes 4 (p.tqTail + 1#32).toNat) with
      | .error none => none
      | .error (some _) => some (s1.haltPart part 1)
      | .ok s2 =>
        let words := [0, 8, 32, 40].map fun i => leValue ((r.bytes p.tqTail).drop i |>.take 8)
        some (((s2.modPart part fun p => { p with tqTail := p.tqTail + 1#32 }).latchTrapq part).blackBox die 0x01#8 part words)

/-- An admitted record is written, or waits behind a draining entry and behind the records that wait there (R405, R433). -/
def State.ringWrite (s : State) (part die : Nat) (r : TrapRec) : State :=
  let wait := s.modPart part fun p => { p with held := p.held ++ [(die, r)] }
  if (s.part? part).elim true (·.held.isEmpty) then (s.ringPut part die r).getD wait else wait

/-- The records that waited behind a draining entry are written, oldest first, at most `n` of them (R433). -/
def State.flushRing (s : State) (part : Nat) : Nat → State
  | 0 => s
  | n + 1 =>
    match (s.part? part).bind (·.held.head?) with
    | none => s
    | some (die, r) =>
      match s.ringPut part die r with
      | none => s
      | some t => (t.modPart part fun p => { p with held := p.held.drop 1 }).flushRing part n

/-- Admit a record that is neither replayable nor MIGRATE: F ≥ 1, else the partition is halted (R406); the queue of a halted
partition accepts none. -/
def State.enqueue (s : State) (die : Nat) (r : TrapRec) : State :=
  match s.part? r.part with
  | none => s
  | some p => if p.halted then s else if p.freeSlots ≥ 1 then s.ringWrite r.part die r else s.haltPart r.part 1

/-- Admit a MIGRATE record: F > 4, else it is dropped and a black-box entry records it (R406). -/
def State.admitMigrate (s : State) (die : Nat) (r : TrapRec) : State :=
  match s.part? r.part with
  | none => s
  | some p =>
    if p.halted then s
    else if p.freeSlots > 4 then s.ringWrite r.part die r
    else s.blackBox die 0x0A#8 r.part ((List.range 6).map fun i => leValue ((r.bytes 0#32).drop (8 * i) |>.take 8))

/-- Admit the replayable records that wait, oldest first, while F > 4 (R406); at most `n` of them. -/
def State.admitWaiting (s : State) (part die : Nat) : Nat → State
  | 0 => s
  | n + 1 =>
    match s.part? part with
    | none => s
    | some p =>
      match p.recs.find? (·.admitted.isNone) with
      | none => s
      | some r =>
        if p.freeSlots > 4 ∧ !p.halted then
          let seq := p.tqTail + BitVec.ofNat 32 p.held.length
          let s := s.ringWrite part die r.body
          (s.modPart part fun p => { p with
            recs := mapIf (fun x => x.ticket == r.ticket) (fun x => { x with admitted := some seq }) p.recs }).admitWaiting part die n
        else s

/-- Raise a replayable record (R232, R233, R287, R397): it enters the ring when F > 4, and waits otherwise. Answers
the number by which the waiting fault knows it. -/
def State.raiseReplay (s : State) (die : Nat) (r : TrapRec) : Nat × State :=
  match s.part? r.part with
  | none => (0, s)
  | some p =>
    let t := p.nextTick
    let s := s.modPart r.part fun p => { p with
      nextTick := t + 1
      recs := p.recs ++ [RecRef.mk t none { r with replay := true, ticket := t }] }
    (t, s.admitWaiting r.part die (p.recs.length + 1))

/-- A replayable fault is resolved: HEAD has passed its record (R407). -/
def State.resolved (s : State) (part ticket : Nat) : Bool :=
  match s.part? part with
  | none => true
  | some p => !p.recs.any fun r => r.ticket == ticket

/-- What taking a trap needs: the cause, its address field, its lanes (none: the fragment's mask), the PC of the
record, where the fragment continues, and whether it is deferred and from a copy in flight (R397, R398, R403). -/
structure TrapArgs where
  cause : Cause
  addr  : Word
  lanes : Option Mask
  pc    : Word
  rpc   : Word
  defer : Bool
  copy  : Bool
  deriving DecidableEq, Repr

/-- A precise trap at a unit (R68, R401): the record's PC and the return PC are the unit's. -/
def TrapArgs.precise (cause : Cause) (addr : Word) (unit : Word) : TrapArgs :=
  ⟨cause, addr, none, unit, unit, false, false⟩

/-- In-group delivery is allowed (R400); of ADDR only when it is precise (R397). -/
def Group.takesInGroup (g : Group) (t : TrapArgs) : Bool :=
  g.trap.tdeliver.getLsbD t.cause.code && g.trap.tvec != 0#64 && decide (g.stack.length < 8) && !t.copy &&
    !(t.defer && t.cause == .addr)

/-- The trap entries on the join stack (R88, NTRAP). -/
def Group.traps (g : Group) : Nat := (g.stack.filter (·.isTrap)).length

/-- The fragments other than `f` are held by the delivery of trap entry `n`: a ready one goes to state 101 (R87). -/
def Group.holdForTrap (g : Group) (f n : Nat) : Group :=
  g.mapFrags fun i x =>
    if i ≠ f ∧ x.live then
      { x with heldTrap := x.heldTrap.or (some n), state := if x.state = .ready then .held else x.state }
    else x

/-- The fragments other than `f` are held by a landing (R135). -/
def Group.holdForLanding (g : Group) (f : Nat) : Group :=
  g.mapFrags fun i x =>
    if i ≠ f ∧ x.live then { x with heldLand := true, state := if x.state = .ready then .held else x.state } else x

/-- The fragments that the delivery of trap entry `n` held, and nothing else holds, return to 001 (R119, R135). -/
def Group.releaseTrap (g : Group) (n : Nat) : Group :=
  g.mapFrags fun _ x =>
    if x.heldTrap = some n then
      { x with heldTrap := none, state := if x.state = .held ∧ !x.heldLand then .ready else x.state }
    else x

/-- In-group delivery to fragment `f` (R401). -/
def Group.trapInGroup (g : Group) (f : Nat) (t : TrapArgs) : Group :=
  let x := g.frag f
  let g1 := { g.settle with stack := g.stack ++ [StackEntry.mk true f (BitVec.ofNat 8 t.cause.code) t.rpc x.mask false] }
  let g2 := g1.holdForTrap f (g.traps + 1)
  let tr : TrapRegs := { g.trap with
    frag := BitVec.ofNat 2 f, replay := false, defer := t.defer, cause := BitVec.ofNat 8 t.cause.code,
    taddr := t.addr, tmask := t.lanes.getD x.mask }
  { g2 with trap := tr, parkCut := none, groupHeld := none }.modFrag f fun y =>
    { y with pc := g.trap.tvec, state := .ready, hints := [], paid := none, wait := .none, fetchRec := none }

/-- A fragment is parked in `wany`, `pegwait` or `waitb`. -/
def Frag.waits (f : Frag) : Bool := f.state == .inWany || f.state == .inPegwait || f.state == .inWaitb

/-- A fragment leaves the wait it is parked in, to evaluate its waiting unit again: its reference to a peg ends
(R137, R165, R400). A trap entry that found it parked goes on holding it (R87): its later waits complete to state 101 until that trap
returns (DESIGN CHOICE, log 71). -/
def State.leaveWait (s : State) (core slot f : Nat) : State :=
  match s.group? core slot with
  | none => s
  | some g =>
    if !(g.frag f).waits then s
    else
      let s1 := s.setGroup (g.modFrag f fun x => { x with state := .ready, wait := .none })
      match (g.frag f).wait with
      | .peg h _ _ => s1.drop g h
      | _ => s1

/-- The group stops: its slice timer freezes (R402). -/
def Group.stopFor (g : Group) (f clock : Nat) : Group := { g with stopped := some f, stopAt := clock, parkCut := none, groupHeld := none }

/-- A core remembers the cause of its last trap (R461). -/
def State.noteTrap (s : State) (core : Nat) (c : Cause) : State :=
  { s with lastTrap := sset s.lastTrap core (BitVec.ofNat 8 c.code) }

/-- Supervisor delivery (R402, R440): the group stops and its record enters the trap queue; a supervisor group's trap
halts the partition. -/
def State.trapToSupervisor (s : State) (core slot f : Nat) (fmask : Mask) (t : TrapArgs) : State :=
  match s.group? core slot with
  | none => s
  | some g =>
    let super := (s.launch? g.team.uid).elim false (·.super)
    let g1 := (g.settle.modFrag f fun y =>
      let st : FState := if y.state = .atJoin ∨ y.state = .held ∨ y.state = .free then y.state else .ready
      { y with pc := t.rpc, hints := [], paid := none, state := st, wait := .none }).stopFor f s.clock
    let r := s.mkRec g f t.cause t.addr fmask (t.lanes.getD fmask) t.pc
    let s1 := (s.setGroup g1).noteTrap core t.cause
    if super then s1.haltPart g.part 5
    else s1.enqueue (dieOf core) { r with defer := t.defer }

/-- A fragment takes a trap (R400): the one operation by which a trap is taken. -/
def State.takeTrap (s : State) (core slot f : Nat) (t : TrapArgs) : State :=
  match s.group? core slot with
  | none => s
  | some g =>
    let s := s.leaveWait core slot f
    if g.takesInGroup t then (s.modGroup core slot fun g => { g.trapInGroup f t with deferHeld := t.defer }).noteTrap core t.cause
    else s.trapToSupervisor core slot f (g.frag f).mask t

/-- Slots of a class on a core that are free in this cycle (R19): two for vector words. -/
def State.classFree (s : State) (core cls : Nat) : Bool :=
  let now := (s.groups.map fun g => (g.core, g.lastCls, g.lastIssue)) ++ s.left
  decide ((now.filter (· == (core, cls, s.clock + 1))).length < if cls = 1 then 2 else 1)

/-- The fragment that last issued, for the rotation of a deterministic launch (R381). -/
def Group.lastFrag (g : Group) : Option Nat :=
  (List.range 4).foldl (fun b i => match b with
    | none => if (g.frag i).lastIssue > 0 then some i else none
    | some j => if (g.frag i).lastIssue > (g.frag j).lastIssue then some i else some j) none

/-- The ready fragment that issues next among those that satisfy `p`: the least recently issued (R82), or the next in
rotation by id (R381). -/
def Group.nextFragOf (g : Group) (det : Bool) (p : Frag → Bool) : Option Nat :=
  let ids := if det then (List.range 4).map fun i => (i + (g.lastFrag.getD 3) + 1) % 4 else List.range 4
  ids.foldl (fun b i =>
    if (g.frag i).state = .ready ∧ p (g.frag i) then
      match b with
      | none => some i
      | some j => if !det ∧ (g.frag i).lastIssue < (g.frag j).lastIssue then some i else some j
    else b) none

/-- The fragment R82 would issue next. -/
def Group.nextFrag (g : Group) (det : Bool) : Option Nat := g.nextFragOf det fun _ => true

/-- The lowest-numbered fragment parked in `wany`, `pegwait` or `waitb` (R137, R400). -/
def Group.waitingFrag (g : Group) : Option Nat :=
  (List.range 4).find? fun i => (g.frag i).waits

/-- A deferred trap is pending and may be delivered: one that was delivered in-group makes the next wait for a later boundary,
which a word's issue brings (R403). (DEDUCED, log 67) -/
def Group.deferDue (g : Group) : Bool := !g.deferred.isEmpty && !g.deferHeld

/-- Every ready fragment stands at a unit boundary (R410). -/
def Group.atBoundary (g : Group) : Bool := (List.range 4).all fun i => (g.frag i).state != .ready || (g.frag i).hints == []

/-- The fragment that would issue next is at a unit boundary, or none is ready; in a deterministic launch no fragment is inside a
unit (R378). -/
def State.boundary (s : State) (g : Group) : Bool :=
  if s.isDet g then (List.range 4).all fun i => (g.frag i).state != .ready || (g.frag i).between
  else match g.nextFrag false with
    | some f => (g.frag f).between
    | none => true

/-- A deferred trap is delivered to the group at this boundary (R400, R403, R408): a save that has not stopped the group itself comes
after it; a group that has ended has no later round to wait for. -/
def State.deferNow (s : State) (g : Group) : Bool :=
  g.deferDue && s.boundary g && (!g.qdone || g.ending) && !g.stopped.isSome && !g.halted && !s.frozen.contains g.core && !g.saving &&
    !((s.part? g.part).elim true (·.halted))

/-- Deliver the oldest pending deferred trap (R400, R403): to the fragment R82 would issue next, else the lowest that
waits, else to the supervisor. (DEDUCED, log 23) -/
def State.deliverDeferred (s : State) (core slot : Nat) : State :=
  match s.group? core slot with
  | none => s
  | some g =>
    match g.deferred with
    | [] => s
    | d :: rest =>
      let s := s.setGroup { g with deferred := rest }
      let args := fun (rpc : Word) => TrapArgs.mk d.cause d.addr d.lanes d.pc rpc true d.copy
      match g.nextFrag (s.isDet g) with
      | some f => s.takeTrap core slot f (args (g.frag f).pc)
      | none =>
        match g.waitingFrag with
        | some f => s.takeTrap core slot f (args (g.frag f).pc)
        | none =>
          let f := (g.liveFrags.head?).getD 0
          s.trapToSupervisor core slot f 0#64 (args (g.frag f).pc)

/-- The teams saved with a team: its cluster team, or itself (R410). -/
def State.saveMates (s : State) (t : Team) : List Team :=
  if t.shape > 1 ∧ !t.key.origin then
    s.teams.filter fun x => x.key.uid == t.key.uid && !x.key.origin && x.key.index / t.shape == t.key.index / t.shape
  else [t]

/-- The groups of a team. -/
def State.groupsOfTeam (s : State) (k : TeamKey) : List Group := s.groups.filter fun g => g.team == k

/-- Every group of a team and of its mates has stopped issuing for their save (R410 step 1). -/
def State.stoodForSave (s : State) (t : Team) : Bool :=
  (s.saveMates t).all fun x => x.saving.isSome && (s.groupsOfTeam x.key).all fun g =>
    g.atBoundary || g.stopped.isSome || g.halted || s.frozen.contains x.core

/-- Bytes of a group image of a launch (R412). -/
def LaunchRec.imageSize (r : LaunchRec) : Nat :=
  120832 + r.tiles + 16384 * r.accs + (if r.det then 6144 else 0)

/-- Bytes of a team's save slot (R412). -/
def LaunchRec.slotSize (r : LaunchRec) : Nat :=
  8192 + (r.scratch + 63) / 64 * 64 + r.groups * r.imageSize

/-- Grid teams of a launch (R69). -/
def LaunchRec.teams (r : LaunchRec) : Nat := r.gx * r.gy * r.gz

/-- The address of a team's save slot (R412). -/
def LaunchRec.saveSlot (r : LaunchRec) (k : TeamKey) : Word :=
  r.save + BitVec.ofNat 64 ((if k.origin then r.teams + k.index else k.index) * r.slotSize)

/-- The place of a team among the consecutive slots of its cluster team (R412). -/
def Team.savePos (t : Team) : Nat := if t.shape > 1 ∧ !t.key.origin then t.pos else 0

/-- Ask for a team save (R410): the team and its mates stop at their next unit boundaries and are saved by the event TEAM_SAVE, to their
save slots or to consecutive slots at a base. A `ctxsv` that names a team whose save has begun joins that save, at the address first given
(R411: DESIGN CHOICE, log 68). -/
def State.askSave (s : State) (k : TeamKey) (base : Option Word) : State :=
  match s.team? k, s.launch? k.uid with
  | some t, some l =>
    let size := l.record.slotSize
    (s.saveMates t).foldl (fun s x =>
      let at' := match base with
        | some b => b + BitVec.ofNat 64 (x.savePos * size)
        | none => l.record.saveSlot x.key
      s.modTeam x.key fun y =>
        if y.saving.isSome && !y.saveBad then y else { y with saving := some at', saveRec := none, saveBad := false }) s
  | _, _ => s

/-- A hard pre-emption of fragment `f` at `p` (R136): it leaves its wait, and the unit at `p` issues again after the restore, uncharged
where it had paid (DEDUCED, log 70); %lret and
%lcause as a landing writes them, INRES unchanged; the team is saved, for this group unless another save of it has begun (R410), and a supervisor
group's halts the partition (R440). In a clamp landing of a deterministic launch %lret
stays what the saved image needs (R389). -/
def State.hardPreempt (s : State) (core slot f : Nat) (cause : BitVec 2) (p : Word) : State :=
  let s := s.leaveWait core slot f
  match s.group? core slot with
  | none => s
  | some g =>
    let super := (s.launch? g.team.uid).elim false (·.super)
    let begun := (s.team? g.team).elim false fun t => t.saving.isSome && !t.saveBad
    let g1 := g.settle.modFrag f fun y => { y with pc := p, hints := [], paid := if p = y.pc then y.paid else none }
    let s1 := s.setGroup { g1 with
      landing := { g.landing with lret := if g.aside.isSome then g.landing.lret else p, cause := cause, frag := BitVec.ofNat 2 f }
      saving := g.saving || !begun, parkCut := none, groupHeld := none }
    if super then s1.haltPart g.part 5 else s1.askSave g.team none

/-- A landing of fragment `f` at unit address `p` (R134), or the hard path. -/
def State.takeLanding (s : State) (core slot f : Nat) (cause : BitVec 2) (p : Word) : State :=
  match s.group? core slot with
  | none => s
  | some g =>
    if g.landing.land = 0#64 ∨ g.landing.inres then s.hardPreempt core slot f cause p
    else
      let l := { g.landing with lret := p, cause := cause, frag := BitVec.ofNat 2 f, inres := true }
      let g1 := (g.settle.holdForLanding f).modFrag f fun y =>
        { y with pc := g.landing.land, state := .ready, hints := [], paid := none, wait := .none, fetchRec := none }
      let s1 := s.setGroup { g1 with landing := l, ibud := l.ires, mbud := l.mres, parkCut := none, groupHeld := none }
      s1.blackBox (dieOf core) 0x02#8 g.part [p.toNat, l.value.toNat, ((s.recordOf g).elim 0#32 (·.lid)).toNat,
        g.team.index, g.gidx]

/-- A landing ends (R135): INRES and CLAMPP become 0, and the fragments it held return to 001 unless a trap entry
holds them. -/
def Group.endLanding (g : Group) : Group :=
  let g1 : Group := { g with landing := { g.landing with inres := false, clampp := false } }
  g1.mapFrags fun _ (x : Frag) =>
    { x with heldLand := false, state := if x.state = FState.held ∧ x.heldTrap = none then .ready else x.state }

/-- A pending clamp meets the group at a unit boundary (R137). -/
def State.clampNow (s : State) (core slot : Nat) : State :=
  match s.group? core slot with
  | none => s
  | some g =>
    if g.landing.inres then
      s.setGroup { g with landing := { g.landing with clampp := true }, clampPend := false }
    else
      match g.nextFrag (s.isDet g) with
      | some f =>
        if (g.frag f).between then
          (s.setGroup { g with clampPend := false }).takeLanding core slot f 3#2 (g.frag f).pc
        else s
      | none =>
        match g.waitingFrag with
        | some f =>
          ((s.setGroup { g with clampPend := false }).leaveWait core slot f).takeLanding core slot f 3#2 (g.frag f).pc
        | none => s

/-- The topmost trap entry's position in the join stack. -/
def Group.topTrap (g : Group) : Option Nat :=
  ((List.range g.stack.length).reverse).find? fun i => (g.stack[i]?).elim false (·.isTrap)

/-- The checks of a control transfer's target (R112): ALIGN, then ADDR. -/
def badTarget (a : Word) : Option Cause :=
  if a.toNat % 4 ≠ 0 then some .align else if a.toNat / 2 ^ 55 ≠ 0 then some .addr else none

/-- The faults of a group's gate words are handled: it goes on, and none of its traps is pending. Their batches may complete (R173: DESIGN
CHOICE, log 42). -/
def Group.gateHandled (g : Group) : Group := if g.deferred = [] then { g with lost := [] } else g

/-- Return from an in-group trap (R119): the top entry must be a trap entry whose return PC passes R112. Answers the
cause it traps with, or the group after it. -/
def Group.returnFromTrap (g : Group) (f : Nat) : Except (Cause × Word) Group :=
  match g.stack.getLast? with
  | none => .error (.illegal, 0#64)
  | some e =>
    if !e.isTrap then .error (.illegal, 0#64)
    else
      match badTarget e.addr with
      | some c => .error (c, e.addr)
      | none =>
        let g1 := { g with stack := g.stack.dropLast }
        .ok ((g1.modFrag f fun x => { x with mask := e.mask, pc := e.addr, hints := [], paid := none }).releaseTrap g.traps).gateHandled

end Sys2Proof.Machine
end

