-- ==== Sys2Proof/Machine/Use.lean ====
section
/-! DEFINITION. Machine/Use.lean: what the opcode map fixes for every instruction word (R55 to R61): its charge, its
slot class, its fixed latency, the registers it reads and writes, the hint words it accepts (R50). -/

namespace Sys2Proof.Machine

/-- Which MOD fields an instruction accepts (R50). -/
inductive ModKind where
  | none | sat | fp | unary | cvt | cvtSr
  deriving DecidableEq, Repr

/-- A row of the opcode map. `lat` is the fixed latency of R52, 0 for class X and for words that write no register;
`cls` is the slot class, 0 for C, 1 for V, 2 for M; `imx` is how many IMX words the instruction accepts and `imx3` how
many low bits of the third may be set (R47); `fl` says that the word raises floating-point flags (R187), `br` lists the
buffer registers it reads, `xw` its class-X destinations that are no scalar or vector register. -/
structure Use where
  st     : BitVec 3 := 0#3
  pk     : BitVec 2 := 0#2
  charge : Nat := 1
  lat    : Nat := 0
  cls    : Nat := 0
  sr     : List (BitVec 6) := []
  vr     : List Nat := []
  kr     : List (BitVec 4) := []
  sw     : List (BitVec 6) := []
  vw     : List Nat := []
  kw     : List (BitVec 4) := []
  tr     : List Nat := []
  ar     : List Nat := []
  imx    : Nat := 0
  imx3   : Nat := 0
  md     : ModKind := .none
  atomic : Bool := false
  priv   : Bool := false
  gate   : Bool := false
  fl     : Bool := false
  br     : List (BitVec 4) := []
  xw     : List Reg := []
  deriving DecidableEq, Repr

/-- `n` vector registers from `d`. -/
def vs (d : BitVec 6) (n : Nat) : List Nat := (List.range n).map (d.toNat + ·)

/-- The B operand when it is a vector register (R41: S = 0). -/
def vecB (x : BitVec 1) (b : BitVec 6) : List Nat := if x = 0#1 then [b.toNat] else []

/-- The B operand when it is a scalar register (R41: S = 1). -/
def scaB (x : BitVec 1) (b : BitVec 6) : List (BitVec 6) := if x = 0#1 then [] else [b]

/-- The offset register of the M format; B = 0 names none (R44). -/
def vecO (b : BitVec 6) : List Nat := if b = 0#6 then [] else [b.toNat]

/-- The registers of a triple block (R61): five, ten for .z64. -/
def tripleRegs (t : BitVec 2) : Nat := if t = 2#2 then 10 else 5

/-- The registers of a share (R319): one, a pair for .z64. -/
def shareRegs (t : BitVec 2) : Nat := if t = 2#2 then 2 else 1

/-- The row of the opcode map for an instruction word; `cas` says that its atomic control word asks for cas (R65). -/
def useOf (cas : Bool) : Instr → Use
  | .add st pk d a b => { sr := [a, b], sw := [d], lat := 2, st := st, pk := pk }
  | .sub st pk d a b => { sr := [a, b], sw := [d], lat := 2, st := st, pk := pk }
  | .mul st pk d a b => { sr := [a, b], sw := [d], st := st, pk := pk }
  | .mulh st pk d a b => { sr := [a, b], sw := [d], st := st, pk := pk }
  | .mulhn st pk d a b => { sr := [a, b], sw := [d], st := st, pk := pk }
  | .div st pk d a b => { sr := [a, b], sw := [d], charge := 4, st := st, pk := pk }
  | .divn st pk d a b => { sr := [a, b], sw := [d], charge := 4, st := st, pk := pk }
  | .rem st pk d a b => { sr := [a, b], sw := [d], charge := 4, st := st, pk := pk }
  | .remn st pk d a b => { sr := [a, b], sw := [d], charge := 4, st := st, pk := pk }
  | .and st pk d a b => { sr := [a, b], sw := [d], lat := 2, st := st, pk := pk }
  | .or st pk d a b => { sr := [a, b], sw := [d], lat := 2, st := st, pk := pk }
  | .xor st pk d a b => { sr := [a, b], sw := [d], lat := 2, st := st, pk := pk }
  | .andn st pk d a b => { sr := [a, b], sw := [d], lat := 2, st := st, pk := pk }
  | .shl st pk d a b => { sr := [a, b], sw := [d], lat := 2, st := st, pk := pk }
  | .shr st pk d a b => { sr := [a, b], sw := [d], lat := 2, st := st, pk := pk }
  | .sra st pk d a b => { sr := [a, b], sw := [d], lat := 2, st := st, pk := pk }
  | .clz st pk d a => { sr := [a], sw := [d], lat := 2, st := st, pk := pk }
  | .popc st pk d a => { sr := [a], sw := [d], lat := 2, st := st, pk := pk }
  | .min st pk d a b => { sr := [a, b], sw := [d], lat := 2, st := st, pk := pk }
  | .minn st pk d a b => { sr := [a, b], sw := [d], lat := 2, st := st, pk := pk }
  | .max st pk d a b => { sr := [a, b], sw := [d], lat := 2, st := st, pk := pk }
  | .maxn st pk d a b => { sr := [a, b], sw := [d], lat := 2, st := st, pk := pk }
  | .sel st pk d a b => { sr := [a, b, d], sw := [d], lat := 2, st := st, pk := pk }
  | .mov st pk d a => { sr := [a], sw := [d], lat := 2, st := st, pk := pk }
  | .cmpeq st pk d a b => { sr := [a, b], sw := [d], lat := 2, st := st, pk := pk }
  | .cmpne st pk d a b => { sr := [a, b], sw := [d], lat := 2, st := st, pk := pk }
  | .cmplt st pk d a b => { sr := [a, b], sw := [d], lat := 2, st := st, pk := pk }
  | .cmpltn st pk d a b => { sr := [a, b], sw := [d], lat := 2, st := st, pk := pk }
  | .cmple st pk d a b => { sr := [a, b], sw := [d], lat := 2, st := st, pk := pk }
  | .cmplen st pk d a b => { sr := [a, b], sw := [d], lat := 2, st := st, pk := pk }
  | .addi st pk d a _ => { sr := [a], sw := [d], lat := 2, imx := 3, imx3 := 12, st := st, pk := pk }
  | .andi st pk d a _ => { sr := [a], sw := [d], lat := 2, imx := 3, imx3 := 12, st := st, pk := pk }
  | .ori st pk d a _ => { sr := [a], sw := [d], lat := 2, imx := 3, imx3 := 12, st := st, pk := pk }
  | .xori st pk d a _ => { sr := [a], sw := [d], lat := 2, imx := 3, imx3 := 12, st := st, pk := pk }
  | .shli st pk d a _ => { sr := [a], sw := [d], lat := 2, st := st, pk := pk }
  | .shri st pk d a _ => { sr := [a], sw := [d], lat := 2, st := st, pk := pk }
  | .srai st pk d a _ => { sr := [a], sw := [d], lat := 2, st := st, pk := pk }
  | .movi st pk d _ => { sw := [d], lat := 2, imx := 3, imx3 := 12, st := st, pk := pk }
  | .bra st _ => { imx := 3, imx3 := 6, st := st }
  | .bz st a _ => { sr := [a], imx := 3, imx3 := 6, st := st }
  | .bnz st a _ => { sr := [a], imx := 3, imx3 := 6, st := st }
  | .call st _ => { sw := [63#6], lat := 2, imx := 3, imx3 := 6, st := st }
  | .jmp st a => { sr := [a], st := st }
  | .ret st => { sr := [63#6], st := st }
  | .split st d a b => { sr := [b], kr := [a], sw := [d], st := st }
  | .join st => { st := st }
  | .exit st => { st := st }
  | .nop st => { st := st }
  | .brk st => { st := st }
  | .trap st _ => { st := st }
  | .rft st => { st := st }
  | .gets st d _ => { sw := [d], st := st }
  | .sets st _ a => { sr := [a], st := st }
  | .setsGinj st a => { sr := [a], st := st }
  | .setsLcause st a => { sr := [a], st := st }
  | .rfgive st a => { sr := [a], st := st }
  | .rfclaim st d a => { sr := [a], sw := [d], st := st }
  | .land st _ => { imx := 3, imx3 := 6, st := st }
  | .resume st => { st := st }
  | .yield st a => { sr := [a], st := st }
  | .topup st d a b => { sr := [a, b], sw := [d], st := st }
  | .vadd st pk d a b _ x => { vr := [a.toNat] ++ vecB x b, sr := scaB x b, cls := 1, vw := [d.toNat], lat := 4, md := .sat, st := st, pk := pk }
  | .vsub st pk d a b _ x => { vr := [a.toNat] ++ vecB x b, sr := scaB x b, cls := 1, vw := [d.toNat], lat := 4, md := .sat, st := st, pk := pk }
  | .vaddc st pk d a b x => { vr := [a.toNat] ++ vecB x b, sr := scaB x b, cls := 1, vw := [d.toNat], kr := [15#4], kw := [15#4], lat := 4, st := st, pk := pk }
  | .vsubc st pk d a b x => { vr := [a.toNat] ++ vecB x b, sr := scaB x b, cls := 1, vw := [d.toNat], kr := [15#4], kw := [15#4], lat := 4, st := st, pk := pk }
  | .vmul st pk d a b x => { vr := [a.toNat] ++ vecB x b, sr := scaB x b, cls := 1, vw := [d.toNat], lat := 4, md := .sat, st := st, pk := pk }
  | .vmad st pk d a b x => { vr := [a.toNat] ++ vecB x b ++ [d.toNat], sr := scaB x b, cls := 1, vw := [d.toNat], lat := 4, md := .sat, st := st, pk := pk }
  | .vmulh st pk d a b x => { vr := [a.toNat] ++ vecB x b, sr := scaB x b, cls := 1, vw := [d.toNat], lat := 4, st := st, pk := pk }
  | .vmulhn st pk d a b x => { vr := [a.toNat] ++ vecB x b, sr := scaB x b, cls := 1, vw := [d.toNat], lat := 4, st := st, pk := pk }
  | .vand st pk d a b x => { vr := [a.toNat] ++ vecB x b, sr := scaB x b, cls := 1, vw := [d.toNat], lat := 4, st := st, pk := pk }
  | .vor st pk d a b x => { vr := [a.toNat] ++ vecB x b, sr := scaB x b, cls := 1, vw := [d.toNat], lat := 4, st := st, pk := pk }
  | .vxor st pk d a b x => { vr := [a.toNat] ++ vecB x b, sr := scaB x b, cls := 1, vw := [d.toNat], lat := 4, st := st, pk := pk }
  | .vandn st pk d a b x => { vr := [a.toNat] ++ vecB x b, sr := scaB x b, cls := 1, vw := [d.toNat], lat := 4, st := st, pk := pk }
  | .vshl st pk d a b x => { vr := [a.toNat] ++ vecB x b, sr := scaB x b, cls := 1, vw := [d.toNat], lat := 4, st := st, pk := pk }
  | .vshr st pk d a b x => { vr := [a.toNat] ++ vecB x b, sr := scaB x b, cls := 1, vw := [d.toNat], lat := 4, st := st, pk := pk }
  | .vsra st pk d a b x => { vr := [a.toNat] ++ vecB x b, sr := scaB x b, cls := 1, vw := [d.toNat], lat := 4, st := st, pk := pk }
  | .vsel st pk d a b x => { vr := [a.toNat] ++ vecB x b, sr := scaB x b, cls := 1, vw := [d.toNat], lat := 4, st := st, kr := if pk == 0#2 then [] else [pk.setWidth 4] }
  | .vmin st pk d a b x => { vr := [a.toNat] ++ vecB x b, sr := scaB x b, cls := 1, vw := [d.toNat], lat := 4, st := st, pk := pk }
  | .vminn st pk d a b x => { vr := [a.toNat] ++ vecB x b, sr := scaB x b, cls := 1, vw := [d.toNat], lat := 4, st := st, pk := pk }
  | .vmax st pk d a b x => { vr := [a.toNat] ++ vecB x b, sr := scaB x b, cls := 1, vw := [d.toNat], lat := 4, st := st, pk := pk }
  | .vmaxn st pk d a b x => { vr := [a.toNat] ++ vecB x b, sr := scaB x b, cls := 1, vw := [d.toNat], lat := 4, st := st, pk := pk }
  | .vcmp st pk _ d a b x => { vr := [a.toNat] ++ vecB x b, sr := scaB x b, cls := 1, kw := [d], lat := 4, st := st, pk := pk }
  | .vabs st pk d a => { vr := [a.toNat], vw := [d.toNat], lat := 4, cls := 1, st := st, pk := pk }
  | .vclz st pk d a => { vr := [a.toNat], vw := [d.toNat], lat := 4, cls := 1, st := st, pk := pk }
  | .vpopc st pk d a => { vr := [a.toNat], vw := [d.toNat], lat := 4, cls := 1, st := st, pk := pk }
  | .vmovV st pk d a => { vr := [a.toNat], vw := [d.toNat], lat := 4, cls := 1, st := st, pk := pk }
  | .vmovS st pk d a => { sr := [a], vw := [d.toNat], lat := 4, cls := 1, st := st, pk := pk }
  | .vidx st pk d => { vw := [d.toNat], lat := 4, cls := 1, st := st, pk := pk }
  | .vaddi st pk d a _ => { vr := [a.toNat], vw := [d.toNat], lat := 4, cls := 1, imx := 3, imx3 := 12, md := .sat, st := st, pk := pk }
  | .vandi st pk d a _ => { vr := [a.toNat], vw := [d.toNat], lat := 4, cls := 1, imx := 3, imx3 := 12, st := st, pk := pk }
  | .vshli st pk d a _ => { vr := [a.toNat], vw := [d.toNat], lat := 4, cls := 1, st := st, pk := pk }
  | .vshri st pk d a _ => { vr := [a.toNat], vw := [d.toNat], lat := 4, cls := 1, st := st, pk := pk }
  | .vsrai st pk d a _ => { vr := [a.toNat], vw := [d.toNat], lat := 4, cls := 1, st := st, pk := pk }
  | .vmovs st d a b => { vr := [a.toNat], sr := [b], sw := [d], lat := 6, cls := 1, st := st }
  | .vbcast st pk d a b => { vr := [a.toNat], sr := [b], vw := [d.toNat], lat := 6, cls := 1, st := st, pk := pk }
  | .vperm st pk d a b x => { vr := [a.toNat] ++ vecB x b, sr := scaB x b, cls := 1, vw := [d.toNat], lat := 6, st := st, pk := pk }
  | .vshflXor st pk d a b x => { vr := [a.toNat] ++ vecB x b, sr := scaB x b, cls := 1, vw := [d.toNat], lat := 6, st := st, pk := pk }
  | .vshflRot st pk d a b x => { vr := [a.toNat] ++ vecB x b, sr := scaB x b, cls := 1, vw := [d.toNat], lat := 6, st := st, pk := pk }
  | .vred st pk d a c => { fl := c == 1#6 || c == 6#6 || c == 7#6, vr := [a.toNat], sw := [d], cls := 1, st := st, pk := pk }
  | .fadd st pk d a b x => { fl := true, vr := [a.toNat] ++ vecB x b, sr := scaB x b, cls := 1, vw := [d.toNat], lat := 6, md := .fp, st := st, pk := pk }
  | .fsub st pk d a b x => { fl := true, vr := [a.toNat] ++ vecB x b, sr := scaB x b, cls := 1, vw := [d.toNat], lat := 6, md := .fp, st := st, pk := pk }
  | .fmul st pk d a b x => { fl := true, vr := [a.toNat] ++ vecB x b, sr := scaB x b, cls := 1, vw := [d.toNat], lat := 6, md := .fp, st := st, pk := pk }
  | .fdiv st pk d a b x => { fl := true, vr := [a.toNat] ++ vecB x b, sr := scaB x b, cls := 1, vw := [d.toNat], md := .fp, charge := 2, st := st, pk := pk }
  | .ffma st pk d a b x => { fl := true, vr := [a.toNat] ++ vecB x b ++ [d.toNat], sr := scaB x b, cls := 1, vw := [d.toNat], lat := 6, md := .fp, st := st, pk := pk }
  | .ffms st pk d a b x => { fl := true, vr := [a.toNat] ++ vecB x b ++ [d.toNat], sr := scaB x b, cls := 1, vw := [d.toNat], lat := 6, md := .fp, st := st, pk := pk }
  | .fmin st pk d a b x => { fl := true, vr := [a.toNat] ++ vecB x b, sr := scaB x b, cls := 1, vw := [d.toNat], lat := 6, md := .fp, st := st, pk := pk }
  | .fmax st pk d a b x => { fl := true, vr := [a.toNat] ++ vecB x b, sr := scaB x b, cls := 1, vw := [d.toNat], lat := 6, md := .fp, st := st, pk := pk }
  | .fcmp st pk _ d a b x => { fl := true, vr := [a.toNat] ++ vecB x b, sr := scaB x b, cls := 1, kw := [d], lat := 6, st := st, pk := pk }
  | .frcp st pk d a => { fl := true, vr := [a.toNat], vw := [d.toNat], cls := 1, md := .unary, charge := 2, st := st, pk := pk }
  | .frsq st pk d a => { fl := true, vr := [a.toNat], vw := [d.toNat], cls := 1, md := .unary, charge := 2, st := st, pk := pk }
  | .fsqrt st pk d a => { fl := true, vr := [a.toNat], vw := [d.toNat], cls := 1, md := .unary, charge := 2, st := st, pk := pk }
  | .fexp2 st pk d a => { fl := true, vr := [a.toNat], vw := [d.toNat], cls := 1, md := .unary, charge := 2, st := st, pk := pk }
  | .flog2 st pk d a => { fl := true, vr := [a.toNat], vw := [d.toNat], cls := 1, md := .unary, charge := 2, st := st, pk := pk }
  | .fsin st pk d a => { fl := true, vr := [a.toNat], vw := [d.toNat], cls := 1, md := .unary, charge := 2, st := st, pk := pk }
  | .fcos st pk d a => { fl := true, vr := [a.toNat], vw := [d.toNat], cls := 1, md := .unary, charge := 2, st := st, pk := pk }
  | .fclass st pk d a => { fl := true, vr := [a.toNat], vw := [d.toNat], cls := 1, lat := 6, st := st, pk := pk }
  | .frnd st pk d a => { fl := true, vr := [a.toNat], vw := [d.toNat], cls := 1, lat := 6, md := .unary, st := st, pk := pk }
  | .rand st pk d => { vw := [d.toNat], cls := 1, charge := 2, st := st, pk := pk }
  | .hadd2 st pk d a b _ => { fl := true, vr := [a.toNat, b.toNat], vw := [d.toNat], cls := 1, lat := 6, md := .fp, st := st, pk := pk }
  | .hmul2 st pk d a b _ => { fl := true, vr := [a.toNat, b.toNat], vw := [d.toNat], cls := 1, lat := 6, md := .fp, st := st, pk := pk }
  | .hfma2 st pk d a b _ x => { fl := true, vr := [a.toNat] ++ vecB x b ++ [d.toNat], sr := scaB x b, cls := 1, vw := [d.toNat], lat := 6, md := .fp, st := st, pk := pk }
  | .cvt st pk d a _ _ => { fl := true, vr := [a.toNat], vw := [d.toNat], cls := 1, lat := 6, md := .cvt, st := st, pk := pk }
  | .cvtSr st pk d a _ _ => { fl := true, vr := [a.toNat, d.toNat], vw := [d.toNat], cls := 1, lat := 6, md := .cvtSr, st := st, pk := pk }
  | .kand st d a b => { kr := [a, b], kw := [d], lat := 2, cls := 1, st := st }
  | .kor st d a b => { kr := [a, b], kw := [d], lat := 2, cls := 1, st := st }
  | .kxor st d a b => { kr := [a, b], kw := [d], lat := 2, cls := 1, st := st }
  | .kandn st d a b => { kr := [a, b], kw := [d], lat := 2, cls := 1, st := st }
  | .knot st d a => { kr := [a], kw := [d], lat := 2, cls := 1, st := st }
  | .kmovK st d a => { kr := [a], kw := [d], lat := 2, cls := 1, st := st }
  | .kmovS st d a => { sr := [a], kw := [d], lat := 2, cls := 1, st := st }
  | .kget st d a => { kr := [a], sw := [d], lat := 2, cls := 1, st := st }
  | .kpopc st d a => { kr := [a], sw := [d], lat := 2, cls := 1, st := st }
  | .kffs st d a => { kr := [a], sw := [d], lat := 2, cls := 1, st := st }
  | .ldv st pk d a b z => { sr := [a], vr := vecO b, vw := vs d (if z == 3#2 then 2 else 1), cls := 2, imx := 3, imx3 := 20, st := st, pk := pk }
  | .stv st pk d a b z => { sr := [a], vr := vecO b ++ vs d (if z == 3#2 then 2 else 1), cls := 2, imx := 3, imx3 := 20, st := st, pk := pk }
  | .ldx st pk d a _ => { sr := [a], sw := [d], cls := 2, imx := 3, imx3 := 20, st := st, pk := pk }
  | .stx st pk d a _ => { sr := [a, d], cls := 2, imx := 3, imx3 := 20, st := st, pk := pk }
  | .lds st pk d a b z => { sr := [a], vr := vecO b, vw := vs d (if z == 3#2 then 2 else 1), cls := 2, imx := 3, imx3 := 20, st := st, pk := pk }
  | .sts st pk d a b z => { sr := [a], vr := vecO b ++ vs d (if z == 3#2 then 2 else 1), cls := 2, imx := 3, imx3 := 20, st := st, pk := pk }
  | .ldp st pk d a b _ => { sr := [a], vr := vecO b, vw := [d.toNat], cls := 2, imx := 3, imx3 := 20, st := st, pk := pk }
  | .stp st pk d a b _ => { sr := [a], vr := vecO b ++ [d.toNat], cls := 2, imx := 3, imx3 := 20, st := st, pk := pk }
  | .ldb st pk d a b z => { br := [a], vr := vecO b, vw := vs d (if z == 3#2 then 2 else 1), cls := 2, imx := 3, imx3 := 20, st := st, pk := pk }
  | .stb st pk d a b z => { br := [a], vr := vecO b ++ vs d (if z == 3#2 then 2 else 1), cls := 2, imx := 3, imx3 := 20, st := st, pk := pk }
  | .ldacq st pk d a _ _ => { sr := [a], sw := [d], cls := 2, imx := 3, imx3 := 20, st := st, pk := pk }
  | .strel st pk d a _ _ => { sr := [a, d], cls := 2, imx := 3, imx3 := 20, st := st, pk := pk }
  | .atom st pk d a b z => { sr := [a], vr := vecO b ++ vs d ((if cas then 2 else 1) * (if z == 1#1 then 2 else 1)), vw := vs d (if z == 1#1 then 2 else 1), atomic := true, cls := 2, imx := 1, imx3 := 0, charge := 2, st := st, pk := pk }
  | .atoms st pk d a _ => { sr := if cas then [a, d, d + 1#6] else [a, d], sw := [d], atomic := true, cls := 2, imx := 1, imx3 := 0, charge := 2, st := st, pk := pk }
  | .red st pk d a b z => { sr := [a], vr := vecO b ++ vs d (if z == 1#1 then 2 else 1), atomic := true, cls := 2, imx := 1, imx3 := 0, charge := 2, st := st, pk := pk }
  | .fence st _ => { cls := 2, imx := 3, imx3 := 20, st := st }
  | .tagld st pk d a => { sr := [a], sw := [d], cls := 2, imx := 3, imx3 := 20, st := st, pk := pk }
  | .tagst st pk d a => { sr := [a, d], cls := 2, imx := 3, imx3 := 20, st := st, pk := pk }
  | .pref st pk a b => { sr := [a], vr := vecO b, cls := 2, imx := 3, imx3 := 20, st := st, pk := pk }
  | .bdset st d a b => { sr := [a, b], br := [d], xw := [.b d], cls := 2, st := st }
  | .bdgetLo st d a => { sw := [d], br := [a], cls := 2, st := st }
  | .bdgetHi st d a => { sw := [d], br := [a], cls := 2, st := st }
  | .cpyFromGlobal st d a b _ => { sr := [a, b, d], cls := 2, charge := 2, st := st }
  | .cpyFromScratchpad st d a b _ => { sr := [a, b, d], cls := 2, charge := 2, st := st }
  | .cpyFromPeer st d a b _ => { sr := [a, b, d], cls := 2, charge := 2, st := st }
  | .cpyt st d a _ => { sr := [a, d], cls := 2, charge := 2, st := st }
  | .cpyk st d a _ => { sr := [a, d], cls := 2, charge := 2, st := st }
  | .cpym st d a b => { sr := [a, b, d], cls := 2, charge := 2, st := st }
  | .ebind st _ a b => { sr := [a, b], st := st }
  | .ebindPers st _ a b => { sr := [a, b], st := st }
  | .eunbind st _ => { st := st }
  | .wany st => { st := st }
  | .mpost st d a b => { sr := [a, b], sw := [d], st := st }
  | .pegget st d a => { sr := [a], sw := [d], st := st }
  | .pegref st a => { sr := [a], st := st }
  | .pegput st a => { sr := [a], st := st }
  | .pegarr st a b => { sr := [a, b], st := st }
  | .pegwait st a b => { sr := [a, b], st := st }
  | .seal st d a b _ => { sr := [a, b, d], st := st }
  | .waitb st _ _ => { st := st }
  | .tld st d a b => { xw := [.t d], sr := [a, b], tr := [d.toNat], cls := 2, st := st }
  | .tzero st d => { xw := [.t d], tr := [d.toNat], cls := 2, st := st }
  | .mma st pk _ d a b => { ar := [d.toNat], tr := [a.toNat, b.toNat], cls := 2, charge := 4, st := st, pk := pk }
  | .mmaq st pk _ d q a b _ => { ar := [d.toNat], tr := [a.toNat, b.toNat], sr := [q], cls := 2, charge := 8, st := st, pk := pk }
  | .accz st pk d => { xw := [.acc d], ar := [d.toNat], cls := 2, st := st, pk := pk }
  | .accrd st pk d a b => { ar := [a.toNat], sr := [b], vw := [d.toNat], cls := 2, st := st, pk := pk }
  | .accwr st pk d a b => { xw := [.acc d], ar := [d.toNat], vr := [a.toNat], sr := [b], cls := 2, st := st, pk := pk }
  | .gsess st d a => { sr := [a], sw := [d], priv := true, cls := 2, charge := 4, gate := true, st := st }
  | .gtrip st d t => { vw := vs d (tripleRegs t), cls := 2, charge := 4, gate := true, st := st }
  | .gmask st d a b t => { vr := vs a (shareRegs t) ++ vs b (shareRegs t) ++ vs d (2 * shareRegs t), vw := vs d (tripleRegs t), cls := 2, charge := 4, gate := true, st := st }
  | .gopen st d t => { vr := (List.range (2 * shareRegs t)).map (d.toNat + 3 * shareRegs t + ·), vw := vs d (tripleRegs t), cls := 2, charge := 4, gate := true, st := st }
  | .gfin st d a t => { vr := vs a (tripleRegs t), vw := vs d (shareRegs t), cls := 2, charge := 4, gate := true, st := st }
  | .gtrunc st d a _ => { vr := [a.toNat], vw := [d.toNat], cls := 2, charge := 4, gate := true, st := st }
  | .gmsb st d a => { vr := [a.toNat], vw := [d.toNat], cls := 2, charge := 4, gate := true, st := st }
  | .gb2a st d a => { vr := [a.toNat], vw := [d.toNat], cls := 2, charge := 4, gate := true, st := st }
  | .greveal st d a => { vr := [a.toNat], vw := [d.toNat], cls := 2, charge := 4, gate := true, st := st }
  | .gtript st d => { tr := (List.range 5).map (d.toNat + ·), cls := 2, charge := 4, gate := true, st := st }
  | .gmaskt st d a b => { xw := [.t (d + 3#3), .t (d + 4#3)], tr := (List.range 5).map (d.toNat + ·) ++ [a.toNat, b.toNat], cls := 2, charge := 4, gate := true, st := st }
  | .gopent st d => { tr := (List.range 5).map (d.toNat + ·), cls := 2, charge := 4, gate := true, st := st }
  | .launch st d a => { sr := [a], sw := [d], cls := 2, charge := 4, st := st }
  | .emit st d a => { sr := [a], sw := [d], cls := 2, charge := 2, st := st }
  | .spawn st d a b => { sr := [a, b], sw := [d], cls := 2, charge := 2, st := st }
  | .tlbdrain st a => { sr := [a], cls := 2, charge := 2, priv := true, st := st }
  | .tlbconf st d a => { sr := [a], sw := [d], cls := 2, charge := 2, priv := true, st := st }
  | .ctxsv st a b => { sr := [a, b], cls := 2, charge := 2, priv := true, st := st }
  | .ctxld st a b => { sr := [a, b], cls := 2, charge := 2, priv := true, st := st }
  | .imx _ => {  }
  | .mod _ _ _ _ _ _ _ _ => {  }
  | .sch _ _ _ => {  }
  | .sliceTimerExpiry .. => {}
  | .clamp .. => {}
  | .preemptionDeadline .. => {}
  | .issueAgeingPromotion .. => {}
  | .loadResponse .. => {}
  | .atomicResponse .. => {}
  | .storeAck .. => {}
  | .sliceMergeStep .. => {}
  | .sliceAtomic .. => {}
  | .sliceTagst .. => {}
  | .peerAccess .. => {}
  | .operandLogReplay .. => {}
  | .hamperReplay .. => {}
  | .deferredTrapDelivery .. => {}
  | .trapQueueHeadWrite .. => {}
  | .eventTimerExpiry .. => {}
  | .wanyDelivery .. => {}
  | .batchComplete .. => {}
  | .streamerPiece .. => {}
  | .matrixOpStart .. => {}
  | .matrixOperandsConsumed .. => {}
  | .matrixOpComplete .. => {}
  | .matrixWatchdog .. => {}
  | .matrixEngineError .. => {}
  | .matrixResetEnd .. => {}
  | .gateDrawPerformed .. => {}
  | .gateCrossingAccept .. => {}
  | .gateCrossingArrive .. => {}
  | .gatePairAbort .. => {}
  | .gateAbortNotice .. => {}
  | .groupEnd .. => {}
  | .qtailWrite .. => {}
  | .qctlEnWrite .. => {}
  | .qctlErrClear .. => {}
  | .launchRecordAccept .. => {}
  | .launchStart .. => {}
  | .teamPlacement .. => {}
  | .placementWaitLimit .. => {}
  | .nurseryIdleFlush .. => {}
  | .quiescenceSample .. => {}
  | .quantumEnd .. => {}
  | .commitPhase .. => {}
  | .teamSave .. => {}
  | .debuggerHalt .. => {}
  | .poolUncorrectableError .. => {}
  | .sliceUncorrectableError .. => {}
  | .coreSelfCheckError .. => {}
  | .coreIssueWatchdog .. => {}
  | .migrationComplete .. => {}
  | .tlbconfComplete .. => {}
  | .hostBar2Read .. => {}
  | .hostBar2Write .. => {}
  | .herrClear .. => {}
  | .registerWrite .. => {}
  | .peerWindowAccess .. => {}
  | .create .. => {}
  | .start .. => {}
  | .halt .. => {}
  | .destroy .. => {}
  | .slice .. => {}
  | .supervisor .. => {}
  | .attest .. => {}
  | .getcert .. => {}
  | .bbread .. => {}
  | .freeze .. => {}
  | .readout .. => {}
  | .powercap .. => {}
  | .flash .. => {}
  | .freezeN .. => {}
  | .resetRelease .. => {}
  | .powerOn .. => {}
  | .linkBeatError .. => {}
  | .linkAudit .. => {}
  | .linkRetrainComplete .. => {}
  | .routerSelfCheckError .. => {}
  | .routerStallTimeout .. => {}
  | .routerFenceComplete .. => {}
  | .cxlPortDown .. => {}
  | .powerCapExceeded .. => {}
  | .thermalTrip .. => {}
  | .correctableError .. => {}
  | .withheldIssueCauseClears .. => {}
  | .debuggerHaltEnd .. => {}
  | .freezeNRelease .. => {}

end Sys2Proof.Machine
end

