-- ==== Sys2Proof/Machine/Operands.lean ====
section
/-! DEFINITION. Machine/Operands.lean: hint words and the values they give (R45 to R50), the checks of a unit (R68),
operands as a word reads them (R43, R51 to R54), and the issue of a word: its charge (R131), its effect, its traps. -/

namespace Sys2Proof.Machine

/-- Whether an instruction is a hint word (R45). -/
def Instr.isHint : Instr → Bool
  | .imx _ => true
  | .mod .. => true
  | .sch .. => true
  | _ => false

/-- The payloads of the IMX words of a prefix, in order (R46). -/
def imxOf (hs : List Instr) : List Nat :=
  hs.filterMap fun h => match h with
    | .imx p => some p.toNat
    | _ => none

/-- The fields of a MOD word (R48). -/
structure ModWord where
  rm : Nat
  scale : Int
  absB : Bool
  absA : Bool
  negB : Bool
  negA : Bool
  clamp : Bool
  sat : Bool
  deriving DecidableEq, Repr

/-- No MOD word. -/
def ModWord.zero : ModWord := ⟨0, 0, false, false, false, false, false, false⟩

/-- The MOD word of a prefix. -/
def modOf (hs : List Instr) : ModWord :=
  (hs.findSome? fun h => match h with
    | .mod m k u v w x y z =>
      some ⟨m.toNat, k.toInt, u == 1#1, v == 1#1, w == 1#1, x == 1#1, y == 1#1, z == 1#1⟩
    | _ => none).getD .zero

/-- SCH.YLD of a prefix (R49). -/
def yldOf (hs : List Instr) : Bool :=
  hs.any fun h => match h with
    | .sch _ _ y => y == 1#1
    | _ => false

/-- Sign-extend the low `w` bits of a number to 64 bits. -/
def sext64 (w x : Nat) : Word := (BitVec.ofNat w x).signExtend 64

/-- The immediate of an I-format word (R47). -/
def immI (hs : List Instr) (i : BitVec 8) : Word :=
  match imxOf hs with
  | [] => i.signExtend 64
  | [a] => sext64 30 (i.toNat + a * 2 ^ 8)
  | [a, b] => sext64 52 (i.toNat + a * 2 ^ 8 + b * 2 ^ 30)
  | a :: b :: c :: _ => BitVec.ofNat 64 (i.toNat + a * 2 ^ 8 + b * 2 ^ 30 + c % 2 ^ 12 * 2 ^ 52)

/-- The offset of a B-format word, in words (R47). -/
def immB (hs : List Instr) (o : BitVec 14) : Word :=
  match imxOf hs with
  | [] => o.signExtend 64
  | [a] => sext64 36 (o.toNat + a * 2 ^ 14)
  | [a, b] => sext64 58 (o.toNat + a * 2 ^ 14 + b * 2 ^ 36)
  | a :: b :: c :: _ => BitVec.ofNat 64 (o.toNat + a * 2 ^ 14 + b * 2 ^ 36 + c % 2 ^ 6 * 2 ^ 58)

/-- The displacement of an M-format word (R47). -/
def immM (hs : List Instr) : Word :=
  match imxOf hs with
  | [] => 0#64
  | [a] => sext64 22 a
  | [a, b] => sext64 44 (a + b * 2 ^ 22)
  | a :: b :: c :: _ => BitVec.ofNat 64 (a + b * 2 ^ 22 + c % 2 ^ 20 * 2 ^ 44)

/-- The atomic control word (R65): operation, order, scope; without an IMX word add, relaxed, .dev. -/
structure AtomCtl where
  op    : Nat
  order : Nat
  scope : Nat
  deriving DecidableEq, Repr

/-- The atomic control word of a prefix (R65). -/
def atomCtl (hs : List Instr) : AtomCtl :=
  match imxOf hs with
  | [] => ⟨0, 0, 4⟩
  | a :: _ => ⟨a % 16, a / 16 % 4, a / 64 % 8⟩

/-- The atomic control word a prefix gives is one the instruction does not allow (R65). -/
def atomBad (i : Instr) (p : Nat) : Bool :=
  let op := p % 16
  let order := p / 16 % 4
  p / 512 != 0 || p / 64 % 8 > 5 || op > 10 ||
  match i with
  | .atom _ _ d _ _ z =>
    (op == 10 && z == 1#1) || (op == 9 && (if z == 1#1 then d.toNat > 60 else d.toNat > 62))
  | .atoms _ _ d _ z => (op == 10 && z == 1#1) || (op == 9 && d.toNat > 62)
  | .red _ _ _ _ _ z => (op == 10 && z == 1#1) || op == 8 || op == 9 || !(order == 0 || order == 2)
  | _ => false

/-- A MOD word has only fields that the instruction accepts (R50). -/
def modAccepted (k : ModKind) (m : ModWord) : Bool :=
  match k with
  | .none => false
  | .sat => m.rm == 0 && m.scale == 0 && !m.absB && !m.absA && !m.negB && !m.negA && !m.clamp
  | .fp => !m.sat
  | .unary => !m.sat && !m.absB && !m.negB
  | .cvt => !m.sat && !m.absB && !m.negB && !m.clamp
  | .cvtSr => !m.sat && !m.absB && !m.negB && !m.clamp && m.rm == 0

/-- The first hint word of a prefix that breaks R46, R47, R48 or R50, its position counted from 0. (DEDUCED, log 19) -/
def hintBad (i : Instr) (u : Use) : Nat → Nat → Nat → Nat → List Instr → Option Nat
  | _, _, _, _, [] => none
  | n, im, md, sc, h :: r =>
    match h with
    | .imx p =>
      if im ≥ u.imx then some n
      else if im = 2 ∧ p.toNat / 2 ^ u.imx3 ≠ 0 then some n
      else if u.atomic ∧ atomBad i p.toNat then some n
      else hintBad i u (n + 1) (im + 1) md sc r
    | .mod m k a b c d e f =>
      if md ≥ 1 then some n
      else if !modAccepted u.md (modOf [.mod m k a b c d e f]) then some n
      else hintBad i u (n + 1) im (md + 1) sc r
    | .sch .. => if sc ≥ 1 then some n else hintBad i u (n + 1) im md (sc + 1) r
    | _ => some n

/-- A number of a special register is one of the gate's (R56). -/
def gateSpecial (n : BitVec 6) : Bool := n == 0x30#6 || n == 0x31#6 || n == 0x32#6

/-- The special register that an instruction accesses, and whether it writes it. -/
def specialOf : Instr → Option (BitVec 6 × Bool)
  | .gets _ _ n => some (n, false)
  | .sets _ n _ => some (n, true)
  | .setsGinj .. => some (0x32#6, true)
  | .setsLcause .. => some (0x0C#6, true)
  | _ => none

/-- The registers a user-mode `sets` must not name (R89). -/
def supervisorOnly (n : BitVec 6) : Bool :=
  n == 0x08#6 || n == 0x09#6 || n == 0x0C#6 || n == 0x0D#6 || n == 0x0E#6 || n == 0x10#6 || n == 0x12#6 ||
  (0x16 ≤ n.toNat && n.toNat ≤ 0x19) || n == 0x38#6

/-- An access that traps PRIV (R68 check 3, R89, R90). -/
def privBad (g : Group) (inj : Bool) (i : Instr) (u : Use) : Bool :=
  !g.privl && (u.priv ||
    match specialOf i with
    | some (n, w) => (n == 0x32#6 && !inj) || (w && supervisorOnly n)
    | none => false)

/-- The instruction word of a unit, zero-extended, as an address field holds it (R68). -/
def wordOf (i : Instr) : Word := ((encode i).getD 0#32).setWidth 64

/-- Tile registers of a launch's groups (R76). -/
def tilesOf (r : Option LaunchRec) : Nat := r.elim 0 (·.tiles / 16384)

/-- Accumulators of a launch's groups (R76). -/
def accsOf (r : Option LaunchRec) : Nat := r.elim 0 (·.accs)

/-- The registers that trap VREG: the first at or beyond the group's allocation (R68 check 4, R76). (DEDUCED, log 18) -/
def vregBad (g : Group) (r : Option LaunchRec) (u : Use) : Option Nat :=
  ((u.vr ++ u.vw).find? fun n => decide (n ≥ g.valloc)).or
    ((u.tr.find? fun n => decide (n ≥ tilesOf r)).or (u.ar.find? fun n => decide (n ≥ accsOf r)))

/-- What a word uses behind its prefix: an atomic word's operation is in its control word (R65). -/
def useIn (hs : List Instr) (i : Instr) : Use := useOf ((atomCtl hs).op == 9) i

/-- Checks 1 to 4 of a unit, in the order of R68: the cause and its address field. -/
def unitFault (s : State) (g : Group) (hs : List Instr) (i : Instr) : Option (Cause × Word) :=
  let u := useIn hs i
  let r := s.recordOf g
  if !s.variant.hasGate ∧ (u.gate ∨ (specialOf i).elim false (fun x => gateSpecial x.1)) then some (.absent, wordOf i)
  else if !i.wellFormed then some (.illegal, wordOf i)
  else
    match hintBad i u 0 0 0 0 hs with
    | some n => some (.illegal, wordOf (hs.getD n i))
    | none =>
      if privBad g (r.elim false (·.inj)) i u then some (.priv, wordOf i)
      else (vregBad g r u).map fun n => (Cause.vreg, BitVec.ofNat 64 n)

/-- A fixed-latency write that a word issuing at `clock` reads too early (R52, R53). -/
def Pend.early (p : Pend) (clock : Nat) : Bool :=
  match p with
  | .s _ _ t => decide (t > clock)
  | .v _ _ _ t => decide (t > clock)
  | .k _ _ _ t => decide (t > clock)
  | .x _ t => decide (t > clock)
  | .xv _ _ _ t => decide (t > clock)

/-- A class-X write to a register. -/
def Pend.isX (p : Pend) (r : Reg) : Bool :=
  match p with
  | .x q _ => q == r
  | .xv n _ _ _ => r == .v n
  | _ => false

/-- A class-X write of a fragment to a register is in flight. -/
def Frag.xBusy (f : Frag) (now : Nat) (r : Reg) : Bool := f.pend.any fun p => p.early now && p.isX r

/-- The writes in flight of a group: of its fragments and of those that have ended. -/
def Group.flying (g : Group) : List Pend := g.frags.toList.flatMap (·.pend) ++ g.orphans

/-- Whether a pending write is to the scalar register. -/
def Pend.isS (p : Pend) (n : BitVec 6) : Bool :=
  match p with
  | .s m _ _ => m == n
  | .x r _ => r == .s n
  | _ => false

/-- Whether a pending write is to the vector register. -/
def Pend.isV (p : Pend) (n : Nat) : Bool :=
  match p with
  | .v m _ _ _ => m.toNat == n
  | .xv m _ _ _ => m.toNat == n
  | _ => false

/-- Whether a pending write is to the mask register. -/
def Pend.isK (p : Pend) (n : BitVec 4) : Bool :=
  match p with
  | .k m _ _ _ => m == n
  | _ => false

/-- The mask registers a word reads, its PK among them. -/
def Use.masks (u : Use) : List (BitVec 4) := u.kr ++ (if u.pk = 0#2 then [] else [u.pk.setWidth 4])

/-- The first register that a word would read early, in the order of its fields A, B, D, scalar, vector, mask (R53). -/
def earlyRead (f : Frag) (u : Use) (clock : Nat) : Option Nat :=
  ((u.sr.find? fun n => f.pend.any fun p => p.isS n && p.early clock).map (·.toNat)).or
    ((u.vr.find? fun n => f.pend.any fun p => p.isV n && p.early clock).or
      ((u.masks.find? fun n => f.pend.any fun p => p.isK n && p.early clock).map (·.toNat)))

/-- A fragment as a word reads it: a register whose fixed-latency write is not ready reads its old value (R53). The
list of pending writes has the youngest first. -/
def Frag.view (f : Frag) (clock : Nat) : Frag :=
  f.pend.foldl (fun x p => match p with
    | .s n old t => if t > clock then x.wr n old else x
    | _ => x) f

/-- A group's vector and mask registers as a word of a fragment reads them (R53). -/
def Group.view (g : Group) (f : Frag) (clock : Nat) : Group :=
  f.pend.foldl (fun x p => match p with
    | .v n old m t => if t > clock then x.wrV n m old else x
    | .k n old m t => if t > clock then x.wrK n m old else x
    | _ => x) g

/-- The vector registers a request writes. -/
def Request.vdst (r : Request) : List Nat :=
  if r.scalar then []
  else match r.kind with
    | .store => []
    | .red _ => []
    | .peerStore _ => []
    | .tagst => []
    | _ => if r.size = 8 then [r.dst, r.dst + 1] else [r.dst]

/-- The scalar register a request writes. -/
def Request.sdst (r : Request) : List Nat :=
  if !r.scalar then []
  else match r.kind with
    | .store => []
    | .tagst => []
    | _ => [r.dst]

/-- The vector registers a gate word has still to write (R318, R330). -/
def GateWord.vregs (w : GateWord) : List Nat :=
  match w.op with
  | .gtrip t => (List.range (if t = 2 then 10 else 5)).map (w.d + ·)
  | .gopen t => if t = 2 then (List.range 4).map (w.d + 6 + ·) else (List.range 2).map (w.d + 3 + ·)
  | .gmsb => if w.await = 0 then [] else [w.d]
  | .gb2a => if w.await = 0 then [] else [w.d]
  | .greveal => if w.await = 0 then [] else [w.d]
  | _ => []

/-- The tile registers a gate word has still to write. -/
def GateWord.tregs (w : GateWord) : List Nat :=
  match w.op with
  | .gtript => (List.range 5).map (w.d + ·)
  | .gopent => [w.d + 3, w.d + 4]
  | _ => []

/-- The registers a word reads and writes, as the scoreboard sees them. -/
def Use.regs (u : Use) : List Reg :=
  ((u.sr ++ u.sw).filter (· != 0#6)).map Reg.s ++ (u.vr ++ u.vw).map (fun n => Reg.v (BitVec.ofNat 6 n)) ++
    u.tr.map (fun n => Reg.t (BitVec.ofNat 3 n)) ++ u.ar.map (fun n => Reg.acc (BitVec.ofNat 3 n)) ++ u.br.map Reg.b

/-- A word is held by the scoreboard: it reads or writes a register with a class-X write of its fragment pending (R54): one of a
memory or gate word, or one of the core. -/
def scoreHeld (g : Group) (fid : Nat) (u : Use) (now : Nat) : Bool :=
  let mine := g.reqs.filter fun r => r.frag == fid
  let gates := g.gates.filter fun w => w.frag == fid
  let vp := mine.flatMap Request.vdst ++ gates.flatMap GateWord.vregs
  let sp := mine.flatMap Request.sdst ++
    (match g.drain with
    | some (_, d, f) => if f = fid then [d.toNat] else []
    | none => [])
  let tp := gates.flatMap GateWord.tregs
  u.regs.any ((g.frag fid).xBusy now) || (u.vr ++ u.vw).any (fun n => vp.contains n) || (u.sr ++ u.sw).any (fun n => n != 0#6 && sp.contains n.toNat) ||
  u.tr.any (fun n => tp.contains n)

/-- What a word has when it issues: its place, the group and fragment as it reads them, its prefix, its unit's address,
its own address, and the address of the next unit. -/
structure Ctx where
  core : Nat
  slot : Nat
  fid  : Nat
  g    : Group
  f    : Frag
  hs   : List Instr
  unit : Word
  addr : Word
  next : Word
  now  : Nat
  deriving DecidableEq, Repr

/-- How a word that issues in a cycle reads a group and one of its fragments. -/
def Group.ctx (g : Group) (core slot fid now : Nat) : Ctx :=
  let f := g.frag fid
  let addr := f.pc + BitVec.ofNat 64 (4 * f.hints.length)
  ⟨core, slot, fid, g.view f now, f.view now, f.hints, f.pc, addr, addr + 4#64, now⟩

/-- A scalar operand. -/
def Ctx.s (x : Ctx) (n : BitVec 6) : Word := x.f.rd n

/-- A mask operand. -/
def Ctx.k (x : Ctx) (n : BitVec 4) : Mask := x.g.rdK x.f n

/-- The active lanes: k0 AND kPK (R43). -/
def Ctx.act (x : Ctx) (pk : BitVec 2) : Mask := x.f.mask &&& x.k (pk.setWidth 4)

/-- A vector operand. -/
def Ctx.v (x : Ctx) (n : BitVec 6) : Lanes := x.g.rdV n

/-- A vector register by number; registers past v63 do not exist and are refused as illegal before this. -/
def Ctx.vn (x : Ctx) (n : Nat) : Lanes := x.g.rdV (BitVec.ofNat 6 n)

/-- The B operand of a vector word: a vector, or a scalar broadcast to every lane (R41). -/
def Ctx.b (x : Ctx) (sbit : BitVec 1) (b : BitVec 6) : Lanes :=
  if sbit = 0#1 then x.v b else Vector.replicate 64 ((x.s b).setWidth 32)

/-- What a word's own preconditions answer before it is charged: go on with a grant and a sector count (R131), pay them and wait
as a release with the block it has read (R368, R370, R373), hold its fragment, hold the whole group (R232, R233), trap uncharged,
or move to another state (a PAGE record raised). -/
inductive Pre where
  | go (units sectors : Nat)
  | pay (units sectors : Nat) (block : List Byte)
  | hold
  | holdGroup
  | trap (c : Cause) (addr : Word) (lanes : Option Mask)
  | stop (s : State)
  deriving DecidableEq, Repr

/-- The word is held. -/
def Pre.holds : Pre → Bool
  | .hold => true
  | .holdGroup => true
  | .pay .. => true
  | _ => false

/-- What a word that waits as a release pays before it waits, once (R368, R370, R373). -/
def State.pay (s : State) (core slot fid ci cm : Nat) (block : List Byte) : State :=
  s.modGroup core slot fun g =>
    if (g.frag fid).paid.isSome then g
    else { g with ibud := g.ibud - ci, mbud := g.mbud - cm }.modFrag fid fun f => { f with paid := some (ci, cm, block) }

/-- What the word has still to pay of a charge: nothing once it has waited as a release. -/
def Frag.owes (f : Frag) (n : Nat) : Nat := if f.paid.isSome then 0 else n

/-- What a word's effect answers: the next state, or a precise trap that leaves only its charge. -/
inductive Res where
  | done (s : State)
  | trap (c : Cause) (addr : Word) (lanes : Option Mask)
  deriving DecidableEq, Repr

/-- The outcome of a step of this machine. -/
abbrev Out := Host.Outcome State Fault Refusal

/-- The selected fragment stays at its unit and may try again in the next cycle. -/
def State.held (s : State) (core slot fid : Nat) : State :=
  s.modGroup core slot fun g => { g with groupHeld := none }.modFrag fid fun f => { f with nextIssue := s.clock + 1 }

/-- The selected fragment stays at its unit, and no other fragment of its group issues before it (R232, R233). -/
def State.heldGroup (s : State) (core slot fid : Nat) : State :=
  (s.held core slot fid).modGroup core slot fun g => { g with groupHeld := some fid }

/-- The quantum of the group ends before this unit (R379). -/
def State.endQuantum (s : State) (core slot : Nat) : State := s.modGroup core slot fun g => { g with qdone := true }

/-- Words that a deterministic launch evaluates at the start of a quantum (R379). -/
def startsQuantum : Instr → Bool
  | .fence .. => true
  | .wany .. => true
  | .pegwait .. => true
  | .join .. => true
  | .waitb .. => true
  | _ => false

/-- The quantum of a deterministic launch ends before the word (R379): words of the quantum, other than the unit's own
hint words, have been retired. (DEDUCED, log 59) -/
def quantumBefore (det : Bool) (g : Group) (hints : Nat) (i : Instr) : Bool :=
  det && startsQuantum i && decide (g.qcnt > hints)

/-- Words that trap ILLEGAL while a clamp landing of a deterministic launch lasts (R389): memory words with those of the streamer
and the matrix engine that R253 counts among them, event, peg and mailbox words, a `seal` that names a peg, `split`, `join`, `topup`,
`yield`, `exit` and dispatcher words. -/
def bannedAside : Instr → Bool
  | .ldv .. | .stv .. | .ldx .. | .stx .. | .lds .. | .sts .. | .ldp .. | .stp .. | .ldb .. | .stb .. => true
  | .ldacq .. | .strel .. | .atom .. | .atoms .. | .red .. | .fence .. | .tagld .. | .tagst .. | .pref .. => true
  | .bdset .. | .bdgetLo .. | .bdgetHi .. => true
  | .ebind .. | .ebindPers .. | .eunbind .. | .wany .. | .mpost .. => true
  | .pegget .. | .pegref .. | .pegput .. | .pegarr .. | .pegwait .. => true
  | .split .. | .join .. | .topup .. | .yield .. | .exit .. => true
  | .launch .. | .emit .. | .spawn .. => true
  | .cpyFromGlobal .. | .cpyFromScratchpad .. | .cpyFromPeer .. | .cpyt .. | .cpyk .. | .cpym .. | .tld .. | .mmaq .. => true
  | .seal _ d _ _ _ => d != 0#6
  | _ => false

/-- A word of a deterministic launch is retired (R378): it counts for %clock, for its quantum and for the group's TIMER sources. -/
def Group.retire (g : Group) (counted : Bool) : Group :=
  if counted then { g with retired := g.retired + 1, qcnt := g.qcnt + 1 }.latchTimers else g

/-- A word has paid and issues (R51, R82, R90, R131): the fragment goes on at the next unit. -/
def Group.advance (g : Group) (fid : Nat) (hs : List Instr) (next : Word) (now : Nat) (u : Use) (ci cm : Nat) (det : Bool) : Group :=
  let counted := det && g.aside.isNone
  let g1 := g.modFrag fid fun f => { f with
    pc := next, hints := [], nextIssue := now + 1 + u.st.toNat, lastIssue := now + 1,
    pend := f.pend.filter (fun p => p.early now), paid := none }
  { g1 with
    ibud := g.ibud - ci, mbud := g.mbud - cm, icnt := g.icnt + 1, lastIssue := now + 1, lastCls := u.cls,
    yielded := yldOf hs, boost := 0, readyAt := now + 1, deferHeld := false, groupHeld := none }.retire counted

/-- What the issue of a word answers before the word's effect. -/
inductive Start where
  | out (o : Out)
  | go (x : Ctx) (s : State)
  deriving Repr

/-- The issue of an instruction word up to its effect: the checks of R68, the scoreboard (R54), the word's own preconditions, check 5 of R68
for a word that nothing holds (DEDUCED, log 33), the charge (R131, R134, R136), and the advance. The checks are made again at the
instruction word: where an `rfgive` of another fragment has come between, it traps VREG, and its hint words stay charged (DESIGN CHOICE, log
66). -/
def start (i : Instr) (s : State) (pre : Ctx → State → Pre) : Start :=
  match s.cur with
  | none => .out (.fault .noIssuer)
  | some (core, slot, fid) =>
    match s.group? core slot with
    | none => .out (.fault .noIssuer)
    | some g =>
      let f := g.frag fid
      let u := useIn f.hints i
      let det := s.isDet g
      let trapped := fun (c : Cause) (a : Word) (l : Option Mask) =>
        Start.out (.next (s.takeTrap core slot fid { TrapArgs.precise c a f.pc with lanes := l }))
      match unitFault s g f.hints i with
      | some (c, a) => trapped c a none
      | none =>
        if quantumBefore det g f.hints.length i then .out (.next (s.endQuantum core slot))
        else if scoreHeld g fid u s.clock then .out (.next (s.held core slot fid))
        else
          let x := g.ctx core slot fid s.clock
          let p := if g.aside.isSome && bannedAside i then Pre.go 0 0 else pre x s
          match if p.holds then none else if g.uchk ∨ det then earlyRead f u s.clock else none with
          | some n => trapped .understall (BitVec.ofNat 64 n) none
          | none =>
            match p with
            | .hold => .out (.next (s.held core slot fid))
            | .holdGroup => .out (.next (s.heldGroup core slot fid))
            | .trap c a l => trapped c a l
            | .stop t => .out (.next t)
            | .pay units sectors block =>
              if f.owes (u.charge + units) > g.ibud then .out (.next (s.takeLanding core slot fid 1#2 f.pc))
              else if f.owes sectors > g.mbud then .out (.next (s.takeLanding core slot fid 2#2 f.pc))
              else .out (.next ((s.held core slot fid).pay core slot fid (u.charge + units) sectors block))
            | .go units sectors =>
              if f.owes (u.charge + units) > g.ibud then .out (.next (s.takeLanding core slot fid 1#2 f.pc))
              else if f.owes sectors > g.mbud then .out (.next (s.takeLanding core slot fid 2#2 f.pc))
              else .go x (s.setGroup (g.advance fid f.hints x.next s.clock u (f.owes (u.charge + units)) (f.owes sectors) det))

/-- No precondition of its own: no grant, no sector. -/
def free : Ctx → State → Pre := fun _ _ => .go 0 0

/-- The latency class of a place for a core (R229): `none` is its team's window, a physical address its slice, whose cache hits
(DESIGN CHOICE, log 41). -/
def latencyClass (v : Variant) (core : Nat) : Option Nat → Nat
  | none => 24
  | some pa =>
    if tier2Base ≤ pa then 2400
    else if homeDieOf v (pa / 2 ^ 29) = dieOf core then 260 else 420

/-- The latency class of the line at a virtual address for a group (R229). -/
def State.readClass (s : State) (part core : Nat) (ea : Word) : Nat :=
  match (translate s part (.ofCore core) (ea.toNat % 2 ^ 55)).1 with
  | .ok pa _ => latencyClass s.variant core (some pa)
  | _ => 0

/-- The latency class of a cutting (R369, R472). -/
def State.cuttingClass (s : State) (part core : Nat) (v : Word) : Nat :=
  if field v 63 60 = 0 ∧ v.getLsbD 59 then latencyClass s.variant core none else s.readClass part core v

/-- The latency class of a peer's core for a core (R15, R229): L1 on its physical cluster, else L1m. -/
def State.peerClass (s : State) (core peer : Nat) : Nat := if s.physOf core / 4 = s.physOf peer / 4 then 70 else 180

/-- The core of the team that an `mpost` with CT 1 names (R162); the group's own when there is none. -/
def State.postCore (s : State) (g : Group) (v : Word) : Nat :=
  match s.team? g.team with
  | none => g.core
  | some t => ((s.teams.find? fun x => x.key.uid == t.key.uid && !x.key.origin &&
      x.key.index / t.shape == t.key.index / t.shape && x.pos == field v 9 8).map (·.core)).getD g.core

/-- The cycles from issue to ready of a class-X result that the core computes (R310, R318, R472), 0 for other words; an access of the
memory engine, a crossing or a confirmation ends by its own event. (DESIGN CHOICE, log 41) -/
def Ctx.xLatency (x : Ctx) (s : State) : Instr → Nat
  | .mul .. => 4
  | .mulh .. | .mulhn .. => 6
  | .div .. | .divn .. | .rem .. | .remn .. => 36
  | .gets .. | .split .. => 3
  | .rfclaim .. => 4
  | .topup .. => 6
  | .pegget _ _ a => if (x.s a).getLsbD 63 then 40 else 6
  | .mpost _ _ a _ => if (x.s a).getLsbD 15 then s.peerClass x.core (s.postCore x.g (x.s a)) else 24
  | .bdset .. | .bdgetLo .. | .bdgetHi .. => 2
  | .fdiv .. | .fsqrt .. => 14
  | .frcp .. | .frsq .. => 10
  | .fexp2 .. | .flog2 .. | .rand .. => 12
  | .fsin .. | .fcos .. => 18
  | .vred _ _ _ _ c => if c = 1#6 ∨ c = 6#6 ∨ c = 7#6 then 14 else 8
  | .launch _ _ a => s.readClass x.g.part x.core (x.s a) + 60
  | .emit _ _ a => s.cuttingClass x.g.part x.core (x.s a) + 40
  | .spawn _ _ _ b => s.cuttingClass x.g.part x.core (x.s b) + 40
  | .gmask .. => 8
  | .gmaskt _ d _ _ => let b := fun n => let t := x.g.shape n; t.rows * (t.cols * (4 * 2 ^ t.ew.toNat) / 8)
                       8 + (b d.toNat + b (d.toNat + 1)) / 256
  | .gfin .. => 10
  | .gtrunc .. => 6
  | .greveal .. => 8
  | .tld _ d _ _ => let t := x.g.shape d.toNat; 24 + (t.rows * (t.cols * (4 * 2 ^ t.ew.toNat) / 8) + 511) / 512
  | .tzero .. => 40
  | .accz .. => 12
  | .accrd .. => 10
  | .accwr .. => 8
  | _ => 0

/-- A word writes nothing: its PK suppresses it as a scalar word (R43), or leaves no lane of a vector destination active. -/
def Ctx.suppressed (x : Ctx) (u : Use) : Bool := u.pk != 0#2 && x.act u.pk == 0#64 && (u.cls == 0 || u.sw == [])

/-- The vector registers that a word has still to write once it has issued, and their lanes (R318, R334, R336): a gate word writes all 64
lanes, `gmask` its two slots, and what a crossing brings is written by its event; `g` is the group after the word's effect. -/
def Ctx.laneWrites (x : Ctx) (i : Instr) (g : Group) : List Nat × Mask :=
  let u := useIn x.hs i
  match i with
  | .gmask _ d _ _ t => (if t = 2#2 then (List.range 4).map (d.toNat + 6 + ·) else (List.range 2).map (d.toNat + 3 + ·), ~~~0#64)
  | .greveal _ d _ => (if g.gates.any fun w => w.await != 0 && w.vregs.contains d.toNat && w.pc == x.unit then [] else [d.toNat], ~~~0#64)
  | _ => (u.vw, if u.gate then ~~~0#64 else x.act u.pk)

/-- The class-X results of a completed word are in flight for `n` cycles (R54); `old` is its group before its effect. -/
def Ctx.inFlight (x : Ctx) (i : Instr) (n : Nat) (old g : Group) : Group :=
  let u := useIn x.hs i
  if n = 0 ∨ x.suppressed u then g
  else
    let (vs, m) := x.laneWrites i g
    g.modFrag x.fid fun f => { f with
      pend := (vs.map fun r => Pend.xv (BitVec.ofNat 6 r) (old.rdV (BitVec.ofNat 6 r)) m (x.now + n)) ++
        (((u.sw.filter (· != 0#6)).map Reg.s) ++ u.xw).map (fun r => Pend.x r (x.now + n)) ++ f.pend }

/-- The word raises flags when it writes its result (R122, R187): a floating-point word, or one that saturates. -/
def raisesFlags (hs : List Instr) (u : Use) : Bool := u.fl || (u.md == .sat && (modOf hs).sat)

/-- The flags of a completed word reach %fflags with its result (R122). -/
def Ctx.flagging (x : Ctx) (i : Instr) (n : Nat) (g : Group) : Group :=
  let u := useIn x.hs i
  if raisesFlags x.hs u then { g with flagsAt := max g.flagsAt (x.now + max u.lat n) } else g

/-- A word that completes and is no gate word takes the gate marks off the registers it names as destinations (R331). -/
def Ctx.unmark (x : Ctx) (i : Instr) (g : Group) : Group :=
  let u := useIn x.hs i
  if u.gate ∨ u.vw = [] then g
  else { g with vmarks := Vector.ofFn fun r => if u.vw.contains r.val then .none else g.vmarks[r.val] }

/-- What every completed word leaves behind in its group: gate marks off its destinations, its class-X results in flight for `n` cycles,
its flags to come. -/
def Ctx.finished (x : Ctx) (i : Instr) (n : Nat) (old g : Group) : Group := x.flagging i n (x.inFlight i n old (x.unmark i g))

/-- A word completes: `b` is the state before its effect. -/
def Ctx.finish (x : Ctx) (i : Instr) (b s : State) : State :=
  s.modGroup x.core x.slot (x.finished i (x.xLatency b i) ((b.group? x.core x.slot).getD x.g))

/-- The issue of a word: its effect on the advanced state, or the precise trap it takes after its charge (R68). -/
def issue (i : Instr) (s : State) (pre : Ctx → State → Pre) (eff : Ctx → State → Res) : Out :=
  match start i s pre with
  | .out o => o
  | .go x t =>
    match if x.g.aside.isSome && bannedAside i then Res.trap .illegal (wordOf i) none else eff x t with
    | .done t' => .next (x.finish i t t')
    | .trap c a l => .next (t.takeTrap x.core x.slot x.fid { TrapArgs.precise c a x.unit with lanes := l })

/-- Change the issuing group. -/
def Ctx.upd (x : Ctx) (s : State) (f : Group → Group) : Res := .done (s.modGroup x.core x.slot f)

/-- The issue of a word that changes only its group. -/
def issueG (i : Instr) (s : State) (eff : Ctx → Group → Group) : Out := issue i s free fun x t => x.upd t (eff x)

/-- When a pending write to a register is the latest to complete (R54: the younger completes last). -/
def readyAfter (ps : List Pend) (same : Pend → Bool) (t : Nat) : Nat :=
  ps.foldl (fun m p => if same p then
    match p with
    | .s _ _ r => max m r
    | .v _ _ _ r => max m r
    | .k _ _ _ r => max m r
    | .x _ r => max m r
    | .xv _ _ _ r => max m r
    else m) t

/-- Write a scalar register of the issuing fragment with latency `lat` (R52), 0 for class X. A class-X write takes the place of an older
fixed-latency write that would be ready later (R54: DESIGN CHOICE, log 71). -/
def Group.putS (g : Group) (x : Ctx) (d : BitVec 6) (lat : Nat) (v : Word) : Group :=
  g.modFrag x.fid fun f =>
    if d = 0#6 then f
    else if lat = 0 then { f.wr d v with pend := f.pend.filter fun p => !p.isS d }
    else { f.wr d v with pend := .s d (f.rd d) (readyAfter f.pend (·.isS d) (x.now + lat)) :: f.pend }

/-- Write the lanes `m` of a vector register with latency `lat` (R52). Where no lane is active the register is unready all the same (R53:
DESIGN CHOICE, log 71). A class-X write (latency 0) leaves older fixed-latency writes in flight (R212): they are ready before it is. -/
def Group.putV (g : Group) (x : Ctx) (d : BitVec 6) (lat : Nat) (m : Mask) (v : Lanes) : Group :=
  let g1 := g.wrV d m v
  if lat = 0 then g1
  else g1.modFrag x.fid fun f =>
    { f with pend := .v d (g.rdV d) m (readyAfter f.pend (·.isV d.toNat) (x.now + lat)) :: f.pend }

/-- Write the bits `m` of a mask register with latency `lat` (R52, R75). -/
def Group.putK (g : Group) (x : Ctx) (d : BitVec 4) (lat : Nat) (m v : Mask) : Group :=
  let g1 := g.wrK d m v
  g1.modFrag x.fid fun f =>
    { f with pend := .k d (g.k[d.toNat]'d.isLt) m (readyAfter f.pend (·.isK d) (x.now + lat)) :: f.pend }

/-- The issue of a hint word (R46): a C slot, a charge of 1; its fragment's next word is the next of the unit. -/
def issueHint (i : Instr) (s : State) : Out :=
  match s.cur with
  | none => .fault .noIssuer
  | some (core, slot, fid) =>
    match s.group? core slot with
    | none => .fault .noIssuer
    | some g =>
      let f := g.frag fid
      if g.ibud < 1 then .next (s.takeLanding core slot fid 1#2 f.pc)
      else
        let counted := s.isDet g && g.aside.isNone
        let g1 := { g with yielded := false }.modFrag fid fun f => { f with
          hints := f.hints ++ [i], nextIssue := s.clock + 1, lastIssue := s.clock + 1 }
        .next (s.setGroup ({ g1 with
          ibud := g.ibud - 1, icnt := g.icnt + 1, lastIssue := s.clock + 1, lastCls := 0, boost := 0, readyAt := s.clock + 1
          deferHeld := false, groupHeld := none }.retire counted))

/-- The lane mask a scalar word of majors 0x00 to 0x0F acts under is not empty (R43). -/
def Ctx.live (x : Ctx) (pk : BitVec 2) : Bool := x.act pk != 0#64

end Sys2Proof.Machine
end

