-- ==== Sys2Proof/Machine/Scalar.lean ====
section
/-! DEFINITION. Machine/Scalar.lean: the scalar instructions of majors 0x00 to 0x0F (R103 to R108). -/

namespace Sys2Proof.Machine

/-- A scalar word: it writes sD with latency `lat` unless PK suppresses it (R43, R103). -/
def scalar (i : Instr) (pk : BitVec 2) (d : BitVec 6) (lat : Nat) (f : Ctx → Word) (s : State) : Out :=
  issueG i s fun x g => if x.live pk then g.putS x d lat (f x) else g

/-- Truncating division (R105). -/
def divWord (a b : Word) : Word := if b = 0#64 then BitVec.allOnes 64 else BitVec.ofInt 64 (a.toInt.tdiv b.toInt)

/-- The remainder of truncating division, of the sign of a (R105). -/
def remWord (a b : Word) : Word := if b = 0#64 then a else BitVec.ofInt 64 (a.toInt.tmod b.toInt)

/-- Natural division (R105). -/
def divnWord (a b : Word) : Word := if b = 0#64 then BitVec.allOnes 64 else BitVec.ofNat 64 (a.toNat / b.toNat)

/-- The remainder of natural division (R105). -/
def remnWord (a b : Word) : Word := if b = 0#64 then a else BitVec.ofNat 64 (a.toNat % b.toNat)

/-- The high half of the signed product (R105). -/
def mulhWord (a b : Word) : Word := (a.signExtend 128 * b.signExtend 128).extractLsb' 64 64

/-- The high half of the natural product (R105). -/
def mulhnWord (a b : Word) : Word := (a.setWidth 128 * b.setWidth 128).extractLsb' 64 64

/-- Leading zero bits (R104). -/
def clzBits {w : Nat} (a : BitVec w) : Nat := ((List.range w).find? fun n => a.getLsbD (w - 1 - n)).getD w

/-- Shift left; a count of the width or more gives 0 (R106, R200). -/
def shlWord {w : Nat} (a : BitVec w) (n : Nat) : BitVec w := if n ≥ w then 0#w else a <<< n

/-- Logical shift right; a count of the width or more gives 0 (R106, R200). -/
def shrWord {w : Nat} (a : BitVec w) (n : Nat) : BitVec w := if n ≥ w then 0#w else a >>> n

/-- Arithmetic shift right; a count of the width or more fills with the sign (R106, R200). -/
def sraWord {w : Nat} (a : BitVec w) (n : Nat) : BitVec w := a.sshiftRight (min n w)

/-- A condition as 1 or 0 (R108). -/
def boolWord (b : Bool) : Word := if b then 1#64 else 0#64

/-- add (R104: sum mod 2^64). -/
def execAdd (st : BitVec 3) (pk : BitVec 2) (d a b : BitVec 6) (s : State) : Out :=
  scalar (.add st pk d a b) pk d 2 (fun x => x.s a + x.s b) s

/-- sub (R104: difference mod 2^64). -/
def execSub (st : BitVec 3) (pk : BitVec 2) (d a b : BitVec 6) (s : State) : Out :=
  scalar (.sub st pk d a b) pk d 2 (fun x => x.s a - x.s b) s

/-- mul (R105: low half of the product). -/
def execMul (st : BitVec 3) (pk : BitVec 2) (d a b : BitVec 6) (s : State) : Out :=
  scalar (.mul st pk d a b) pk d 0 (fun x => x.s a * x.s b) s

/-- mulh (R105: high half of the signed product). -/
def execMulh (st : BitVec 3) (pk : BitVec 2) (d a b : BitVec 6) (s : State) : Out :=
  scalar (.mulh st pk d a b) pk d 0 (fun x => mulhWord (x.s a) (x.s b)) s

/-- mulhn (R105: high half of the natural product). -/
def execMulhn (st : BitVec 3) (pk : BitVec 2) (d a b : BitVec 6) (s : State) : Out :=
  scalar (.mulhn st pk d a b) pk d 0 (fun x => mulhnWord (x.s a) (x.s b)) s

/-- div (R105: truncating division). -/
def execDiv (st : BitVec 3) (pk : BitVec 2) (d a b : BitVec 6) (s : State) : Out :=
  scalar (.div st pk d a b) pk d 0 (fun x => divWord (x.s a) (x.s b)) s

/-- divn (R105: natural division). -/
def execDivn (st : BitVec 3) (pk : BitVec 2) (d a b : BitVec 6) (s : State) : Out :=
  scalar (.divn st pk d a b) pk d 0 (fun x => divnWord (x.s a) (x.s b)) s

/-- rem (R105: signed remainder). -/
def execRem (st : BitVec 3) (pk : BitVec 2) (d a b : BitVec 6) (s : State) : Out :=
  scalar (.rem st pk d a b) pk d 0 (fun x => remWord (x.s a) (x.s b)) s

/-- remn (R105: natural remainder). -/
def execRemn (st : BitVec 3) (pk : BitVec 2) (d a b : BitVec 6) (s : State) : Out :=
  scalar (.remn st pk d a b) pk d 0 (fun x => remnWord (x.s a) (x.s b)) s

/-- and (R104). -/
def execAnd (st : BitVec 3) (pk : BitVec 2) (d a b : BitVec 6) (s : State) : Out :=
  scalar (.and st pk d a b) pk d 2 (fun x => x.s a &&& x.s b) s

/-- or (R104). -/
def execOr (st : BitVec 3) (pk : BitVec 2) (d a b : BitVec 6) (s : State) : Out :=
  scalar (.or st pk d a b) pk d 2 (fun x => x.s a ||| x.s b) s

/-- xor (R104). -/
def execXor (st : BitVec 3) (pk : BitVec 2) (d a b : BitVec 6) (s : State) : Out :=
  scalar (.xor st pk d a b) pk d 2 (fun x => x.s a ^^^ x.s b) s

/-- andn (R104: a AND NOT b). -/
def execAndn (st : BitVec 3) (pk : BitVec 2) (d a b : BitVec 6) (s : State) : Out :=
  scalar (.andn st pk d a b) pk d 2 (fun x => x.s a &&& ~~~(x.s b)) s

/-- shl (R106: the whole of sB is the count). -/
def execShl (st : BitVec 3) (pk : BitVec 2) (d a b : BitVec 6) (s : State) : Out :=
  scalar (.shl st pk d a b) pk d 2 (fun x => shlWord (x.s a) (x.s b).toNat) s

/-- shr (R106). -/
def execShr (st : BitVec 3) (pk : BitVec 2) (d a b : BitVec 6) (s : State) : Out :=
  scalar (.shr st pk d a b) pk d 2 (fun x => shrWord (x.s a) (x.s b).toNat) s

/-- sra (R106). -/
def execSra (st : BitVec 3) (pk : BitVec 2) (d a b : BitVec 6) (s : State) : Out :=
  scalar (.sra st pk d a b) pk d 2 (fun x => sraWord (x.s a) (x.s b).toNat) s

/-- min (R104: the smaller, signed). -/
def execMin (st : BitVec 3) (pk : BitVec 2) (d a b : BitVec 6) (s : State) : Out :=
  scalar (.min st pk d a b) pk d 2 (fun x => if (x.s a).slt (x.s b) then x.s a else x.s b) s

/-- minn (R104: the smaller, natural). -/
def execMinn (st : BitVec 3) (pk : BitVec 2) (d a b : BitVec 6) (s : State) : Out :=
  scalar (.minn st pk d a b) pk d 2 (fun x => if (x.s a).ult (x.s b) then x.s a else x.s b) s

/-- max (R104: the larger, signed). -/
def execMax (st : BitVec 3) (pk : BitVec 2) (d a b : BitVec 6) (s : State) : Out :=
  scalar (.max st pk d a b) pk d 2 (fun x => if (x.s a).slt (x.s b) then x.s b else x.s a) s

/-- maxn (R104: the larger, natural). -/
def execMaxn (st : BitVec 3) (pk : BitVec 2) (d a b : BitVec 6) (s : State) : Out :=
  scalar (.maxn st pk d a b) pk d 2 (fun x => if (x.s a).ult (x.s b) then x.s b else x.s a) s

/-- sel (R108: a when the old sD is nonzero, else b). -/
def execSel (st : BitVec 3) (pk : BitVec 2) (d a b : BitVec 6) (s : State) : Out :=
  scalar (.sel st pk d a b) pk d 2 (fun x => if x.s d ≠ 0#64 then x.s a else x.s b) s

/-- cmpeq (R108). -/
def execCmpeq (st : BitVec 3) (pk : BitVec 2) (d a b : BitVec 6) (s : State) : Out :=
  scalar (.cmpeq st pk d a b) pk d 2 (fun x => boolWord (x.s a == x.s b)) s

/-- cmpne (R108). -/
def execCmpne (st : BitVec 3) (pk : BitVec 2) (d a b : BitVec 6) (s : State) : Out :=
  scalar (.cmpne st pk d a b) pk d 2 (fun x => boolWord (x.s a != x.s b)) s

/-- cmplt (R108: signed). -/
def execCmplt (st : BitVec 3) (pk : BitVec 2) (d a b : BitVec 6) (s : State) : Out :=
  scalar (.cmplt st pk d a b) pk d 2 (fun x => boolWord ((x.s a).slt (x.s b))) s

/-- cmpltn (R108: natural). -/
def execCmpltn (st : BitVec 3) (pk : BitVec 2) (d a b : BitVec 6) (s : State) : Out :=
  scalar (.cmpltn st pk d a b) pk d 2 (fun x => boolWord ((x.s a).ult (x.s b))) s

/-- cmple (R108: signed). -/
def execCmple (st : BitVec 3) (pk : BitVec 2) (d a b : BitVec 6) (s : State) : Out :=
  scalar (.cmple st pk d a b) pk d 2 (fun x => boolWord ((x.s a).sle (x.s b))) s

/-- cmplen (R108: natural). -/
def execCmplen (st : BitVec 3) (pk : BitVec 2) (d a b : BitVec 6) (s : State) : Out :=
  scalar (.cmplen st pk d a b) pk d 2 (fun x => boolWord ((x.s a).ule (x.s b))) s

/-- clz (R104). -/
def execClz (st : BitVec 3) (pk : BitVec 2) (d a : BitVec 6) (s : State) : Out :=
  scalar (.clz st pk d a) pk d 2 (fun x => BitVec.ofNat 64 (clzBits (x.s a))) s

/-- popc (R104). -/
def execPopc (st : BitVec 3) (pk : BitVec 2) (d a : BitVec 6) (s : State) : Out :=
  scalar (.popc st pk d a) pk d 2 (fun x => BitVec.ofNat 64 (popCount (x.s a))) s

/-- mov (R104). -/
def execMov (st : BitVec 3) (pk : BitVec 2) (d a : BitVec 6) (s : State) : Out :=
  scalar (.mov st pk d a) pk d 2 (fun x => x.s a) s

/-- addi (R107). -/
def execAddi (st : BitVec 3) (pk : BitVec 2) (d a : BitVec 6) (i : BitVec 8) (s : State) : Out :=
  scalar (.addi st pk d a i) pk d 2 (fun x => x.s a + immI x.hs i) s

/-- andi (R107). -/
def execAndi (st : BitVec 3) (pk : BitVec 2) (d a : BitVec 6) (i : BitVec 8) (s : State) : Out :=
  scalar (.andi st pk d a i) pk d 2 (fun x => x.s a &&& immI x.hs i) s

/-- ori (R107). -/
def execOri (st : BitVec 3) (pk : BitVec 2) (d a : BitVec 6) (i : BitVec 8) (s : State) : Out :=
  scalar (.ori st pk d a i) pk d 2 (fun x => x.s a ||| immI x.hs i) s

/-- xori (R107). -/
def execXori (st : BitVec 3) (pk : BitVec 2) (d a : BitVec 6) (i : BitVec 8) (s : State) : Out :=
  scalar (.xori st pk d a i) pk d 2 (fun x => x.s a ^^^ immI x.hs i) s

/-- shli (R107: the count is IMM8). -/
def execShli (st : BitVec 3) (pk : BitVec 2) (d a : BitVec 6) (i : BitVec 8) (s : State) : Out :=
  scalar (.shli st pk d a i) pk d 2 (fun x => x.s a <<< i.toNat) s

/-- shri (R107). -/
def execShri (st : BitVec 3) (pk : BitVec 2) (d a : BitVec 6) (i : BitVec 8) (s : State) : Out :=
  scalar (.shri st pk d a i) pk d 2 (fun x => x.s a >>> i.toNat) s

/-- srai (R107). -/
def execSrai (st : BitVec 3) (pk : BitVec 2) (d a : BitVec 6) (i : BitVec 8) (s : State) : Out :=
  scalar (.srai st pk d a i) pk d 2 (fun x => (x.s a).sshiftRight i.toNat) s

/-- movi (R107): the extended immediate. -/
def execMovi (st : BitVec 3) (pk : BitVec 2) (d : BitVec 6) (i : BitVec 8) (s : State) : Out :=
  scalar (.movi st pk d i) pk d 2 (fun x => immI x.hs i) s

end Sys2Proof.Machine
end

