-- ==== Sys2Proof/Machine/Control.lean ====
section
/-! DEFINITION. Machine/Control.lean: branches, calls, splitting and joining of fragments, software traps, vector
register hand-over (R109 to R119, R123, R124). -/

namespace Sys2Proof.Machine

/-- Move the issuing fragment to a target, checked under R112. -/
def Ctx.jump (x : Ctx) (s : State) (t : Word) : Res :=
  match badTarget t with
  | some e => .trap e t none
  | none => x.upd s fun g => g.modFrag x.fid fun f => { f with pc := t }

/-- The target of a B-format word (R44). -/
def Ctx.target (x : Ctx) (o : BitVec 14) : Word := x.addr + 4#64 * immB x.hs o

/-- bra (R109). -/
def execBra (st : BitVec 3) (o : BitVec 14) (s : State) : Out :=
  issue (.bra st o) s free fun x t => x.jump t (x.target o)

/-- bz (R109): taken when the whole of sA is 0. -/
def execBz (st : BitVec 3) (a : BitVec 6) (o : BitVec 14) (s : State) : Out :=
  issue (.bz st a o) s free fun x t => if x.s a = 0#64 then x.jump t (x.target o) else .done t

/-- bnz (R109): taken when sA is nonzero. -/
def execBnz (st : BitVec 3) (a : BitVec 6) (o : BitVec 14) (s : State) : Out :=
  issue (.bnz st a o) s free fun x t => if x.s a ≠ 0#64 then x.jump t (x.target o) else .done t

/-- call (R110): s63 is the address of the call word + 4, then as bra. -/
def execCall (st : BitVec 3) (o : BitVec 14) (s : State) : Out :=
  issue (.call st o) s free fun x t =>
    x.jump (t.modGroup x.core x.slot fun g => g.putS x 63#6 2 x.next) (x.target o)

/-- jmp (R111). -/
def execJmp (st : BitVec 3) (a : BitVec 6) (s : State) : Out := issue (.jmp st a) s free fun x t => x.jump t (x.s a)

/-- ret (R111): to s63. -/
def execRet (st : BitVec 3) (s : State) : Out := issue (.ret st) s free fun x t => x.jump t (x.s 63#6)

/-- The lowest free split-table entry (R81). -/
def Group.freeFrag (g : Group) : Option Nat := (List.range 4).find? fun i => (g.frag i).state = .free

/-- A write to the fragment's scalar registers is pending (R113): a fixed-latency or a class-X one. -/
def scalarPending (g : Group) (fid : Nat) (now : Nat) : Bool :=
  ((g.frag fid).pend.any fun p => p.early now && match p with
    | .s .. => true
    | .x (.s _) _ => true
    | _ => false) ||
  g.reqs.any (fun r => r.frag == fid && !r.sdst.isEmpty) ||
  (match g.drain with
  | some (_, _, f) => f == fid
  | none => false)

/-- The new fragment of a split (R81, R113): the lanes `m`, the scalar registers of its parent, the new seam. It has issued nothing, so R82
ranks it before every fragment that has (DESIGN CHOICE, log 71). A child reads the new value of a vector or mask register that a word of its
parent has still to write (R53, R212: DESIGN CHOICE, log 71). -/
def Group.splitFrag (g : Group) (x : Ctx) (n : Nat) (d : BitVec 6) (m : Mask) (pc : Word) : Group :=
  let seam := g.stack.length
  let g1 := g.putS x d 0 1#64
  let parent := g1.frag x.fid
  let child : Frag :=
    { parent with mask := m, pc := pc, state := .ready, seam := some seam, hints := [], pend := [], nextIssue := x.now + 1,
                  lastIssue := 0, wait := .none, fetchRec := none, heldTrap := none, heldLand := false, paid := none }
  let entry : StackEntry := ⟨false, x.fid, g.seamCount, 0#64, parent.mask, false⟩
  let g2 : Group := { g1 with stack := g.stack ++ [entry], seamCount := g.seamCount + 1#8 }
  (g2.setFrag n child).modFrag x.fid fun f => { f with mask := f.mask &&& ~~~m, seam := some seam }

/-- split (R81, R113): parts the lanes of kA into a new fragment, or writes 0. -/
def execSplit (st : BitVec 3) (d : BitVec 6) (a : BitVec 4) (b : BitVec 6) (s : State) : Out :=
  issue (.split st d a b) s
    (fun x t => match t.group? x.core x.slot with
      | some g => if scalarPending g x.fid x.now then .hold else .go 0 0
      | none => .hold)
    fun x t =>
      let m := x.k a &&& x.f.mask
      let fail := x.upd t fun g => g.putS x d 0 0#64
      if m = 0#64 ∨ m = x.f.mask then fail
      else
        match x.g.freeFrag, x.g.landing.inres with
        | some n, false =>
          if x.g.stack.length ≥ 8 then .trap .joinovf 0#64 none
          else
            match badTarget (x.s b) with
            | some e => .trap e (x.s b) none
            | none => x.upd t fun g => g.splitFrag x n d m (x.s b)
        | _, _ => fail

/-- Take a join-stack entry out from wherever it stands; the entries above it move down one place (R86). -/
def Group.dropEntry (g : Group) (p : Nat) : Group :=
  { g with stack := g.stack.eraseIdx p }.mapFrags fun _ f =>
    { f with seam := f.seam.map fun q => if q > p then q - 1 else q }

/-- The live fragments whose mask lies within a seam's mask (R83). -/
def Group.within (g : Group) (m : Mask) : List Nat := g.liveFrags.filter fun i => (g.frag i).mask &&& ~~~m == 0#64

/-- The seam at `p` is complete: every live fragment within it is parked at join on it (R83). -/
def Group.seamDone (g : Group) (p : Nat) : Bool :=
  match g.stack[p]? with
  | none => false
  | some e =>
    !e.isTrap && !(g.within e.mask).isEmpty &&
      (g.within e.mask).all fun i => (g.frag i).state == .atJoin && (g.frag i).seam == some p

/-- The next open seam whose mask contains some lanes: the topmost (R83, DEDUCED, log 20). -/
def Group.nextSeam (g : Group) (m : Mask) : Option Nat :=
  ((List.range g.stack.length).reverse).find? fun i =>
    match g.stack[i]? with
    | some e => !e.isTrap && m &&& ~~~e.mask == 0#64
    | none => false

/-- Complete the seam at `p` (R83): its fragments fuse into the primary, or into the lowest-numbered arrival. The fused
fragment takes over the part of a trap-entered or landing fragment among them (DEDUCED, log 21; DEDUCED, log 60), and issues next when
the last of the fused fragments would have (DESIGN CHOICE, log 66). -/
def Group.fuse (g : Group) (p : Nat) : Group :=
  match g.stack[p]? with
  | none => g
  | some e =>
    let ids := g.within e.mask
    let keep := if !e.gone && ids.contains e.frag then e.frag else ids.headD 0
    let mask := ids.foldl (fun m i => m ||| (g.frag i).mask) 0#64
    let last := ids.foldl (fun n i => max n (g.frag i).lastIssue) 0
    let next := ids.foldl (fun n i => max n (g.frag i).nextIssue) 0
    let byTrap := if ids.any fun i => (g.frag i).heldTrap.isNone then none else (g.frag keep).heldTrap
    let byLand := ids.all fun i => (g.frag i).heldLand
    let g1 := g.mapFrags fun i f => if ids.contains i ∧ i ≠ keep then { f with state := .free, mask := 0#64, seam := none, pend := [] } else f
    let g2 := g1.dropEntry p
    let g3 : Group := { g2 with stack := g2.stack.map fun t =>
      if t.isTrap ∧ !t.gone ∧ ids.contains t.frag then { t with frag := keep } else t }
    let inTrap := g3.stack.any (·.isTrap) && ids.contains g.trap.frag.toNat
    let inLand := g.landing.inres && ids.contains g.landing.frag.toNat
    let g4 : Group := { g3 with
      trap := if inTrap then { g.trap with frag := BitVec.ofNat 2 keep } else g.trap
      landing := if inLand then { g.landing with frag := BitVec.ofNat 2 keep } else g.landing }
    g4.modFrag keep fun f =>
      let f1 := { f with mask := mask, seam := g4.nextSeam mask, lastIssue := last, nextIssue := next,
                         heldTrap := byTrap, heldLand := byLand, hints := [] }
      { f1 with state := f1.wakeState }

/-- The group after a fragment parks at join on its seam (R114). -/
def Group.arriveJoin (g : Group) (fid p : Nat) (next : Word) : Group :=
  let g1 := g.modFrag fid fun f => { f with state := .atJoin }
  { g1 with stack := modifyAt g1.stack p fun e => if e.frag = fid ∧ !e.gone then { e with addr := next } else e }

/-- A write of the fragment is pending: a fixed-latency one, or a class-X one (R54). -/
def anyPending (g : Group) (fid : Nat) (now : Nat) : Bool :=
  ((g.frag fid).pend.any fun p => p.early now) ||
  g.reqs.any (fun r => r.frag == fid && !(r.sdst.isEmpty && r.vdst.isEmpty)) ||
  g.gates.any (fun w => w.frag == fid && !(w.vregs.isEmpty && w.tregs.isEmpty)) ||
  (match g.drain with
  | some (_, _, f) => f == fid
  | none => false)

/-- join (R83, R87, R114, R135): parks the fragment on its innermost open seam; the arrival that completes the seam
fuses its fragments. -/
def execJoin (st : BitVec 3) (s : State) : Out :=
  issue (.join st) s
    (fun x t => match t.group? x.core x.slot with
      | some g => if anyPending g x.fid x.now then .hold else .go 0 0
      | none => .hold)
    fun x t =>
      let bad := Res.trap .illegal (wordOf (.join st)) none
      match x.f.seam with
      | none => bad
      | some p =>
        let g1 := x.g.arriveJoin x.fid p x.next
        if g1.seamDone p then
          if (x.g.topTrap.elim false fun q => decide (p < q)) then bad
          else x.upd t fun g => (g.arriveJoin x.fid p x.next).fuse p
        else if x.g.landing.inres then bad
        else x.upd t fun g => g.arriveJoin x.fid p x.next

/-- Every lane of a request is performed, or will never be (R251). -/
def Request.performed (r : Request) : Bool :=
  r.lanes.all fun l => match l.st with
    | .performed => true
    | .failed _ => true
    | _ => false

/-- A request holds an entry of the operand log or the hamper, until its lanes are done (R232, R233). -/
def Request.entered (r : Request) : Bool := r.lanes.any (·.logged) && !r.performed

/-- A store or a red holds an entry of the core's hamper (R233). -/
def Request.hampered (r : Request) : Bool :=
  (match r.kind with
  | .store => true
  | .red _ => true
  | .tagst => true
  | _ => false) && r.entered

/-- Every hamper entry of the group has drained (R233). -/
def Group.drained (g : Group) : Bool := !g.reqs.any Request.hampered

/-- A lane of a request failed its tag at the slice, and the core has not had the answer yet (R223). -/
def Request.failing (r : Request) : Bool :=
  r.lanes.any fun l => match l.st with
    | .failed _ => true
    | _ => false

/-- The store of a piece of a copy, which is no access of a word (R290). -/
def Request.isPiece (r : Request) : Bool :=
  match r.kind with
  | .piece => true
  | _ => false

/-- A gate word whose record is a load of its own still to perform (R253, R330): a draw that joins a batch is ordered by that batch (R245). -/
def GateWord.loads (w : GateWord) : Bool := !w.drawn && !w.joins

/-- Every access the group has issued is performed, or has failed and been answered, and its hamper is empty (R251, R253); a `tld` under
way is an access of the window (R298), a triple to draw one of its stream (R330). -/
def Group.quiet (g : Group) : Bool :=
  g.tlds.isEmpty && !g.gates.any GateWord.loads && g.reqs.all fun r => r.isPiece || (r.performed && !r.failing)

/-- The same of the accesses issued before the access or batch numbered `n`. -/
def Group.quietBefore (g : Group) (n : Nat) : Bool :=
  g.tlds.isEmpty && !(g.gates.any fun w => w.loads && decide (w.id < n)) &&
    g.reqs.all fun r => r.isPiece || decide (n ≤ r.id) || (r.performed && !r.failing)

/-- The lanes leave the mask of every open seam; an emptied seam is removed (R84). -/
def Group.dropLanes (g : Group) (m : Mask) : Group :=
  let g1 : Group := { g with stack := g.stack.map fun e => if e.isTrap then e else { e with mask := e.mask &&& ~~~m } }
  ((List.range g1.stack.length).reverse).foldl (fun h p =>
    match h.stack[p]? with
    | some e => if !e.isTrap ∧ e.mask = 0#64 then h.dropEntry p else h
    | none => h) g1

/-- A seam that a departure has completed fuses, the topmost first (R83). -/
def Group.fuseDone (g : Group) : Group :=
  match ((List.range g.stack.length).reverse).find? fun p => g.seamDone p with
  | some p => g.fuse p
  | none => g

/-- The numbers of the trap entries, from the bottom of the stack, that entered a fragment. -/
def Group.trapsOf (g : Group) (fid : Nat) : List Nat :=
  let ts := g.stack.filter (·.isTrap)
  (List.range ts.length).filterMap fun i => if (ts[i]?).any (fun e => e.frag == fid && !e.gone) then some (i + 1) else none

/-- A fragment ends (R84, R115): its lanes leave the seams, whose primary it no longer is; the topmost trap entry goes with the fragment
it entered, also when the others are only parked in a wait of their own (DESIGN CHOICE, log 66); the fragments that any of its trap entries
holds are released (R87: DEDUCED, log 74); requests that would write its scalar registers lose their destination. -/
def Group.endFrag (g : Group) (fid : Nat) : Group :=
  let m := (g.frag fid).mask
  let g1 := g.modFrag fid fun f => { f with state := .free, mask := 0#64, seam := none, hints := [], pend := [], wait := .none,
                                            heldTrap := none, heldLand := false, paid := none }
  let g2 : Group := { g1 with
    reqs := g1.reqs.map fun r => if r.frag = fid then { r with frag := 4 } else r
    gates := g1.gates.map fun w => if w.frag = fid then { w with frag := 4 } else w
    groupHeld := if g1.groupHeld = some fid then none else g1.groupHeld
    saves := g1.saves.filter (·.frag != fid)
    stack := g1.stack.map fun e => if e.frag = fid then { e with gone := true } else e
    drain := g1.drain.map fun (x : Word × BitVec 6 × Nat) => (x.1, x.2.1, if x.2.2 = fid then 4 else x.2.2)
    orphans := g1.orphans ++ (g.frag fid).pend }
  let ours := g.trapsOf fid
  let g3 := match g2.topTrap with
    | some p => if ours.contains g.traps then g2.dropEntry p else g2
    | none => g2
  let g4 := if ours = [] then g3 else (ours.foldl Group.releaseTrap g3).gateHandled
  (g4.dropLanes m).fuseDone

/-- The group has no live fragment: a landing ends, and the group ends once its work drains, by GROUP_END (R84, R115, R135). -/
def Group.endAll (g : Group) : Group :=
  { g.gateHandled with
    stack := [], ending := true, clampPend := false, parkCut := none, saves := []
    drain := g.drain.map fun (x : Word × BitVec 6 × Nat) => (x.1, x.2.1, 4)
    landing := { g.landing with inres := false, clampp := false } }.mapFrags fun _ f =>
    { f with state := .free, mask := 0#64, seam := none, hints := [], pend := [], wait := .none, heldTrap := none, heldLand := false,
             paid := none }

/-- exit (R84, R115, R135). When a landing fragment ends with CLAMPP 1, a deferred trap that is due comes before the save (R408); where none
is ready, the save's PC is that of the lowest waiting fragment, else of the lowest live one (DESIGN CHOICE, log 71). -/
def execExit (st : BitVec 3) (s : State) : Out :=
  issue (.exit st) s
    (fun x t => match t.group? x.core x.slot with
      | some g => if g.liveFrags.length ≤ 1 ∧ !g.drained then .hold else .go 0 0
      | none => .hold)
    fun x t =>
      if x.g.liveFrags.length ≤ 1 then x.upd t Group.endAll
      else
        let landed := x.g.landing.inres && x.g.landing.frag.toNat == x.fid
        let t1 := t.modGroup x.core x.slot fun g => if landed then (g.endFrag x.fid).endLanding else g.endFrag x.fid
        if landed ∧ x.g.landing.clampp then
          let t2 := if (t1.group? x.core x.slot).elim false t1.deferNow then t1.deliverDeferred x.core x.slot else t1
          match t2.group? x.core x.slot with
          | some g =>
            let f := (g.nextFrag (t2.isDet g)).getD (g.waitingFrag.getD (g.liveFrags.headD 0))
            .done (t2.hardPreempt x.core x.slot f 3#2 (g.frag f).pc)
          | none => .done t2
        else .done t1

/-- nop (R117). -/
def execNop (st : BitVec 3) (s : State) : Out := issueG (.nop st) s fun _ g => g

/-- brk (R118): DEBUG, with the next unit as the return PC. -/
def execBrk (st : BitVec 3) (s : State) : Out :=
  issue (.brk st) s free fun x t => .done (t.takeTrap x.core x.slot x.fid (.precise .debug 0#64 x.next))

/-- trap (R118): SWTRAP with its code, and the next unit as the return PC. -/
def execTrap (st : BitVec 3) (c : BitVec 6) (s : State) : Out :=
  issue (.trap st c) s free fun x t => .done (t.takeTrap x.core x.slot x.fid (.precise .swtrap (c.setWidth 64) x.next))

/-- rft (R119): return from the in-group trap on top of the join stack. -/
def execRft (st : BitVec 3) (s : State) : Out :=
  issue (.rft st) s free fun x t =>
    match t.group? x.core x.slot with
    | none => .done t
    | some g =>
      match g.returnFromTrap x.fid with
      | .error (.illegal, _) => .trap .illegal (wordOf (.rft st)) none
      | .error (e, a) => .trap e a none
      | .ok g1 => .done (t.setGroup g1)

/-- The registers `rfgive` gives (R123). -/
def giveCount (a : Word) (alloc : Nat) : Nat := min (a.toNat / 8 * 8) (alloc - 16)

/-- A write to a vector register from `lo` on is pending (R123), of whichever fragment, and also of one that has ended. -/
def givePending (g : Group) (lo : Nat) (now : Nat) : Bool :=
  (g.flying.any fun p => p.early now && match p with
    | .v n _ _ _ => decide (n.toNat ≥ lo)
    | .xv n _ _ _ => decide (n.toNat ≥ lo)
    | _ => false) ||
  g.reqs.any (fun r => r.vdst.any fun n => decide (n ≥ lo)) || g.gates.any (fun w => w.vregs.any fun n => decide (n ≥ lo))

/-- The gate marks of the registers from `lo` on go (R331). (DESIGN CHOICE, log 36) -/
def Group.unmarkFrom (g : Group) (lo : Nat) : Group :=
  { g with vmarks := Vector.ofFn fun i => if lo ≤ i.val then .none else g.vmarks[i.val] }

/-- rfgive (R77, R123): registers from the top of the allocation go to the team's pool. -/
def execRfgive (st : BitVec 3) (a : BitVec 6) (s : State) : Out :=
  issue (.rfgive st a) s
    (fun x t => match t.group? x.core x.slot with
      | some g =>
        let n := giveCount (x.s a) g.valloc
        if n > 0 ∧ givePending g (g.valloc - n) x.now then .hold else .go 0 0
      | none => .hold)
    fun x t =>
      let n := giveCount (x.s a) x.g.valloc
      .done ((t.modGroup x.core x.slot fun g => ({ g with valloc := g.valloc - n }).unmarkFrom (g.valloc - n)).modTeam x.g.team fun m =>
        { m with vfree := m.vfree + n })

/-- Registers `lo` to `hi - 1` read zero in every lane and carry no gate mark (R77, R124). -/
def Group.zeroRegs (g : Group) (lo hi : Nat) : Group :=
  { g with
    v := Vector.ofFn fun i => if lo ≤ i.val ∧ i.val < hi then Vector.replicate 64 0#32 else g.v[i.val]
    vmarks := Vector.ofFn fun i => if lo ≤ i.val ∧ i.val < hi then .none else g.vmarks[i.val] }

/-- rfclaim (R77, R124): all of the count, or none of it. -/
def execRfclaim (st : BitVec 3) (d a : BitVec 6) (s : State) : Out :=
  issue (.rfclaim st d a) s free fun x t =>
    let n := (x.s a).toNat / 8 * 8
    let pool := (t.team? x.g.team).elim 0 (·.vfree)
    if 8 ≤ n ∧ n ≤ pool ∧ x.g.valloc + n ≤ 64 then
      .done ((t.modGroup x.core x.slot fun g =>
        ({ g with valloc := g.valloc + n }.zeroRegs g.valloc (g.valloc + n)).putS x d 0 1#64).modTeam x.g.team fun m =>
        { m with vfree := m.vfree - n })
    else x.upd t fun g => g.putS x d 0 0#64

end Sys2Proof.Machine
end

