-- ==== Sys2Proof/Machine/Budget.lean ====
section
/-! DEFINITION. Machine/Budget.lean: the landing instructions (R139 to R141, R143), and special registers (R89 to R96,
R120 to R122). -/

namespace Sys2Proof.Machine

/-- land (R140): %land := the target. -/
def execLand (st : BitVec 3) (o : BitVec 14) (s : State) : Out :=
  issue (.land st o) s free fun x t =>
    match badTarget (x.target o) with
    | some e => .trap e (x.target o) none
    | none => x.upd t fun g => { g with landing := { g.landing with land := x.target o } }

/-- resume (R141): the reserve is repaid and the group goes on at %lret, or takes the hard path; in a clamp landing of a
deterministic launch it takes the hard path (R389). -/
def execResume (st : BitVec 3) (s : State) : Out :=
  issue (.resume st) s free fun x t =>
    match t.group? x.core x.slot with
    | none => .done t
    | some g =>
      let l := g.landing
      if !l.inres then .trap .illegal (wordOf (.resume st)) none
      else if g.aside.isSome then .done (t.hardPreempt x.core x.slot x.fid l.cause x.unit)
      else if l.clampp then .done (t.hardPreempt x.core x.slot x.fid 3#2 x.unit)
      else if g.ibud ≤ l.ires ∨ g.mbud ≤ l.mres then .done (t.hardPreempt x.core x.slot x.fid l.cause x.unit)
      else
        match badTarget l.lret with
        | some e => .trap e l.lret none
        | none =>
          let g1 := { g with ibud := g.ibud - l.ires, mbud := g.mbud - l.mres }.endLanding
          .done (t.setGroup (g1.modFrag x.fid fun f => { f with pc := l.lret }))

/-- topup (R143): the whole request or nothing. -/
def execTopup (st : BitVec 3) (d a b : BitVec 6) (s : State) : Out :=
  issue (.topup st d a b) s free fun x t =>
    match t.group? x.core x.slot, t.team? x.g.team with
    | some g, some m =>
      let u := (x.s a).toNat
      let n := (x.s b).toNat
      if g.landing.topr ∧ u ≤ m.ipool ∧ n ≤ m.mpool ∧ g.ibud + u < 2 ^ 48 ∧ g.mbud + n < 2 ^ 48 then
        .done ((t.setGroup ({ g with ibud := g.ibud + u, mbud := g.mbud + n }.putS x d 0 1#64)).modTeam x.g.team fun m =>
          { m with ipool := m.ipool - u, mpool := m.mpool - n })
      else .done (t.setGroup (g.putS x d 0 0#64))
    | _, _ => .done t

/-- The number of a part's variant field (R2). -/
def Variant.code : Variant → Nat
  | .kn960 => 1
  | .kn960l => 2
  | .kn480 => 3

/-- CXL ports of the part (R1, R2). -/
def Variant.cxlPorts : Variant → Nat
  | .kn960 => 4
  | .kn960l => 4
  | .kn480 => 2

/-- The fields of %caps and of the capability block (R2, R456). -/
def Variant.capBits (v : Variant) (t2 : Bool) : Nat :=
  v.code * 2 ^ 32 + Config.coresPerDie * v.dies * 2 ^ 16 + t2.toNat * 2 ^ 9 + v.cxlPorts * 2 ^ 6 + v.hasPeer.toNat * 2 ^ 5 +
    v.hasGate.toNat * 2 ^ 4 + v.dies

/-- %caps (R2). -/
def State.caps (s : State) (part : Nat) : Word :=
  BitVec.ofNat 64 (s.variant.capBits ((s.part? part).elim false fun p => !p.q2.isEmpty))

/-- %jsp (R88). -/
def Group.jsp (g : Group) : Word :=
  let top := g.stack.getLast?
  let kind := top.elim 0 fun e => if e.isTrap then 2 else 1
  BitVec.ofNat 64 (g.traps * 2 ^ 24 + top.elim 0 (·.id.toNat) * 2 ^ 16 + kind * 2 ^ 8 + g.stack.length)

/-- %pev (R153). -/
def Group.pev (g : Group) : Word :=
  BitVec.ofNat 64 ((g.slotBits (·.pers)).toNat * 2 ^ 16 + (g.slotBits fun _ => true).toNat * 2 ^ 8 + (g.slotBits (·.pend)).toNat)

/-- The session a launch names, when the launch names one. -/
def State.sessionOf (s : State) (g : Group) : Option Session :=
  match s.recordOf g with
  | some r => if r.sess then s.sessions.find? fun x => x.sid == r.sid else none
  | none => none

/-- The role of a partition in a session (R321). -/
def Session.role (x : Session) (part : Nat) : Nat := if x.part0 = some part then 0 else 1

/-- The peer of a partition in a session (R324). -/
def Session.other (x : Session) (part : Nat) : Nat := ((if x.part0 = some part then x.part1 else x.part0).getD 0)

/-- %gsess (R324): the words the dispatcher wrote at placement; VALID is 0 once the session is revoked. -/
def State.gsess (s : State) (g : Group) : Word :=
  match s.sessionOf g with
  | some x => BitVec.ofNat 64 (x.frac * 2 ^ 32 + g.sessValid.toNat * 2 ^ 31 + x.other g.part % 64 * 2 ^ 16 + x.sid % 32)
  | none => 0#64

/-- %grole (R325). -/
def State.grole (s : State) (g : Group) : Word :=
  match s.sessionOf g with
  | some x =>
    let role := x.role g.part
    BitVec.ofNat 64 ((!g.team.origin).toNat * 4 + (natBit x.reveal role).toNat * 2 + role)
  | none => 0#64

/-- %gid (R91, R372). -/
def State.gid (s : State) (g : Group) (fid : Nat) : Word :=
  let n := if g.team.origin then 1 else (s.recordOf g).elim 1 (·.groups)
  BitVec.ofNat 64 ((n - 1) % 32 * 2 ^ 24 + fid % 4 * 2 ^ 16 + g.slot % 32 * 2 ^ 8 + g.gidx % 32)

/-- %cid (R91). -/
def State.cid (s : State) (g : Group) : Word :=
  match s.team? g.team with
  | some t =>
    let n := t.shape
    let cts := if n = 2 then 1 else if n = 4 then 2 else 0
    let ct := if n > 1 ∧ !g.team.origin then g.team.index / n else 0
    BitVec.ofNat 64 (ct * 2 ^ 16 + cts * 2 ^ 12 + t.pos % 4 * 2 ^ 10 + g.core % 1024)
  | none => BitVec.ofNat 64 (g.core % 1024)

/-- %role (R91, R97, R372). -/
def State.role (s : State) (g : Group) : Word :=
  match s.recordOf g with
  | some r =>
    if g.team.origin then BitVec.ofNat 64 (2 ^ 8 + r.roles.toNat % 16)
    else BitVec.ofNat 64 (r.prod % 32 * 2 ^ 16 + (if r.prod = g.gidx then 2 ^ 8 else 0) + (r.roles >>> (4 * g.gidx)).toNat % 16)
  | none => 0#64

/-- The value of a special register (R90 to R96, R120): `x.g` is the group before the word, `g` after its charge; %clock of a
deterministic launch does not count the word that reads it, %qpos.QCNT does (DESIGN CHOICE, log 66). -/
def State.special (s : State) (x : Ctx) (g : Group) (n : BitVec 6) : Word :=
  match n.toNat with
  | 0x00 => s.gid g x.fid
  | 0x01 => BitVec.ofNat 64 g.team.index
  | 0x02 => s.cid g
  | 0x03 => BitVec.ofNat 64 (g.part % 64)
  | 0x04 => ((s.recordOf g).elim 0#32 (·.lid)).setWidth 64
  | 0x05 => s.role g
  | 0x08 => BitVec.ofNat 64 (g.ibud % 2 ^ 48)
  | 0x09 => BitVec.ofNat 64 (g.mbud % 2 ^ 48)
  | 0x0A => g.landing.land
  | 0x0B => g.landing.lret
  | 0x0C => g.landing.value
  | 0x0D => BitVec.ofNat 64 (g.landing.topr.toNat * 2 ^ 32 + g.landing.mres * 2 ^ 16 + g.landing.ires)
  | 0x0E => (s.team? g.team).elim 0#64 fun t => BitVec.ofNat 64 (t.mpool * 2 ^ 32 + t.ipool)
  | 0x10 => g.pev
  | 0x11 => g.evm.setWidth 64
  | 0x12 => g.evinfo
  | 0x14 => g.jsp
  | 0x15 => g.trap.tvec
  | 0x16 => g.trap.tdeliver.setWidth 64
  | 0x17 => BitVec.ofNat 64 (g.trap.frag.toNat * 2 ^ 16 + g.trap.replay.toNat * 2 ^ 9 + g.trap.defer.toNat * 2 ^ 8 + g.trap.cause.toNat)
  | 0x18 => g.trap.taddr
  | 0x19 => g.trap.tmask
  | 0x1C => if s.isDet g then BitVec.ofNat 64 x.g.retired else BitVec.ofNat 64 x.now
  | 0x1D => BitVec.ofNat 64 x.g.icnt
  | 0x20 => g.fflags.setWidth 64
  | 0x21 => BitVec.ofNat 64 (g.privl.toNat * 2 ^ 63 + g.rm.toNat * 2 + g.ftz.toNat)
  | 0x22 => BitVec.ofNat 64 (g.lchk.toNat * 2 + (g.uchk || s.isDet g).toNat)
  | 0x24 => (s.launch? g.team.uid).elim 0#64 (·.seed)
  | 0x25 => BitVec.ofNat 64 ((s.team? g.team).elim 0 (·.vfree) * 2 ^ 16 + g.valloc)
  | 0x26 => s.caps g.part
  | 0x30 => s.gsess g
  | 0x31 => s.grole g
  | 0x32 => BitVec.ofNat 64 (g.injArm.toNat * 2 ^ 63 + g.injKind.toNat * 2 ^ 32 + g.injAfter.toNat)
  | 0x38 => if s.isDet g then BitVec.ofNat 64 (g.qround.toNat * 2 ^ 32 + g.qcnt % 2 ^ 17) else 0#64
  | k =>
    if 0x28 ≤ k ∧ k ≤ 0x2F then
      let t := g.shape (k - 0x28)
      BitVec.ofNat 64 ((t.rows - 1) * 2 ^ 24 + t.ew.toNat * 2 ^ 16 + t.cols)
    else 0#64

/-- A read or a write of %fflags waits for the flags of the words the group has issued before it (R122). -/
def Ctx.flagsPre (x : Ctx) (n : BitVec 6) : Pre := if n = 0x20#6 ∧ x.g.flagsAt > x.now then .hold else .go 0 0

/-- gets (R89, R120, R122). -/
def execGets (st : BitVec 3) (d n : BitVec 6) (s : State) : Out :=
  issue (.gets st d n) s (fun x _ => x.flagsPre n) fun x t =>
    match t.group? x.core x.slot with
    | some g => .done (t.setGroup (g.putS x d 0 (t.special x g n)))
    | none => .done t

/-- A shape that `sets` of %tcn refuses (R95). -/
def TileShape.bad (t : TileShape) : Bool :=
  t.cols == 0 || (t.ew == 0#2 && t.cols % 2 == 1) || decide (t.cols * (4 * 2 ^ t.ew.toNat) > 8 * 256) ||
  decide (t.rows * t.rowBytes > 16384)

/-- What a `sets` of a special register answers (R89): the new group and team, or a trap. -/
inductive SetRes where
  | group (g : Group)
  | pool (i m : Nat)
  | trap (c : Cause) (addr : Word)

/-- The fragment that %lcause now names as the landing fragment is not held by the landing (R135). -/
def Group.freeLanding (g : Group) (f : Nat) : Group :=
  g.modFrag f fun x => { x with heldLand := false, state := if x.state = .held ∧ x.heldTrap = none then .ready else x.state }

/-- The value that `sets` writes under the field rules of each register (R92 to R95, R121, R126 to R130, R146, R153 to
R155, R326, R387, R399). An address whose low bits and whose high bits are both wrong traps ALIGN, and %evinfo.SRC
takes every value, also those that R151 reserves (DESIGN CHOICE, log 66). A write of %lcause that makes INRES 1 holds the other fragments (R135), and an MBOX slot takes no pending bit from an empty mailbox (R152). -/
def setSpecial (det : Bool) (g : Group) (n : BitVec 6) (v w : Word) : SetRes :=
  let illegal := SetRes.trap .illegal w
  let addr := fun (f : Group) => match badTarget v with
    | some e => SetRes.trap e v
    | none => SetRes.group f
  match n.toNat with
  | 0x08 => .group { g with ibud := field v 47 0 }
  | 0x09 => .group { g with mbud := field v 47 0 }
  | 0x0A => addr { g with landing := { g.landing with land := v } }
  | 0x0B => addr { g with landing := { g.landing with lret := v } }
  | 0x0C =>
    let l := { g.landing with cause := v.extractLsb' 0 2, frag := v.extractLsb' 4 2 }
    if g.landing.inres ∧ !v.getLsbD 6 then .group { g with landing := l }.endLanding
    else
      let g1 : Group := { g with landing := { l with inres := v.getLsbD 6, clampp := v.getLsbD 7 } }
      .group (if v.getLsbD 6 then (g1.freeLanding l.frag.toNat).holdForLanding l.frag.toNat else g1)
  | 0x0D =>
    let i := field v 10 0
    let m := field v 26 16
    if i < 16 ∨ i > 1024 ∨ m < 16 ∨ m > 1024 then illegal
    else .group { g with landing := { g.landing with topr := v.getLsbD 32, mres := m, ires := i } }
  | 0x0E => .pool (field v 31 0) (field v 63 32)
  | 0x10 => .group { g with slots := Vector.ofFn fun e => (g.slots[e.val]).map fun b =>
      { b with pend := v.getLsbD e.val && (srcKind b.desc != 3 || !g.mailbox.isEmpty) } }
  | 0x11 => .group { g with evm := v.setWidth 8 }
  | 0x12 => .group { g with evinfo := v &&& 0xF0070000FFFFFFFF#64 }
  | 0x15 => addr { g with trap := { g.trap with tvec := v } }
  | 0x16 => .group { g with trap := { g.trap with tdeliver := v.setWidth 32 &&& inGroupMask } }
  | 0x17 => .group { g with trap := { g.trap with
      frag := v.extractLsb' 16 2, replay := v.getLsbD 9, defer := v.getLsbD 8, cause := v.setWidth 8 } }
  | 0x18 => .group { g with trap := { g.trap with taddr := v } }
  | 0x19 => .group { g with trap := { g.trap with tmask := v } }
  | 0x20 => .group { g with fflags := v.setWidth 6 }
  | 0x21 =>
    let r := field v 3 1
    if r = 0 ∨ r > 5 then illegal else .group { g with rm := BitVec.ofNat 3 r, ftz := v.getLsbD 0 }
  | 0x22 => .group { g with lchk := v.getLsbD 1, uchk := if det then g.uchk else v.getLsbD 0 }
  | 0x32 =>
    if field v 33 32 ≥ 2 then illegal
    else .group { g with
      injArm := v.getLsbD 63, injKind := v.extractLsb' 32 2, injAfter := v.setWidth 16,
      injCount := if v.getLsbD 63 then 0 else g.injCount }
  | 0x38 => if det then .group { g with qround := v.extractLsb' 32 32, qcnt := field v 16 0 } else .group g
  | k =>
    if 0x28 ≤ k ∧ k ≤ 0x2F then
      let t : TileShape := ⟨field v 30 24 + 1, v.extractLsb' 16 2, field v 9 0⟩
      if t.bad then illegal else .group (g.setShape (k - 0x28) t)
    else .group g

/-- A `tld` or a `tzero` of the group, by whichever fragment, has still to write the tile (R122, R300). -/
def Group.tilePending (g : Group) (now tile : Nat) : Bool :=
  (g.flying.any fun p => p.early now && p.isX (.t (BitVec.ofNat 3 tile))) || g.tlds.any fun r => r.tile == tile

/-- A word of the group issued before still reads or writes the tile: a matrix operation, or a `tld` or a `tzero` (R122). -/
def State.tileBusy (s : State) (core slot tile : Nat) : Bool :=
  (s.group? core slot).elim false (fun g => g.tilePending s.clock tile) ||
  s.engines.any fun e => e.core == core && e.queue.any fun q => q.slot == slot && (q.ta == tile || q.tb == tile)

/-- The issue of a `sets` word (R89, R121, R122). -/
def setsWord (i : Instr) (n a : BitVec 6) (s : State) : Out :=
  issue i s
    (fun x t => if 0x28 ≤ n.toNat ∧ n.toNat ≤ 0x2F ∧ t.tileBusy x.core x.slot (n.toNat - 0x28) then .hold else x.flagsPre n)
    fun x t =>
      match t.group? x.core x.slot with
      | none => .done t
      | some g =>
        match setSpecial (t.isDet g) g n (x.s a) (wordOf i) with
        | .group g1 => .done (t.setGroup g1)
        | .pool ip mp => .done (t.modTeam g.team fun m => { m with ipool := ip, mpool := mp })
        | .trap e v => .trap e v none

/-- sets (R121). -/
def execSets (st : BitVec 3) (n a : BitVec 6) (s : State) : Out := setsWord (.sets st n a) n a s

/-- sets of %ginj (R326). -/
def execSetsGinj (st : BitVec 3) (a : BitVec 6) (s : State) : Out := setsWord (.setsGinj st a) 0x32#6 a s

/-- sets of %lcause (R128, R146). -/
def execSetsLcause (st : BitVec 3) (a : BitVec 6) (s : State) : Out := setsWord (.setsLcause st a) 0x0C#6 a s

end Sys2Proof.Machine
end

