-- ==== Sys2Proof/Machine/Batch.lean ====
section
/-! DEFINITION. Machine/Batch.lean: the completion of sealed batches (R173). -/

namespace Sys2Proof.Machine

/-- An operation of a batch is still in the streamer, the matrix engine or the gate (R173): also a gate word whose fault is not handled, and
for class g the skip of the stream that comes before an abort completes its batches (R344 steps 4 and 5). -/
def State.batchBusy (s : State) (g : Group) (cls : BatchClass) (n : BitVec 32) : Bool :=
  match cls with
  | .c => g.copies.any fun c => c.batch == n
  | .m => s.engines.any fun e => e.core == g.core && e.queue.any fun q => q.slot == g.slot && q.batch == n
  | .g => g.skip.isSome || g.lost.contains n || g.gates.any fun w => w.joins && w.batch == n

/-- A sealed batch may not complete yet: it has work, or an access that the group issued before its `seal` is not performed, since
a completion is a release, and so until the hamper is empty (R173, R253). (DEDUCED, log 69) -/
def State.batchHeld (s : State) (g : Group) (cls : BatchClass) (b : Sealed) : Bool :=
  s.batchBusy g cls b.num || !g.quietBefore b.order || !g.drained

/-- The oldest sealed batch of a class leaves the outstanding count: waits continue and BATCH sources latch (R152, R173,
R174). -/
def Group.leaveBatch (g : Group) (cls : BatchClass) (code : Nat) : Group :=
  match (g.batch cls).seals with
  | [] => g
  | b :: rest =>
    let g1 := g.setBatch cls { g.batch cls with seals := rest, latest := b.num }
    (g1.wakeBatch cls).latch fun x =>
      srcKind x.desc == 2 && field x.desc 1 0 == code && decide (rest.length ≤ field x.desc 15 8)

/-- The oldest sealed batch of a class completes (R173): its completion word (R289), its peg arrival, its count, its
events. -/
def State.completeBatch (s : State) (core slot code : Nat) : State :=
  let cls := BatchClass.ofCode code
  match s.group? core slot with
  | none => s
  | some g =>
    match (g.batch cls).seals with
    | [] => s
    | b :: _ =>
      let s1 := match b.word with
        | some (off, v) =>
          let w := if b.short then v ||| 0x80000000#32 else v
          s.windowWrite g.team ((List.range 4).map (off + ·)) (leBytes 4 w.toNat)
        | none => s
      let s2 := match b.peg with
        | some h => match s1.peg? g h with
          | some p => (s1.pegArrive p 1 (if code = 0 then b.payload else 0)).drop g h
          | none => s1
        | none => s1
      s2.modGroup core slot fun g => g.leaveBatch cls code

/-- Complete the batches of a class in order while the oldest has nothing outstanding; at most `n` of them. -/
def State.completeReady (s : State) (core slot code : Nat) (upTo : Nat → Bool) : Nat → State
  | 0 => s
  | n + 1 =>
    let cls := BatchClass.ofCode code
    match s.group? core slot with
    | none => s
    | some g =>
      match (g.batch cls).seals with
      | [] => s
      | b :: _ =>
        if s.batchHeld g cls b ∨ !upTo b.round then s
        else (s.completeBatch core slot code).completeReady core slot code upTo n

end Sys2Proof.Machine
end

