-- ==== Sys2Proof/Machine/EventWords.lean ====
section
/-! DEFINITION. Machine/EventWords.lean: event slots, wait-any, mailboxes, pegs and batches (R149 to R175). -/

namespace Sys2Proof.Machine

/-- The 64-byte lines a staged entry holds (R380), by virtual address; a copy holds those it will write. -/
def Staged.lines : Staged → List Nat
  | .write r => r.lanes.flatMap fun l =>
      (List.range r.size).map fun i => (l.ea.toNat % 2 ^ 55 + i) / 64
  | .copy _ lines _ _ => lines
  | _ => []

/-- Whether a staged entry is one of the 16 others (R380). -/
def Staged.other : Staged → Bool
  | .write _ => false
  | .copy .. => false
  | _ => true

/-- The other entries a group holds (R380): its staged ones, and the peg arrivals of the batches it has sealed in the round. -/
def Group.others (g : Group) : Nat :=
  (g.staged.filter Staged.other).length +
    ((g.bc.seals ++ g.bm.seals ++ g.bg.seals).filter fun b => b.peg.isSome && b.round == g.qround.toNat).length

/-- A list has more than `n` distinct entries. -/
def moreThan (n : Nat) (l : List Nat) : Bool :=
  decide ((l.foldl (fun (seen : List Nat) x => if seen.length > n ∨ seen.contains x then seen else x :: seen) []).length > n)

/-- The staging has no room for more lines and other entries (R379, R380). -/
def Group.stageFull (g : Group) (lines : List Nat) (others : Nat) : Bool :=
  moreThan 64 (g.staged.flatMap Staged.lines ++ lines) || decide (g.others + others > 16)

/-- A precondition of a word that stages: the quantum ends before a word that finds the staging full; one that comes first in its round, its
unit's own hint words apart, issues whatever it stages (R379). (DEDUCED, log 59) -/
def Ctx.stagePre (x : Ctx) (s : State) (lines : List Nat) (others : Nat) (k : Pre) : Pre :=
  match s.group? x.core x.slot with
  | some g => if s.isDet g && decide (g.qcnt > x.hs.length) && g.stageFull lines others then .stop (s.endQuantum x.core x.slot) else k
  | none => k

/-- Reserved bits of a source descriptor (R151). -/
def descReserved (d : Word) : Bool :=
  match srcKind d with
  | 1 => field d 59 48 != 0
  | 2 => field d 59 16 != 0 || field d 7 2 != 0
  | 3 => field d 59 0 != 0
  | 4 => field d 58 52 != 0
  | 5 => field d 59 48 != 0
  | 6 => field d 59 0 != 0
  | 7 => field d 59 0 != 0
  | _ => true

/-- The checks of `ebind`, in the order of R156. -/
def bindFault (s : State) (g : Group) (w d h : Word) : Option (Cause × Word) :=
  let kind := srcKind d
  let window := (s.team? g.team).elim 0 (·.scratch)
  if descReserved d ∨ (kind = 7 ∧ s.isDet g) then some (.illegal, w)
  else if kind = 7 ∧ !g.privl then some (.priv, w)
  else if kind = 6 ∧ !s.variant.hasGate then some (.absent, w)
  else if kind = 6 ∧ ((s.sessionOf g).isNone ∨ !g.sessValid) then some (.gateSession, 1#64)
  else if kind = 1 ∧ (s.peg? g (BitVec.ofNat 64 (field d 31 0))).isNone then some (.illegal, w)
  else if kind = 2 ∧ field d 1 0 = 3 then some (.illegal, w)
  else if kind = 4 ∧ field d 51 32 % 4 ≠ 0 then some (.align, BitVec.ofNat 64 (field d 51 32))
  else if kind = 4 ∧ field d 51 32 + 4 > window then some (.scratch, BitVec.ofNat 64 (field d 51 32))
  else (badTarget h).map fun e => (e, h)

/-- The peg a binding refers to, if any. -/
def Binding.peg? (b : Binding) : Option Word := if srcKind b.desc = 1 then some (BitVec.ofNat 64 (field b.desc 31 0)) else none

/-- Unbind a slot and drop its reference (R157, R165). -/
def State.unbind (s : State) (core slot e : Nat) : State :=
  match s.group? core slot with
  | none => s
  | some g =>
    match g.slotAt e with
    | none => s
    | some b =>
      let s1 := s.setGroup (g.setSlot e none)
      match b.peg? with
      | some h => s1.drop g h
      | none => s1

/-- Bind a slot afresh (R152, R156): a PEG source takes a reference before any earlier binding drops its own (R165), and a condition that
already holds latches at once. -/
def State.bindSlot (s : State) (core slot e : Nat) (pers : Bool) (d h : Word) (now : Nat) : State :=
  match s.group? core slot with
  | none => s
  | some g0 =>
    let count := field d 47 0
    let zero := srcKind d == 5 && count == 0
    let b : Binding := ⟨d, h, pers, s.holdsNow g0 d, (if s.isDet g0 then g0.retired else now) + count, if zero then 1 else 0⟩
    let s1 := match b.peg? with
      | some p => s.hold g0 p
      | none => s
    (s1.unbind core slot e).modGroup core slot fun g => g.setSlot e (some b)

/-- The issue of an `ebind` word (R156). -/
def bindWord (i : Instr) (d : BitVec 3) (a b : BitVec 6) (pers : Bool) (s : State) : Out :=
  issue i s free fun x t =>
    match bindFault t x.g (wordOf i) (x.s a) (x.s b) with
    | some (e, v) => .trap e v none
    | none => .done (t.bindSlot x.core x.slot d.toNat pers (x.s a) (x.s b) x.now)

/-- ebind, one-shot (R156). -/
def execEbind (st d : BitVec 3) (a b : BitVec 6) (s : State) : Out := bindWord (.ebind st d a b) d a b false s

/-- ebind, persistent (R156). -/
def execEbindPers (st d : BitVec 3) (a b : BitVec 6) (s : State) : Out := bindWord (.ebindPers st d a b) d a b true s

/-- eunbind (R157). -/
def execEunbind (st d : BitVec 3) (s : State) : Out :=
  issue (.eunbind st d) s free fun x t => .done (t.unbind x.core x.slot d.toNat)

/-- Park the issuing fragment at its unit (R99). (DEDUCED, log 22) -/
def Group.park (g : Group) (x : Ctx) (state : FState) (w : Wait) : Group :=
  g.modFrag x.fid fun f => { f with state := state, wait := w, pc := x.unit, parkedAt := x.now }

/-- The slots that a `wany` may deliver (R158): in a deterministic launch those that the commit left wanted (R379). -/
def State.wantedNow (s : State) (g : Group) : BitVec 8 := if s.isDet g then g.wanted &&& g.atRound else g.wanted

/-- wany (R158, R379): deliver the lowest wanted slot at once, or park. -/
def execWany (st : BitVec 3) (s : State) : Out :=
  issue (.wany st) s free fun x t =>
    match t.group? x.core x.slot with
    | none => .done t
    | some g =>
      if g.slotBits (fun _ => true) &&& ~~~g.evm = 0#8 then .trap .illegal (wordOf (.wany st)) none
      else if t.wantedNow g ≠ 0#8 then .done (t.deliverEvent x.core x.slot (lowBit (t.wantedNow g)) x.fid)
      else x.upd t fun g => g.park x .inWany .none

/-- The team an `mpost` target names (R162): the issuing team, or the team at POS of its cluster team. -/
def State.postTeam (s : State) (t : Team) (v : Word) : Option Team :=
  if v.getLsbD 15 then
    s.teams.find? fun x => x.key.uid == t.key.uid && x.key.origin == t.key.origin &&
      x.key.index / t.shape == t.key.index / t.shape && x.pos == field v 9 8
  else some t

/-- Post a token to a group of a team (R162): 2 when it has ended, 0 when its mailbox is full, else 1. One of a deterministic launch
counts until the commit of its round ends (R393). -/
def State.postToken (s : State) (key : TeamKey) (gidx : Nat) (token : BitVec 32) : Word × State :=
  match s.groups.find? fun g => g.team == key && g.gidx == gidx && (!g.ending || s.isDet g) with
  | none => (2#64, s)
  | some g => if g.mailbox.length ≥ 4 then (0#64, s) else (1#64, s.setGroup (g.post token))

/-- What an `mpost` answers before it posts (R162): a trap, or the team and group it names. -/
def State.postTarget (s : State) (g : Group) (v w : Word) : Except (Cause × Word) (Option (TeamKey × Nat)) :=
  match s.team? g.team with
  | none => .ok none
  | some t =>
    let ct := v.getLsbD 15
    if v.toNat / 2 ^ 16 ≠ 0 ∨ field v 14 10 ≠ 0 ∨ field v 7 5 ≠ 0 ∨ (!ct ∧ field v 9 8 ≠ 0) then .error (.illegal, w)
    else if ct ∧ (t.shape ≤ 1 ∨ field v 9 8 ≥ t.shape) then .error (.illegal, w)
    else if field v 4 0 ≥ t.groups then .error (.illegal, w)
    else
      match s.postTeam t v with
      | none => .error (.peergone, 0#64)
      | some p => .ok (some (p.key, field v 4 0))

/-- The core of a group's target is frozen, so the post is held (R162, R226, R420). -/
def State.postHeld (s : State) (g : Group) (v : Word) : Bool :=
  match s.postTarget g v 0#64 with
  | .ok (some (k, _)) => (s.team? k).elim false fun t => s.frozen.contains t.core
  | _ => false

/-- A post to a group's target would be taken now (R162): only then is it a release. In a deterministic launch the commit decides. -/
def State.postTakes (s : State) (g : Group) (v : Word) : Bool :=
  match s.postTarget g v 0#64 with
  | .ok (some (k, n)) => s.isDet g || (s.postToken k n 0#32).1 == 1#64
  | _ => false

/-- mpost (R162): a release (R253), unless it traps or is refused; a commit-point word of a deterministic launch (R379). -/
def execMpost (st : BitVec 3) (d a b : BitVec 6) (s : State) : Out :=
  issue (.mpost st d a b) s
    (fun x t => match t.group? x.core x.slot with
      | some g => if (!g.quiet ∧ t.postTakes g (x.s a)) ∨ t.postHeld g (x.s a) then .hold else x.stagePre t [] 1 (.go 0 0)
      | none => .hold)
    fun x t =>
      match t.postTarget x.g (x.s a) (wordOf (.mpost st d a b)) with
      | .error (e, v) => .trap e v none
      | .ok none => .done t
      | .ok (some (k, n)) =>
        let token := (x.s b).setWidth 32
        if t.isDet x.g then
          x.upd t fun g => { g with commit := some (.post (x.s a) token d x.fid), qdone := true }
        else
          let (r, t1) := t.postToken k n token
          x.upd t1 fun g => g.putS x d 0 r

/-- The lowest free index of a pool, and the generation of that peg (R163, R167). -/
def State.freePeg (s : State) (cluster : Bool) (pool size : Nat) : Option (Nat × BitVec 8) :=
  let at' := fun (i : Nat) => s.pegs.find? fun p => p.cluster == cluster && p.pool == pool && p.index == i
  ((List.range size).find? fun i => !(at' i).elim false (·.live)).map fun i => (i, (at' i).elim 0#8 (·.gen))

/-- The pegs an owner holds of a scope. -/
def State.pegsOf (s : State) (cluster : Bool) (pool : Nat) (mine : TeamKey → Bool) : Nat :=
  (s.pegs.filter fun p => p.live && p.cluster == cluster && p.pool == pool && mine p.owner).length

/-- Two teams belong to one cluster team of more than one team (R71). -/
def Team.mates (t x : Team) : Bool :=
  t.shape > 1 && !t.key.origin && !x.key.origin && x.key.uid == t.key.uid && x.key.index / t.shape == t.key.index / t.shape

/-- A team of a deterministic launch keeps its allotment of pegs (R385, R386): 8 of team scope and, for each cluster
team, 4 of cluster scope, as long as a team of it is resident, which the lowest position stands for. (DESIGN CHOICE, log 29) -/
def State.allotted (s : State) (cluster : Bool) (pool : Nat) : Nat :=
  let det := s.teams.filter fun t =>
    (s.launch? t.key.uid).elim false (·.record.det) &&
      (if cluster then t.shape > 1 && !t.key.origin && clusterOf t.core == pool && !s.teams.any fun x => t.mates x && decide (x.pos < t.pos)
      else t.core == pool)
  det.foldl (fun n t =>
    let quota := if cluster then 4 else 8
    n + (quota - s.pegsOf cluster pool (fun k => if cluster then k.uid == t.key.uid && !k.origin && k.index / t.shape == t.key.index / t.shape
      else k == t.key))) 0

/-- Allocate a peg for a group (R167, R385): its handle, or 0. -/
def State.pegAlloc (s : State) (g : Group) (cfg : Word) : Word × State :=
  let cluster := cfg.getLsbD 63
  let pool := if cluster then clusterOf g.core else g.core
  let size := if cluster then Config.clusterPegs else Config.teamPegs
  let shape := s.shapeOf g
  let mine := fun (k : TeamKey) => if cluster then k.uid == g.team.uid && !k.origin && k.index / shape == g.team.index / shape else k == g.team
  let room :=
    if s.isDet g then decide (s.pegsOf cluster pool mine < (if cluster then 4 else 8))
    else decide (s.pegsOf cluster pool (fun _ => true) + s.allotted cluster pool < size)
  match s.freePeg cluster pool size with
  | some (i, gen) =>
    if room then
      let n := field cfg 15 0
      let y := field cfg 47 16
      let p : Peg := ⟨cluster, pool, i, gen, true, g.team, n, y, 0#16, n, y, 1, 0⟩
      (p.handle, { s with pegs := (s.pegs.filter fun q => !q.same p) ++ [p] })
    else (0#64, s)
  | none => (0#64, s)

/-- pegget (R167); a commit-point word of a deterministic launch (R379, R385). -/
def execPegget (st : BitVec 3) (d a : BitVec 6) (s : State) : Out :=
  issue (.pegget st d a) s free fun x t =>
    let cfg := x.s a
    if field cfg 62 48 ≠ 0 ∨ field cfg 15 0 = 0 ∨ (cfg.getLsbD 63 ∧ (t.shapeOf x.g ≤ 1 ∨ x.g.team.origin)) then
      .trap .illegal (wordOf (.pegget st d a)) none
    else if t.isDet x.g then x.upd t fun g => { g with commit := some (.pegget cfg d x.fid), qdone := true }
    else
      let (h, t1) := t.pegAlloc x.g cfg
      x.upd t1 fun g => g.putS x d 0 h

/-- pegref (R165, R168): one explicit reference more, at most 65,535 in all. -/
def execPegref (st : BitVec 3) (a : BitVec 6) (s : State) : Out :=
  issue (.pegref st a) s free fun x t =>
    match t.peg? x.g (x.s a) with
    | some p =>
      if p.explicit + p.implicit ≥ 65535 then .trap .illegal (wordOf (.pegref st a)) none
      else .done (t.setPeg { p with explicit := p.explicit + 1 })
    | none => .trap .illegal (wordOf (.pegref st a)) none

/-- pegput (R165, R168): one explicit reference less; a peg without references returns to its pool. -/
def execPegput (st : BitVec 3) (a : BitVec 6) (s : State) : Out :=
  issue (.pegput st a) s free fun x t =>
    match t.peg? x.g (x.s a) with
    | some p =>
      if p.explicit = 0 then .trap .illegal (wordOf (.pegput st a)) none
      else .done (t.setPeg { p with explicit := p.explicit - 1 }.settle)
    | none => .trap .illegal (wordOf (.pegput st a)) none

/-- pegarr (R169): arrives with sB arrivals and 0 bytes, a release (R253) unless it traps; staged in a deterministic
launch (R380). -/
def execPegarr (st : BitVec 3) (a b : BitVec 6) (s : State) : Out :=
  issue (.pegarr st a b) s
    (fun x t => match t.group? x.core x.slot with
      | some g =>
        let arrives := (t.peg? g (x.s a)).isSome && decide (1 ≤ (x.s b).toNat ∧ (x.s b).toNat ≤ 65535)
        if !g.quiet ∧ arrives then .hold else x.stagePre t [] 1 (.go 0 0)
      | none => .hold)
    fun x t =>
      let k := (x.s b).toNat
      match t.peg? x.g (x.s a) with
      | some p =>
        if k = 0 ∨ k > 65535 then .trap .illegal (wordOf (.pegarr st a b)) none
        else if t.isDet x.g then x.upd t fun g => { g with staged := g.staged ++ [.arrive (x.s a) k] }
        else .done (t.pegArrive p k 0)
      | none => .trap .illegal (wordOf (.pegarr st a b)) none

/-- pegwait (R166, R170): go on when the phase is reached, or park with a reference. -/
def execPegwait (st : BitVec 3) (a b : BitVec 6) (s : State) : Out :=
  issue (.pegwait st a b) s free fun x t =>
    let ph := (x.s b).setWidth 16
    match t.peg? x.g (x.s a) with
    | some p =>
      if reached p.phase ph then .done t
      else x.upd (t.hold x.g (x.s a)) fun g => g.park x .inPegwait (.peg (x.s a) ph x.next)
    | none => .trap .illegal (wordOf (.pegwait st a b)) none

/-- The number the open batch of a class will receive (R171). -/
def Batches.openNum (b : Batches) : BitVec 32 := b.counter + 1#32

/-- Seal the open batch (R171): it takes the next number, and an empty one opens. -/
def Batches.seal (b : Batches) (peg : Option Word) (word : Option (Nat × BitVec 32)) (round order : Nat) : Batches :=
  { b with counter := b.openNum, seals := b.seals ++ [Sealed.mk b.openNum peg word b.payload b.short round order], payload := 0, short := false }

/-- seal (R171, R172). -/
def execSeal (st : BitVec 3) (d a b : BitVec 6) (c : BitVec 2) (s : State) : Out :=
  let cls := BatchClass.ofCode c.toNat
  issue (.seal st d a b c) s
    (fun x t => match t.group? x.core x.slot with
      | some g =>
        if (g.batch cls).seals.length ≥ Config.maxBatches then .hold
        else x.stagePre t [] (if d = 0#6 then 0 else 1) (.go 0 0)
      | none => .hold)
    fun x t =>
      let window := (t.team? x.g.team).elim 0 (·.scratch)
      let off := x.s a
      if d ≠ 0#6 ∧ (t.peg? x.g (x.s d)).isNone then .trap .illegal (wordOf (.seal st d a b c)) none
      else if a ≠ 0#6 ∧ off.toNat % 4 ≠ 0 then .trap .align off none
      else if a ≠ 0#6 ∧ off.toNat + 4 > window then .trap .scratch off none
      else
        let peg := if d = 0#6 then none else some (x.s d)
        let word := if a = 0#6 then none else some (off.toNat, (x.s b).setWidth 32)
        let t1 := match peg with
          | some h => t.hold x.g h
          | none => t
        let t2 : State := { t1 with nextReq := t1.nextReq + 1 }
        let sealed := fun (g : Group) => g.setBatch cls ((g.batch cls).seal peg word g.qround.toNat t1.nextReq)
        let t3 := t2.modGroup x.core x.slot sealed
        .done (if cls = .g ∧ !t.variant.hasGate ∧ !t.isDet x.g then t3.completeReady x.core x.slot 2 (fun _ => true) 64 else t3)

/-- waitb (R174, R311): go on when at most n sealed batches are outstanding, or park; without the gate, class g never waits (R171). -/
def execWaitb (st : BitVec 3) (c : BitVec 2) (i : BitVec 8) (s : State) : Out :=
  let cls := BatchClass.ofCode c.toNat
  issueG (.waitb st c i) s fun x g =>
    if (g.batch cls).seals.length ≤ i.toNat ∨ (cls = .g ∧ !s.variant.hasGate) then (if cls = .m then g.releaseBinds i.toNat else g)
    else g.park x .inWaitb (.batch cls i.toNat x.next)

end Sys2Proof.Machine
end

