-- ==== Sys2Proof/Machine/Float.lean ====
section
/-! DEFINITION. Machine/Float.lean: floating-point values, rounding and special functions (R177, R182 to R190). A value
is computed exactly, as a magnitude and a sticky mark, and is rounded once. -/

namespace Sys2Proof.Machine

/-- A format (R177): exponent bits and fraction bits. -/
structure Fmt where
  eb : Nat
  fb : Nat
  deriving DecidableEq, Repr

/-- FP32. -/
def Fmt.f32 : Fmt := ⟨8, 23⟩
/-- FP16. -/
def Fmt.f16 : Fmt := ⟨5, 10⟩
/-- BF16. -/
def Fmt.bf16 : Fmt := ⟨8, 7⟩

/-- The exponent bias. -/
def Fmt.bias (f : Fmt) : Nat := 2 ^ (f.eb - 1) - 1
/-- The exponent of the smallest normal. -/
def Fmt.emin (f : Fmt) : Int := 1 - (f.bias : Int)
/-- The exponent of the last place of a subnormal. -/
def Fmt.sub (f : Fmt) : Int := f.emin - (f.fb : Int)
/-- The bits of +∞. -/
def Fmt.inf (f : Fmt) : Nat := (2 ^ f.eb - 1) * 2 ^ f.fb
/-- The canonical NaN. -/
def Fmt.nan (f : Fmt) : Nat := f.inf + 2 ^ (f.fb - 1)
/-- The sign bit. -/
def Fmt.sign (f : Fmt) : Nat := 2 ^ (f.eb + f.fb)

/-- The sticky flags of %fflags (R93). -/
structure Flags where
  sat : Bool := false
  nv  : Bool := false
  dz  : Bool := false
  of  : Bool := false
  uf  : Bool := false
  nx  : Bool := false
  deriving DecidableEq, Repr

/-- No flag. -/
def Flags.zero : Flags := {}

/-- Flags together. -/
def Flags.or (a b : Flags) : Flags :=
  ⟨a.sat || b.sat, a.nv || b.nv, a.dz || b.dz, a.of || b.of, a.uf || b.uf, a.nx || b.nx⟩

/-- The bits of %fflags (R93). -/
def Flags.bits (a : Flags) : BitVec 6 :=
  BitVec.ofNat 6 (a.sat.toNat * 32 + a.nv.toNat * 16 + a.dz.toNat * 8 + a.of.toNat * 4 + a.uf.toNat * 2 + a.nx.toNat)

/-- An operand or an exact result: a magnitude m × 2^e, strictly between m and m + 1 units when `st` holds. -/
inductive FVal where
  | nan (signalling : Bool)
  | inf (neg : Bool)
  | fin (neg : Bool) (m : Nat) (e : Int) (st : Bool)
  deriving DecidableEq, Repr

/-- Zero of a sign. -/
def FVal.zero (neg : Bool) : FVal := .fin neg 0 0 false

/-- Read an encoding; with FTZ a subnormal is a zero of its sign (R177, R185). -/
def Fmt.decode (f : Fmt) (ftz : Bool) (x : Nat) : FVal :=
  let neg := x / f.sign % 2 == 1
  let e := x / 2 ^ f.fb % 2 ^ f.eb
  let fr := x % 2 ^ f.fb
  if e = 2 ^ f.eb - 1 then (if fr = 0 then .inf neg else .nan (fr / 2 ^ (f.fb - 1) == 0))
  else if e = 0 then (if ftz then .zero neg else .fin neg fr f.sub false)
  else .fin neg (fr + 2 ^ f.fb) (f.sub + ((e : Int) - 1)) false

/-- Absolute value, which changes only the sign (R188). -/
def FVal.abs : FVal → FVal
  | .nan q => .nan q
  | .inf _ => .inf false
  | .fin _ m e t => .fin false m e t

/-- Negation, which changes only the sign (R188). -/
def FVal.neg : FVal → FVal
  | .nan q => .nan q
  | .inf n => .inf (!n)
  | .fin n m e t => .fin (!n) m e t

/-- Times 2^k, exactly (R188). -/
def FVal.scale (k : Int) : FVal → FVal
  | .fin n m e t => .fin n m (e + k) t
  | v => v

/-- Whether a value is a zero. -/
def FVal.isZero : FVal → Bool
  | .fin _ m _ t => m == 0 && !t
  | _ => false

/-- The sign of a value. -/
def FVal.isNeg : FVal → Bool
  | .nan _ => false
  | .inf n => n
  | .fin n _ _ _ => n

/-- Whether a value is a NaN. -/
def FVal.isNan : FVal → Bool
  | .nan _ => true
  | _ => false

/-- Whether a value is a signalling NaN. -/
def FVal.isSnan : FVal → Bool
  | .nan q => q
  | _ => false

/-- The rounding of a magnitude to units of 2^q (R182): the number of units, and whether it is inexact. -/
def roundAt (mode : Nat) (neg : Bool) (m : Nat) (e : Int) (st : Bool) (q : Int) : Nat × Bool :=
  if q ≤ e then (m * 2 ^ (e - q).toNat + (if st ∧ ((mode = 3 ∧ !neg) ∨ (mode = 4 ∧ neg)) then 1 else 0), st)
  else
    let sh := (q - e).toNat
    let n := m / 2 ^ sh
    let r := m % 2 ^ sh
    let half := 2 ^ (sh - 1)
    let above := decide (r > half) || (r == half && st)
    let tie := r == half && !st
    let ix := r != 0 || st
    let up := match mode with
      | 1 => above || (tie && n % 2 == 1)
      | 2 => false
      | 3 => ix && !neg
      | 4 => ix && neg
      | _ => above || tie
    (if up then n + 1 else n, ix)

/-- The result of an overflow (R183). -/
def Fmt.overflow (f : Fmt) (mode : Nat) (neg : Bool) : Nat :=
  let toInf := mode == 1 || mode == 5 || (mode == 3 && !neg) || (mode == 4 && neg)
  (if neg then f.sign else 0) + (if toInf then f.inf else f.inf - 1)

/-- Round an exact value to a format (R182 to R185): the encoding and the flags it raises. -/
def Fmt.round (f : Fmt) (mode : Nat) (ftz : Bool) : FVal → Nat × Flags
  | .nan q => (f.nan, { nv := q })
  | .inf n => ((if n then f.sign else 0) + f.inf, {})
  | .fin n m e t =>
    let sgn := if n then f.sign else 0
    if m = 0 ∧ !t then (sgn, {})
    else
      let top := (Nat.log2 m : Int) + e
      let qu := top - (f.fb : Int)
      let (nu, _) := roundAt mode n m e t qu
      let tiny := decide (qu < f.sub + 1) && decide (nu < 2 ^ (f.emin - qu).toNat)
      let q := max qu f.sub
      let (k, ix) := roundAt mode n m e t q
      let bits := (q - f.sub).toNat * 2 ^ f.fb + k
      if tiny ∧ ftz then (sgn, { uf := true, nx := true })
      else if bits ≥ f.inf then (f.overflow mode n, { of := true, nx := true })
      else (sgn + bits, { uf := tiny && ix, nx := ix })

/-- The sum of two exact values (R183, R184): the value and whether it is invalid. A zero sum of opposite signs is +0,
and −0 toward −∞ (mode 4). -/
def FVal.add (mode : Nat) (a b : FVal) : FVal × Bool :=
  match a, b with
  | .nan p, .nan q => (.nan false, p || q)
  | .nan p, _ => (.nan false, p)
  | _, .nan q => (.nan false, q)
  | .inf p, .inf q => if p = q then (.inf p, false) else (.nan false, true)
  | .inf p, _ => (.inf p, false)
  | _, .inf q => (.inf q, false)
  | .fin p m e _, .fin q k g _ =>
    let lo := min e g
    let x := (m * 2 ^ (e - lo).toNat : Nat)
    let y := (k * 2 ^ (g - lo).toNat : Nat)
    let sum : Int := (if p then -(x : Int) else x) + (if q then -(y : Int) else y)
    if sum = 0 then (.zero (if p = q then p else mode == 4), false)
    else (.fin (decide (sum < 0)) sum.natAbs lo false, false)

/-- The product of two exact values (R184). -/
def FVal.mul (a b : FVal) : FVal × Bool :=
  match a, b with
  | .nan p, .nan q => (.nan false, p || q)
  | .nan p, _ => (.nan false, p)
  | _, .nan q => (.nan false, q)
  | .inf p, .inf q => (.inf (p != q), false)
  | .inf p, .fin q m _ _ => if m = 0 then (.nan false, true) else (.inf (p != q), false)
  | .fin p m _ _, .inf q => if m = 0 then (.nan false, true) else (.inf (p != q), false)
  | .fin p m e _, .fin q k g _ => (.fin (p != q) (m * k) (e + g) false, false)

/-- The product of two exact values plus a third, rounded nowhere (R206). -/
def FVal.fma (mode : Nat) (a b c : FVal) : FVal × Bool :=
  let (p, bad) := a.mul b
  if p.isNan then (.nan false, bad || c.isSnan)
  else
    let (s, bad') := p.add mode c
    (s, bad || bad')

/-- Bits kept beyond the operands in a quotient or a root. -/
def guardBits : Nat := 80

/-- The quotient of two exact values (R189): the value, invalid, division by zero. -/
def FVal.div (a b : FVal) : FVal × Bool × Bool :=
  match a, b with
  | .nan p, .nan q => (.nan false, p || q, false)
  | .nan p, _ => (.nan false, p, false)
  | _, .nan q => (.nan false, q, false)
  | .inf _, .inf _ => (.nan false, true, false)
  | .inf p, .fin q _ _ _ => (.inf (p != q), false, false)
  | .fin p _ _ _, .inf q => (.zero (p != q), false, false)
  | .fin p m e _, .fin q k g _ =>
    if k = 0 then (if m = 0 then (.nan false, true, false) else (.inf (p != q), false, true))
    else if m = 0 then (.zero (p != q), false, false)
    else
      let n := m * 2 ^ guardBits
      (.fin (p != q) (n / k) (e - g - (guardBits : Int)) (n % k != 0), false, false)

/-- The integer square root, one result bit at a time from bit `n - 1`. -/
def isqrt (x : Nat) : Nat → Nat → Nat
  | 0, r => r
  | n + 1, r => let c := r + 2 ^ n; isqrt x n (if c * c ≤ x then c else r)

/-- The square root of a positive magnitude. -/
def rootOf (m : Nat) (e : Int) : FVal :=
  let e1 := e - 2 * (guardBits : Int)
  let (x, g) := if e1 % 2 = 0 then (m * 2 ^ (2 * guardBits), e1) else (m * 2 ^ (2 * guardBits + 1), e1 - 1)
  let r := isqrt x (Nat.log2 x / 2 + 1) 0
  .fin false r (g / 2) (r * r != x)

/-- fsqrt (R189). -/
def FVal.sqrt : FVal → FVal × Flags
  | .nan p => (.nan false, { nv := p })
  | .inf true => (.nan false, { nv := true })
  | .inf false => (.inf false, {})
  | .fin n m e _ =>
    if m = 0 then (.zero n, {})
    else if n then (.nan false, { nv := true })
    else (rootOf m e, {})

/-- frcp (R189). -/
def FVal.rcp : FVal → FVal × Flags
  | .nan p => (.nan false, { nv := p })
  | .inf n => (.zero n, {})
  | .fin n m e _ =>
    if m = 0 then (.inf n, { dz := true })
    else
      let num := 2 ^ (2 * guardBits)
      (.fin n (num / m) (-e - 2 * (guardBits : Int)) (num % m != 0), {})

/-- frsq (R189): the root of 2^k / m, whose floor is the root of the floor. (DEDUCED, log 28) -/
def FVal.rsq : FVal → FVal × Flags
  | .nan p => (.nan false, { nv := p })
  | .inf true => (.nan false, { nv := true })
  | .inf false => (.zero false, {})
  | .fin n m e _ =>
    if m = 0 then (.inf n, { dz := true })
    else if n then (.nan false, { nv := true })
    else
      let k := if e % 2 = 0 then 4 * guardBits else 4 * guardBits + 1
      let num := 2 ^ k
      let r := isqrt (num / m) (Nat.log2 (num / m) / 2 + 1) 0
      (.fin false r ((-e - (k : Int)) / 2) (r * r * m != num), {})

/-- The series of arctan (1/x) in units of 1 / `c`: the terms from index `k` on, `p` = c / x^k. -/
def atanSeries (x : Nat) : Nat → Nat → Nat → Int
  | 0, _, _ => 0
  | n + 1, k, p => ((p / k : Nat) : Int) - atanSeries x n (k + 2) (p / (x * x))

/-- The series z + z³/3 + … for z in units of 2^-p: the sum from a term of index `k` on. -/
def atanhSeries (p z2 : Nat) : Nat → Nat → Nat → Nat
  | 0, _, _ => 0
  | n + 1, k, q => q / k + atanhSeries p z2 n (k + 2) (q * z2 / 2 ^ p)

/-- π, in units of 2^-420. -/
def piFix : Nat := 0x3243f6a8885a308d313198a2e03707344a4093822299f31d0082efa98ec4e6c89452821e638d01377be5466cf34e90c6cc0ac29b7c

/-- The natural logarithm of 2, in units of 2^-420. -/
def ln2Fix : Nat := 0xb17217f7d1cf79abc9e3b39803f2f6af40f343267298b62d8a0d175b8baafa2be7b876206debac98559552fb4afa1b10ed2eae35c

/-- π, in units of 2^-c: by Machin's formula where the constant does not reach. -/
def piAt (c : Nat) : Nat :=
  if c ≤ 420 then piFix / 2 ^ (420 - c)
  else (16 * atanSeries 5 c 1 (2 ^ c / 5) - 4 * atanSeries 239 c 1 (2 ^ c / 239)).toNat

/-- The natural logarithm of 2, in units of 2^-c: twice artanh (1/3) where the constant does not reach. -/
def ln2At (c : Nat) : Nat :=
  if c ≤ 420 then ln2Fix / 2 ^ (420 - c) else 2 * atanhSeries c (2 ^ c / 9) c 1 (2 ^ c / 3)

/-- Fraction bits of the first fixed-point evaluation of a transcendental function, and those of its constants beyond them. -/
def fixBits : Nat := 256
def extraBits : Nat := 164

/-- Bound on the error of a fixed-point evaluation with p bits, in units of 2^-p: fewer than p truncations of less than a unit each, with
room to spare. -/
def fixErr (p : Nat) : Nat := 16 * p * p

/-- e^t for t in units of 2^-p, 0 ≤ t < 1: the terms from the `k`-th on. -/
def expSeries (p t : Nat) : Nat → Nat → Nat → Nat
  | 0, _, _ => 0
  | n + 1, k, term => term + expSeries p t n (k + 1) (term * t / 2 ^ p / (k + 1))

/-- The alternating series of sine and cosine for r² in units of 2^-p: the sum from a term of index `k` on. -/
def trigSeries (p r2 : Nat) : Nat → Nat → Nat → Int
  | 0, _, _ => 0
  | n + 1, k, term => (term : Int) - trigSeries p r2 n (k + 2) (term * r2 / 2 ^ p / ((k + 1) * (k + 2)))

/-- The value whose magnitude lies strictly between two bounds in units of 2^-p: its leading bits, when the bounds agree on them with 60 bits
to spare below the destination's precision. -/
def between (neg : Bool) (p lo hi : Nat) : Option FVal :=
  let k := Nat.log2 hi - 90
  if lo / 2 ^ k = hi / 2 ^ k then some (.fin neg (lo / 2 ^ k) ((k : Int) - (p : Int)) true) else none

/-- A transcendental value (R189) from its evaluations `f` with p bits, a sign and a magnitude: with twice the bits as long as the bounds do
not agree, at most `n` times more. With 2^64 bits and more, where no operand gets, it would be next to one bound or the other. (DEDUCED,
log 7) -/
def refine (upper : Bool) (f : Nat → Bool × Nat) : Nat → Nat → FVal
  | 0, p => .fin (f p).1 (if upper then (f p).2 + fixErr p - 1 else (f p).2 - fixErr p) (-(p : Int)) true
  | n + 1, p =>
    match between (f p).1 p ((f p).2 - fixErr p) ((f p).2 + fixErr p) with
    | some v => v
    | none => refine upper f n (2 * p)

/-- A value just above 1, or just below it. -/
def nearOne (above : Bool) : FVal :=
  if above then .fin false (2 ^ guardBits) (-(guardBits : Int)) true else .fin false (2 ^ guardBits - 1) (-(guardBits : Int)) true

/-- 2^x (R189): 2^n × e^(f ln 2) for x = n + f. -/
def FVal.exp2 (upper : Bool) : FVal → FVal × Flags
  | .nan p => (.nan false, { nv := p })
  | .inf true => (.zero false, {})
  | .inf false => (.inf false, {})
  | .fin s m e _ =>
    if m = 0 then (.fin false 1 0 false, {})
    else
      let top := (Nat.log2 m : Int) + e
      if top ≥ 10 then (if s then .fin false (2 ^ guardBits) (-1000 - (guardBits : Int)) true else .fin false (2 ^ guardBits) 1000 true, {})
      else if top < -60 then (nearOne (!s), {})
      else
        let x := fun (p : Nat) => (if s then -(m : Int) else m) * (2 : Int) ^ ((p : Int) + e).toNat
        let n := x fixBits / 2 ^ fixBits
        if x fixBits % 2 ^ fixBits = 0 then (.fin false 1 n false, {})
        else
          let y := fun (p : Nat) =>
            let f := (x p % 2 ^ p).toNat
            (false, expSeries p (f * ln2At (p + extraBits) / 2 ^ (p + extraBits)) (p / 3) 0 (2 ^ p))
          ((refine upper y 56 fixBits).scale n, {})

/-- log2 x (R189). -/
def FVal.log2 (upper : Bool) : FVal → FVal × Flags
  | .nan p => (.nan false, { nv := p })
  | .inf true => (.nan false, { nv := true })
  | .inf false => (.inf false, {})
  | .fin s m e _ =>
    if m = 0 then (.inf true, { dz := true })
    else if s then (.nan false, { nv := true })
    else
      let l := Nat.log2 m
      let n : Int := (l : Int) + e
      if m = 2 ^ l then (if n = 0 then .zero false else .fin (decide (n < 0)) n.natAbs 0 false, {})
      else
        let y := fun (p : Nat) =>
          let z := (m - 2 ^ l) * 2 ^ p / (m + 2 ^ l)
          let a := 2 * atanhSeries p (z * z / 2 ^ p) (p / 2) 1 z
          let y : Int := n * 2 ^ p + ((a * 2 ^ (p + extraBits) / ln2At (p + extraBits) : Nat) : Int)
          (decide (y < 0), y.natAbs)
        (refine upper y 56 fixBits, {})

/-- A finite nonzero angle, reduced exactly: the quadrant of x mod 2π and the rest in units of 2^-p (R189). -/
def reduceAngle (p m : Nat) (e : Int) : Nat × Nat :=
  let x := m * 2 ^ ((p + extraBits : Nat) + e).toNat
  let half := piAt (p + extraBits) / 2
  (x / half % 4, x % half / 2 ^ extraBits)

/-- sin or cos of an angle with p bits: a sign and a magnitude. -/
def trigAt (sine : Bool) (m : Nat) (e : Int) (p : Nat) : Bool × Nat :=
  let (q, r) := reduceAngle p m e
  let r2 := r * r / 2 ^ p
  let y := if (q % 2 == 0) == sine then trigSeries p r2 (p / 4) 1 r else trigSeries p r2 (p / 4) 0 (2 ^ p)
  (if sine then q == 2 || q == 3 else q == 1 || q == 2, y.natAbs)

/-- fsin and fcos of an operand in radians (R189). -/
def FVal.trig (upper sine : Bool) : FVal → FVal × Flags
  | .nan p => (.nan false, { nv := p })
  | .inf _ => (.nan false, { nv := true })
  | .fin s m e _ =>
    if m = 0 then (if sine then .zero s else .fin false 1 0 false, {})
    else if (Nat.log2 m : Int) + e < -60 then
      (if sine then .fin s (m * 2 ^ guardBits - 1) (e - (guardBits : Int)) true else nearOne false, {})
    else
      let v := refine upper (trigAt sine m e) 56 fixBits
      (if sine && s then v.neg else v, {})

/-- Clamp an exact value to [0, 1] (R188): −0 becomes +0. -/
def FVal.clamp : FVal → FVal
  | .nan p => .nan p
  | .inf n => if n then .zero false else .fin false 1 0 false
  | .fin n m e t =>
    if n ∨ (m = 0 ∧ !t) then .zero false
    else if (Nat.log2 m : Int) + e ≥ 0 then .fin false 1 0 false
    else .fin false m e t

/-- The order of two values that are no NaN, −0 below +0 (R207). -/
def FVal.less (a b : FVal) : Bool :=
  match a, b with
  | .inf p, .inf q => p && !q
  | .inf p, _ => p
  | _, .inf q => !q
  | .fin p m e _, .fin q k g _ =>
    if p ≠ q then p
    else
      let lo := min e g
      let x := m * 2 ^ (e - lo).toNat
      let y := k * 2 ^ (g - lo).toNat
      if p then decide (y < x) else decide (x < y)
  | _, _ => false

/-- Equality of two values that are no NaN; −0 equals +0 (R205). -/
def FVal.same (a b : FVal) : Bool :=
  (a.isZero && b.isZero) || (!a.less b && !b.less a)

/-- The lesser or the greater of two values (R207): the value, and NV for a signalling NaN. -/
def FVal.pick (greater : Bool) (a b : FVal) : FVal × Bool :=
  let bad := a.isSnan || b.isSnan
  match a.isNan, b.isNan with
  | true, true => (.nan false, bad)
  | true, false => (b, bad)
  | false, true => (a, bad)
  | false, false => (if (if greater then b.less a else a.less b) then a else b, bad)

/-- Round a value to an integral magnitude (R182): the sign, the magnitude, and whether it is inexact. -/
def FVal.toUnits (mode : Nat) : FVal → Bool × Nat × Bool
  | .fin n m e t => let (k, ix) := roundAt mode n m e t 0; (n, k, ix)
  | v => (v.isNeg, 0, false)

end Sys2Proof.Machine
end

