-- ==== Sys2Proof/Machine/Staging.lean ====
section
/-! DEFINITION. Machine/Staging.lean: what an atomic computes (R242), and memory and tags as a younger word or copy of a group meets
them behind the group's own writes, staged (R250, R292, R380) or on their way (R133, R230, R247). -/

namespace Sys2Proof.Machine

/-- The new value of an atomic (R242): operation, width in bytes, memory value, operand, and the new value of cas. -/
def atomicNew (op n : Nat) (m v c : Nat) : Nat :=
  let w := 8 * n
  let sg := fun (x : Nat) => (BitVec.ofNat w x).toInt
  match op with
  | 0 => (m + v) % 2 ^ w
  | 1 => if sg v < sg m then v else m
  | 2 => if sg m < sg v then v else m
  | 3 => Nat.min m v
  | 4 => Nat.max m v
  | 5 => m &&& v
  | 6 => m ||| v
  | 7 => m ^^^ v
  | 8 => v
  | 9 => if m = v then c else m
  | _ => (Fmt.f32.round 1 false (FVal.add 1 (Fmt.f32.decode false m) (Fmt.f32.decode false v)).1).1

/-- The bytes that a lane of an atomic leaves where it found `old` (R242): those that raced when it issued, which the low byte of `res` names
and whose draws its other bits number, are free (R34). -/
def LaneAcc.atomicBytes (l : LaneAcc) (op n old : Nat) : List Byte :=
  let low := fun (x : Word) => x.toNat % 2 ^ (8 * n)
  let new := leBytes n (atomicNew op n old (low l.data) (low l.new))
  (List.range n).map fun i => if l.res.getLsbD i then Config.racedByte ((l.res >>> 8).toNat + i) else new.getD i 0#8

/-- The operation of an atomic or a red. -/
def ReqKind.op : ReqKind → Option Nat
  | .atomic n => some n
  | .red n => some n
  | _ => none

/-- Bytes that stand over memory, the latest first. -/
abbrev Over := List (Nat × Byte)

/-- The byte at an address under what stands over memory. -/
def Over.get (o : Over) (mem : SMap 8) (a : Nat) : Byte := ((o.find? fun x => x.1 == a).map (·.2)).getD (sget mem a)

/-- The physical places of a lane's bytes; those of a lane that is not translated as far as a reader's bytes show them. -/
def LaneAcc.spots (l : LaneAcc) (n : Nat) (ea : Word) (pas : List Nat) : List (Option Nat) :=
  if l.pas ≠ [] then l.pas.map some
  else (List.range n).map fun j =>
    ((List.range pas.length).find? fun i => (ea.toNat + i) % 2 ^ 55 == (l.ea.toNat + j) % 2 ^ 55).bind fun i => pas[i]?

/-- A write of the group over memory, as a reader of the bytes `pas` at `ea` meets it. -/
def Request.over (r : Request) (mem : SMap 8) (ea : Word) (pas : List Nat) (o : Over) : Over :=
  r.lanes.foldl (fun (o : Over) l =>
    let at' := l.spots r.size ea pas
    let new := match r.kind.op, r.kind with
      | some op, _ => l.atomicBytes op r.size (leValue (at'.map fun a => a.elim 0#8 (o.get mem)))
      | none, .store => leBytes r.size l.data.toNat
      | _, _ => []
    ((at'.zip new).filterMap fun x => x.1.map fun a => (a, x.2)) ++ o) o

/-- The staged writes of a group that are older than `before`, over memory. -/
def Group.stagedOver (g : Group) (before : Nat) (mem : SMap 8) (ea : Word) (pas : List Nat) : Over :=
  g.staged.foldl (fun (o : Over) e => match e with
    | .write r => if r.id < before then r.over mem ea pas o else o
    | .copy id _ ps _ => if id < before then ps.foldl (fun (o : Over) p => p.pas.zip p.data ++ o) o else o
    | _ => o) []

/-- The writes of a group that are older than `before` and on their way, over memory. -/
def Group.flightOver (g : Group) (before : Nat) (mem : SMap 8) (ea : Word) (pas : List Nat) : Over :=
  g.reqs.foldl (fun (o : Over) r =>
    let live := r.lanes.filter fun (l : LaneAcc) => l.st == .waiting || l.st == .faulted || l.st == .draining
    if r.id < before then { r with lanes := live }.over mem ea pas o else o) []

/-- Bytes read from memory, with what stands over it. -/
def Over.lay (o : Over) (pas : List Nat) (bs : List Byte) : List Byte :=
  (List.range bs.length).map fun i => ((o.find? fun x => pas[i]? == some x.1).map (·.2)).getD (bs.getD i 0#8)

/-- Bytes as a deterministic group reads them: its own staged writes issued before, over committed memory (R250, R380). -/
def Group.overlay (g : Group) (before : Nat) (mem : SMap 8) (ea : Word) (pas : List Nat) (bs : List Byte) : List Byte :=
  (g.stagedOver before mem ea pas).lay pas bs

/-- The granule that a lane of a `tagst` is for: where it is translated, where its page is mapped now, or where the tables put it. -/
def State.tagPlace (s : State) (g : Group) (l : LaneAcc) : Option Nat :=
  match l.pas.head? with
  | some pa => some (granule pa)
  | none => match (translate s g.part (.ofCore g.core) (l.ea.toNat % 2 ^ 55)).1 with
    | .ok pa _ => some (granule pa)
    | .draining => (s.tablePlace g.part l.ea.toNat).map granule
    | _ => none

/-- The tags that the lanes of a `tagst` request have still to write, over others (R247). -/
def State.tagOver (s : State) (g : Group) (r : Request) (tags : SMap 4) : SMap 4 :=
  if r.kind ≠ .tagst then tags
  else r.lanes.foldl (fun t l => match l.st, s.tagPlace g l with
    | .performed, _ => t
    | .failed _, _ => t
    | _, some n => sset t n (l.data.setWidth 4)
    | _, none => t) tags

/-- The tags as a word of the group numbered `before` meets them: those that its own older `tagst` words have still to write, in flight, in
the hamper, or staged for the commit of a deterministic launch, over the granules' (R230, R233, R247, R262, R380). -/
def State.ownTags (s : State) (g : Group) (before : Nat) : SMap 4 :=
  let flight := (g.reqs.filter fun r => decide (r.id < before)).foldl (fun t r => s.tagOver g r t) s.tags
  g.staged.foldl (fun t e => match e with
    | .write r => if r.id < before then s.tagOver g r t else t
    | _ => t) flight

end Sys2Proof.Machine
end

