-- ==== Sys2Proof/Machine/Stream.lean ====
section
/-! DEFINITION. Machine/Stream.lean: triple streams (R328, R329): the sizes of records, and the place of the record that a word will
draw. -/

namespace Sys2Proof.Machine

/-- The KIND of record a word draws (R329). -/
def GateOp.kind : GateOp → Nat
  | .gtrip t => t + 1
  | .gtript => 4
  | .gmsb => 5
  | .gb2a => 6
  | _ => 0

/-- Bytes of a record by kind (R329). -/
def recordSize (kind : Nat) : Nat :=
  match kind with
  | 1 => 832
  | 2 => 832
  | 3 => 1600
  | 5 => 8256
  | 6 => 576
  | _ => 64

/-- Rows and columns of a tile image of EW 11 from the low 32 bits of a tile control value (R95, R330). -/
def shapeOf32 (v : Nat) : TileShape := ⟨v / 2 ^ 24 % 128 + 1, BitVec.ofNat 2 (v / 2 ^ 16), v % 1024⟩

/-- Bytes of a tile image padded to a multiple of 64 (R329). -/
def imagePad (t : TileShape) : Nat := (t.rows * t.rowBytes + 63) / 64 * 64

/-- Bytes of the record with a header (R329, R344). -/
def recordBytes (h : List Byte) : Nat :=
  let kind := leValue (h.drop 8 |>.take 1)
  if kind = 4 then
    64 + imagePad (shapeOf32 (leValue (h.drop 16 |>.take 4))) + imagePad (shapeOf32 (leValue (h.drop 20 |>.take 4))) +
      imagePad (shapeOf32 (leValue (h.drop 24 |>.take 4)))
  else recordSize kind

/-- The address of a group's stream entry (R328); none at or beyond NSTREAMS. -/
def State.entryAddr (s : State) (g : Group) : Option Word :=
  match s.sessionOf g, s.recordOf g with
  | some x, some r =>
    let (p, n) := if x.role g.part = 0 then x.streams0 else x.streams1
    let i := g.team.index * r.groups + g.gidx
    if i < n then some (p + BitVec.ofNat 64 (32 * i)) else none
  | _, _ => none

/-- The cursor of a group's stream as it stands: its own, or its entry's when it has drawn nothing yet. A stream entry that cannot be read
counts as zero, and a write-back that waits is not seen (R342: DESIGN CHOICE, log 42). -/
def State.cursorOf (s : State) (g : Group) : Word × Word × Word × Word :=
  match g.cursor with
  | some c => c
  | none =>
    match s.entryAddr g with
    | none => (0#64, 0#64, 0#64, 0#64)
    | some a =>
      match s.peek g.part (dieOf g.core) a 32 with
      | none => (0#64, 0#64, 0#64, 0#64)
      | some bs =>
        let w := fun (i : Nat) => (BitVec.ofNat 64 (leValue (bs.drop i |>.take 8)) : Word)
        (w 0, w 8, w 16, w 24)

/-- Bytes of the record whose header stands at an address: those of a header when none can be read. -/
def State.recordAt (s : State) (g : Group) (a : Word) : Nat :=
  match s.peek g.part (dieOf g.core) a 64 with
  | some h => recordBytes h
  | none => 64

/-- The address behind `n` records, from an address on (R344 step 4). -/
def State.skipOver (s : State) (g : Group) (a : Word) : Nat → Word
  | 0 => a
  | n + 1 => s.skipOver g (a + BitVec.ofNat 64 (s.recordAt g a)) n

/-- The address of the record that the group's oldest drawing word will draw: past the records that an abort has it skip. -/
def State.streamNext (s : State) (g : Group) : Word :=
  let (base, _, seq, off) := s.cursorOf g
  match g.skip with
  | some k => s.skipOver g (base + off) (if seq.ult k.target then (k.target - seq).toNat else 0)
  | none => base + off

/-- Bytes of the records that words will draw one after another, from an address on. -/
def State.recordsAt (s : State) (g : Group) (a : Word) (ops : List GateOp) : Nat :=
  ops.foldl (fun n op => n + (if op.kind = 4 then s.recordAt g (a + BitVec.ofNat 64 n) else recordSize op.kind)) 0

/-- The words of a group that have still to draw, in the order of their draws (R330). -/
def Group.undrawn (g : Group) : List GateOp := (g.gates.filter fun w => !w.drawn).map (·.op)

/-- The words of a group that have still to draw, each with the place and the size of its record (R330). -/
def State.drawSpans (s : State) (g : Group) : List (GateWord × Word × Nat) :=
  ((g.gates.filter fun w => !w.drawn).foldl (fun (a : List (GateWord × Word × Nat) × Word) w =>
    let n := if w.op.kind = 4 then s.recordAt g a.2 else recordSize w.op.kind
    (a.1 ++ [(w, a.2, n)], a.2 + BitVec.ofNat 64 n)) ([], s.streamNext g)).1

/-- Sectors of the record that a matrix draw issued now will read, behind the older words that have still to draw (R133, R329): those
of a header when none can be read. -/
def State.nextRecordSectors (s : State) (g : Group) : Nat :=
  let a := s.streamNext g
  s.recordAt g (a + BitVec.ofNat 64 (s.recordsAt g a g.undrawn)) / 32

end Sys2Proof.Machine
end

