-- ==== Sys2Proof/Machine/Footprint.lean ====
section
/-! DEFINITION. Machine/Footprint.lean: the boxes of tensor copies (R279 to R283), the bytes that the copies and the drawing words of a
group read or write, and what a write of the group to one of them does (R34). -/

namespace Sys2Proof.Machine

/-- The window position of a group's team (R71). -/
def State.ownPos (s : State) (g : Group) : Nat := (s.team? g.team).elim 0 (·.pos)

/-- The team at a position of a group's cluster team (R226). -/
def State.peerTeam (s : State) (g : Group) (pos : Nat) : Option Team :=
  match s.team? g.team with
  | none => none
  | some t => s.teams.find? fun x =>
      x.key.uid == t.key.uid && !x.key.origin && x.key.index / t.shape == t.key.index / t.shape && x.pos == pos

/-- The team of a window place (R276). -/
def State.sideTeam (s : State) (g : Group) (pos : Option Nat) : Option Team :=
  match pos with
  | some p => if s.ownPos g = p then s.team? g.team else s.peerTeam g p
  | none => s.team? g.team

/-- Row number `r` of a box as a pair (i1, i2), i1 fastest (R286). -/
def Box.row (x : Box) (r : Nat) : Nat × Nat := (r % x.box.2.1, r / x.box.2.1)

/-- The number of rows of a box. -/
def Box.rowCount (x : Box) : Nat := x.box.2.1 * x.box.2.2

/-- The rows of a box as pairs (i1, i2), i1 fastest (R286). -/
def Box.rows (x : Box) : List (Nat × Nat) :=
  (List.range x.box.2.2).flatMap fun i2 => (List.range x.box.2.1).map fun i1 => (i1, i2)

/-- A row of a box lies within dimensions 1 and 2 of the tensor (R282). -/
def Box.rowIn (x : Box) (i1 i2 : Nat) : Bool :=
  let c1 := x.org.2.1 + i1
  let c2 := x.org.2.2 + i2
  decide (0 ≤ c1) && decide (c1 < x.dim.2.1) && decide (0 ≤ c2) && decide (c2 < x.dim.2.2)

/-- The first element of a row that is in bounds, and how many are (R282). -/
def Box.cols (x : Box) : Nat × Nat :=
  let lo := (-x.org.1).toNat
  let hi := min x.box.1 ((x.dim.1 : Int) - x.org.1).toNat
  (lo, hi - lo)

/-- Byte `b` of row `r` is in bounds (R282). -/
def Box.inBounds (x : Box) (r b : Nat) : Bool :=
  let (i1, i2) := x.row r
  let (lo, n) := x.cols
  x.rowIn i1 i2 && decide (lo * x.esize ≤ b) && decide (b < (lo + n) * x.esize)

/-- The rows of a box that hold an element in bounds. -/
def Box.liveRows (x : Box) : List (Nat × Nat) := if x.cols.2 = 0 then [] else x.rows.filter fun r => x.rowIn r.1 r.2

/-- The dimension-2 indices whose table entries a box reads (R283). -/
def Box.entries (x : Box) : List Nat := (x.liveRows.map (·.2)).dedup

/-- An address with the tag of the pointer it is formed from (R216): an element's access carries that of sA or of its table entry, wherever the
sum of its address carries to (R282, R283). -/
def withTag (ptr a : Word) : Word := (ptr &&& 0xF000000000000000#64) ||| (a &&& 0x0FFFFFFFFFFFFFFF#64)

/-- Where byte 0 of a row lies (R282, R283): the block's base for a table. -/
def Box.rowAddr (x : Box) (base : Word) (i1 i2 : Nat) : Word :=
  base + BitVec.ofInt 64 (x.org.1 * x.esize + (x.org.2.1 + i1) * x.stride1 +
    (if x.table then 0 else (x.org.2.2 + i2) * x.stride2))

/-- Where byte `b` of a row lies, with the tag of its pointer (R282, R283). -/
def Box.elemAddr (x : Box) (base : Word) (i1 i2 b : Nat) : Word := withTag base (x.rowAddr base i1 i2 + BitVec.ofNat 64 b)

/-- The address of the table entry of index i2, with sA's tag (R283). -/
def Box.entryAddr (x : Box) (i2 : Nat) : Word := withTag x.base (x.base + BitVec.ofInt 64 (8 * (x.org.2.2 + i2)))

/-- The swizzle of byte `b` of box row `r` (R282), and its own inverse on a row. -/
def Box.swizzle (x : Box) (r b : Nat) : Nat :=
  let s := 16 * 2 ^ x.span
  b / s * s + ((b % s / 16) ^^^ (r % (s / 16))) * 16 + b % 16

/-- The window offset of byte b of box row r (R282). -/
def Box.offset (x : Box) (r b : Nat) : Nat := x.sbase + r * x.pitch + x.swizzle r b

/-- The row and the byte at a window offset; none between the rows of the image. -/
def Box.unplace (x : Box) (a : Nat) : Option (Nat × Nat) :=
  let r := (a - x.sbase) / x.pitch
  let b := x.swizzle r ((a - x.sbase) % x.pitch)
  if x.sbase ≤ a ∧ r < x.rowCount ∧ b < x.rb then some (r, b) else none

/-- Bytes of the box image in the window (R280). -/
def Box.image (x : Box) : Nat := x.pitch * x.box.2.1 * x.box.2.2

/-- Bytes of the box, row by row. -/
def Box.total (x : Box) : Nat := x.rb * x.box.2.1 * x.box.2.2

/-- Bytes of the box in bounds. -/
def Box.inside (x : Box) : Nat := (x.rows.filter fun r => x.rowIn r.1 r.2).length * (x.cols.2 * x.esize)

/-- The distance of an address behind a pointer, by virtual address. -/
def behind55 (ptr : Word) (a : Nat) : Nat := (a + 2 ^ 55 - ptr.toNat % 2 ^ 55) % 2 ^ 55

/-- One byte of a copy's place: of global memory, or of a window. -/
inductive Spot where
  | glob (ea : Word)
  | win (pos : Option Nat) (off : Nat)
  deriving DecidableEq, Repr

/-- The number of a destination among those of a copy: a multicast's by its position (R285). -/
def Spot.no : Spot → Nat
  | .glob _ => 0
  | .win pos _ => pos.elim 0 (· + 1)

/-- The byte of n bytes at a place that lies at an address: of global memory (space 0, by virtual address), or of the window at
position p (space p + 1). -/
def Place.byteAt (pl : Place) (own n space a : Nat) : List Nat :=
  match pl with
  | .global ptr => if space = 0 ∧ behind55 ptr a < n then [behind55 ptr a] else []
  | .window pos off => if space = pos.getD own + 1 ∧ off ≤ a ∧ a < off + n then [a - off] else []

/-- Byte `k` of a place. -/
def Place.spot (pl : Place) (k : Nat) : Spot :=
  match pl with
  | .global ptr => .glob (ptr + BitVec.ofNat 64 k)
  | .window pos off => .win pos (off + k)

/-- The row and byte that a box reads or writes at a global address, its rows' bases given. -/
def Box.globalAt (x : Box) (base : Nat → Word) (a : Nat) : List (Nat × Nat) :=
  (List.range x.rowCount).filterMap fun r =>
    let (i1, i2) := x.row r
    let b := behind55 (x.rowAddr (base i2) i1 i2) a
    if x.inBounds r b then some (r, b) else none

/-- The bytes of a copy's sequence that read (none) or write (by the number of the destination) a byte of a space; all those of a block
read its table entry (R283). -/
def CopyOp.meets (c : CopyOp) (base : Nat → Word) (own space a : Nat) : List (Nat × Option Nat) :=
  match c with
  | .linear dst src n =>
    ((src.byteAt own n space a).map fun k => (k, none)) ++ (dst.byteAt own n space a).map fun k => (k, some (dst.spot k).no)
  | .multicast off src n mask =>
    (((Place.global src).byteAt own n space a).map fun k => (k, none)) ++
      (if 1 ≤ space ∧ natBit mask (space - 1) ∧ off ≤ a ∧ a < off + n then [(a - off, some space)] else [])
  | .tensor x =>
    let win := if space = own + 1 then (x.unplace a).toList else []
    let glob := if space = 0 then x.globalAt base a else []
    let at' := fun (p : Nat × Nat) => p.1 * x.rb + p.2
    let block := x.rb * x.box.2.1
    (if x.toWindow then (win.map fun p => (at' p, some 0)) ++ glob.map fun p => (at' p, none)
      else ((win.filter fun p => x.inBounds p.1 p.2).map fun p => (at' p, none)) ++ glob.map fun p => (at' p, some 0)) ++
    (if x.table ∧ space = 0 then
      (x.entries.filter fun i2 => decide (behind55 (x.entryAddr i2) a < 8)).flatMap fun i2 =>
        (List.range block).map fun k => (i2 * block + k, none)
      else [])

/-- The first and the number of a row's global bytes in bounds. -/
def Box.span' (x : Box) (base : Word) (r : Nat × Nat) : Word × Nat :=
  (x.elemAddr base r.1 r.2 (x.cols.1 * x.esize), x.cols.2 * x.esize)

/-- The 64 KiB pages of bytes of global memory, by number. -/
def pagesOf (ptr : Word) (n : Nat) : List Nat :=
  let a := ptr.toNat % 2 ^ 55
  if n = 0 then [] else (List.range ((a + n - 1) / 2 ^ 16 + 1 - a / 2 ^ 16)).map (a / 2 ^ 16 + ·)

/-- The 64 KiB pages of the global sides of a copy, by number. -/
def CopyOp.pages (c : CopyOp) (base : Nat → Word) : List Nat :=
  let side := fun (pl : Place) (n : Nat) => match pl with
    | .global p => pagesOf p n
    | .window .. => []
  (match c with
  | .linear d s n => side d n ++ side s n
  | .multicast _ src n _ => pagesOf src n
  | .tensor x => (x.liveRows.flatMap fun (r : Nat × Nat) => let (p, n) := x.span' (base r.2) r; pagesOf p n) ++
      (if x.table then x.entries.flatMap fun i => pagesOf (x.entryAddr i) 8 else [])).dedup

/-- The destinations of byte `k` of a copy. -/
def CopyOp.dests (c : CopyOp) (base : Nat → Word) (k : Nat) : List Spot :=
  match c with
  | .linear dst _ _ => [dst.spot k]
  | .multicast off _ _ mask => ((List.range 4).filter fun j => natBit mask j).map fun j => .win (some j) (off + k)
  | .tensor x =>
    let r := k / x.rb
    let b := k % x.rb
    let (i1, i2) := x.row r
    if x.toWindow then [.win none (x.offset r b)]
    else if x.inBounds r b then [.glob (x.elemAddr (base i2) i1 i2 b)]
    else []

/-- What the block-table entry of index `i2` holds for a copy numbered `id` (R283, R292): memory with the writes that its group issued
before. An older copy that has still to write the entry changes no count, except in a deterministic launch, where the word waits for it
(`State.tableWaits`); an entry that cannot be read counts as 0 (DESIGN CHOICE, log 72). -/
def State.tableEntry (s : State) (g : Group) (id : Nat) (x : Box) (i2 : Nat) : Word :=
  let ea := x.entryAddr i2
  match (laneCheck s g.part g.site ⟨false, false, false, true, false⟩ false ea 8).1 with
  | .ok pas _ ext =>
    let o := if s.isDet g then g.stagedOver id s.mem ea pas else g.flightOver id s.mem ea pas
    BitVec.ofNat 64 (leValue (o.lay pas (readPas s pas ext).1))
  | _ => 0#64

/-- The base of the rows of a copy's block (R283): the entry it has read, or the one it would read. -/
def State.copyBase (s : State) (g : Group) (c : Copy) (i2 : Nat) : Word :=
  match c.op with
  | .tensor x =>
    if x.table then
      match c.entry with
      | some (i, v) => if i = i2 then v else s.tableEntry g c.id x i2
      | none => s.tableEntry g c.id x i2
    else x.base
  | _ => 0#64

/-- A byte that a copy has written to a destination becomes free (R34): in its window, in memory, or among its staged pieces. -/
def State.spoil (s : State) (core slot : Nat) (c : Copy) (k no : Nat) : State :=
  match s.group? core slot with
  | none => s
  | some g =>
    let b := Config.racedByte s.draws
    let t : State := { s with draws := s.draws + 1 }
    match (c.op.dests (s.copyBase g c) k).find? fun d => d.no == no with
    | some (.win pos off) => (s.sideTeam g pos).elim t fun w => t.windowWrite w.key [off] [b]
    | some (.glob ea) =>
      if s.isDet g then
        let put := fun (p : StagedPiece) =>
          { p with data := (List.range p.data.length).map fun i =>
              if (p.ea.toNat + i) % 2 ^ 55 = ea.toNat % 2 ^ 55 then b else p.data.getD i 0#8 }
        t.modGroup core slot fun g => { g with staged := g.staged.map fun e => match e with
          | .copy id ls ps pc => if id = c.id then .copy id ls (ps.map put) pc else e
          | e => e }
      else
        match laneCheck t g.part (.ofCore core) ⟨true, false, false, true, false⟩ false ea 1 with
        | (.ok pas _ _, u) => writePas u g.part pas [b]
        | (_, u) => u
    | none => t

/-- The result of byte `k` of a copy at a destination becomes undefined (R34): now when it has been written, else when it is. -/
def State.raceByte (s : State) (core slot : Nat) (c : Copy) (k no : Nat) : State :=
  if k < c.pos then s.spoil core slot c k no
  else s.modGroup core slot fun g =>
    { g with copies := mapIf (fun d => d.id == c.id) (fun d => { d with raced := d.raced ++ [(k, no)] }) g.copies }

/-- The lanes of a drawn record that a write of the group has met become free (R34): byte `o` of the record. -/
def GateWord.raceRecord (w : GateWord) (draw o : Nat) : GateWord :=
  if o < 64 then w
  else
    let i := (o - 64) / 256
    { w with record := modifyAt w.record i fun v =>
        Vector.ofFn fun l => if l.val = (o - 64) % 256 / 4 then Config.racedWord draw else v[l.val] }

/-- A drawing word of the group's gate batches reads a global byte (R34): one of a record still to draw, or of the record a word in flight
has drawn. A triple to draw is a load of its word (`State.drawAhead`). -/
def State.gateMeets (s : State) (g : Group) (a : Nat) : Bool :=
  ((s.drawSpans g).any fun x => x.1.joins && decide (behind55 x.2.1 a < x.2.2)) ||
    g.gates.any fun w => w.drawn && w.span.2 != 0 && decide (behind55 w.span.1 a < w.span.2)

/-- The pages of global memory that the group's operations in flight touch. -/
def State.asyncPages (s : State) (g : Group) : List Nat :=
  let from' := s.streamNext g
  ((g.copies.flatMap fun c => c.op.pages (s.copyBase g c)) ++ pagesOf from' (s.recordsAt g from' g.undrawn) ++
    (g.gates.flatMap fun w => pagesOf w.span.1 w.span.2)).dedup

/-- The physical address of a virtual one, when it is translated. -/
def State.physAt (s : State) (g : Group) (va : Nat) : Option Nat :=
  match (translate s g.part (.ofCore g.core) (va % 2 ^ 55)).1 with
  | .ok pa _ => some pa
  | _ => none

/-- The virtual addresses among some pages that reach the byte of an address: itself, and those of aliased mappings (R34, R290, R291). -/
def State.aliases (s : State) (g : Group) (pages : List Nat) (va : Nat) : List Nat :=
  match s.physAt g va with
  | none => [va]
  | some pa => va :: (pages.filterMap fun p =>
      let v := p * 2 ^ 16 + va % 2 ^ 16
      if v ≠ va ∧ s.physAt g v = some pa then some v else none)

/-- A word that satisfies a test has still to draw a record with a global byte, through whatever mapping (R330). -/
def State.drawMeets (s : State) (g : Group) (p : GateWord → Bool) (va : Nat) : Bool :=
  let spans := (s.drawSpans g).filter fun x => p x.1
  !spans.isEmpty && (s.aliases g (spans.flatMap fun x => pagesOf x.2.1 x.2.2) va).any fun a =>
    spans.any fun x => decide (behind55 x.2.1 a < x.2.2)

/-- A group writes n bytes of a space: those that an operation of its own in flight reads or writes, through whatever mapping, become
free values, and the operation's result for them undefined (R34). Answers the data as it is written, and a mask of its free bytes. -/
def State.raceStore (s : State) (core slot space a n : Nat) (data : Word) : Word × Word × State :=
  match s.group? core slot with
  | none => (data, 0#64, s)
  | some g =>
    if g.copies = [] ∧ g.gates = [] then (data, 0#64, s)
    else
      let own := s.ownPos g
      let pages := if space = 0 then s.asyncPages g else []
      let views := fun (i : Nat) => s.aliases g pages (a + i)
      let met := fun (i : Nat) => g.copies.map fun c => (c, (views i).flatMap (c.op.meets (s.copyBase g c) own space))
      let gate := fun (i : Nat) => space == 0 && (views i).any (s.gateMeets g)
      let hit := (List.range n).filter fun i => gate i || (met i).any fun x => !x.2.isEmpty
      if hit = [] then (data, 0#64, s)
      else
        let bytes := (List.range n).map fun i =>
          if hit.contains i then Config.racedByte (s.draws + i) else ((data >>> (8 * i)).setWidth 8 : Byte)
        let spoilAll := fun (t : State) (x : Copy × List (Nat × Option Nat)) => x.2.foldl (fun t m =>
          match m.2 with
          | some no => t.raceByte core slot x.1 m.1 no
          | none => ((x.1.op.dests (s.copyBase g x.1) m.1).map Spot.no).foldl (fun t no => t.raceByte core slot x.1 m.1 no) t) t
        let s1 := hit.foldl (fun t i => (met i).foldl spoilAll t) { s with draws := s.draws + n }
        let race := fun (w : GateWord) => if w.drawn ∧ w.span.2 ≠ 0 ∧ space = 0 then
            hit.foldl (fun (w : GateWord) i => (views i).foldl (fun (w : GateWord) v =>
              if behind55 w.span.1 v < w.span.2 then w.raceRecord (s.draws + i) (behind55 w.span.1 v) else w) w) w
          else w
        (BitVec.ofNat 64 (leValue bytes), maskOf hit, s1.modGroup core slot fun g => { g with gates := g.gates.map race })

end Sys2Proof.Machine
end

