-- ==== Sys2Proof/Machine/Flags.lean ====
section
/-! DEFINITION. Machine/Flags.lean: lanes that compute and raise flags (R187, R194), the modifier word (R188), and the
integer range rules (R186, R198). -/

namespace Sys2Proof.Machine

/-- A lane's result and the flags it raises. -/
abbrev LaneOut := BitVec 32 × Flags

/-- Compute every active lane. -/
def overLanes (m : Mask) (f : Fin 64 → LaneOut) : Vector LaneOut 64 :=
  Vector.ofFn fun l => if m.getLsbD l.val then f l else (0#32, {})

/-- The words of lane results. -/
def outWords (r : Vector LaneOut 64) : Lanes := Vector.ofFn fun l => r[l.val].1

/-- The flags of lane results together (R187). -/
def outFlags (r : Vector LaneOut 64) : Flags := (List.range 64).foldl (fun a l => if h : l < 64 then a.or r[l].2 else a) {}

/-- OR flags into %fflags (R93, R187). -/
def Group.raise (g : Group) (f : Flags) : Group := { g with fflags := g.fflags ||| f.bits }

/-- A vector word: the active lanes write vD with latency `lat` and raise their flags (R194). -/
def vectorFl (i : Instr) (m : Ctx → Mask) (d : BitVec 6) (lat : Nat) (f : Ctx → Fin 64 → LaneOut) (s : State) : Out :=
  issueG i s fun x g =>
    let r := overLanes (m x) (f x)
    (g.putV x d lat (m x) (outWords r)).raise (outFlags r)

/-- A vector word that raises no flag (R194). -/
def vector (i : Instr) (m : Ctx → Mask) (d : BitVec 6) (lat : Nat) (f : Ctx → Fin 64 → BitVec 32) (s : State) : Out :=
  issueG i s fun x g => g.putV x d lat (m x) (Vector.ofFn (f x))

/-- What a lane's rounding depends on (R182, R185, R188): the effective mode, FTZ, the modifier word. -/
structure FpEnv where
  mode : Nat
  ftz  : Bool
  md   : ModWord
  deriving DecidableEq, Repr

/-- The environment of a unit (R182): RM of its MOD word when nonzero, else %mode.RM. -/
def Ctx.env (x : Ctx) : FpEnv :=
  let m := modOf x.hs
  ⟨if m.rm ≠ 0 then m.rm else x.g.rm.toNat, x.g.ftz, m⟩

/-- The A operand after its modifiers (R188). -/
def FpEnv.modA (v : FpEnv) (a : FVal) : FVal :=
  let a := if v.md.absA then a.abs else a
  if v.md.negA then a.neg else a

/-- The B operand after its modifiers (R188). -/
def FpEnv.modB (v : FpEnv) (b : FVal) : FVal :=
  let b := if v.md.absB then b.abs else b
  if v.md.negB then b.neg else b

/-- The last steps of R188: NaN, scaling, clamping, one rounding. -/
def FpEnv.finish (v : FpEnv) (f : Fmt) (r : FVal × Flags) : Nat × Flags :=
  if r.1.isNan then (if v.md.clamp then 0 else f.nan, r.2)
  else
    let x := r.1.scale v.md.scale
    let x := if v.md.clamp then x.clamp else x
    let (bits, fl) := f.round v.mode v.ftz x
    (bits, r.2.or fl)

/-- An operation of two operands in a format (R206, R209). -/
def FpEnv.op2 (v : FpEnv) (f : Fmt) (op : FVal → FVal → FVal × Flags) (a b : Nat) : Nat × Flags :=
  v.finish f (op (v.modA (f.decode v.ftz a)) (v.modB (f.decode v.ftz b)))

/-- A fused operation in a format (R206, R209): the addend takes no modifier. -/
def FpEnv.op3 (v : FpEnv) (f : Fmt) (sub : Bool) (a b c : Nat) : Nat × Flags :=
  let z := f.decode v.ftz c
  let (r, bad) := FVal.fma v.mode (v.modA (f.decode v.ftz a)) (v.modB (f.decode v.ftz b)) (if sub then z.neg else z)
  v.finish f (r, { nv := bad })

/-- The exact operations of two operands (R206, R207). -/
inductive FpOp where
  | add | sub | mul | div | min | max
  deriving DecidableEq, Repr

/-- The exact result of an operation, and its flags. -/
def FpOp.eval (o : FpOp) (mode : Nat) (a b : FVal) : FVal × Flags :=
  match o with
  | .add => let (r, bad) := a.add mode b; (r, { nv := bad })
  | .sub => let (r, bad) := a.add mode b.neg; (r, { nv := bad })
  | .mul => let (r, bad) := a.mul b; (r, { nv := bad })
  | .div => let (r, bad, dz) := a.div b; (r, { nv := bad, dz := dz })
  | .min => let (r, bad) := FVal.pick false a b; (r, { nv := bad })
  | .max => let (r, bad) := FVal.pick true a b; (r, { nv := bad })

/-- A number result as a lane word. -/
def laneOf (r : Nat × Flags) : LaneOut := (BitVec.ofNat 32 r.1, r.2)

/-- The exact integer result kept in its range, SAT raised when the value changed (R188, R198). -/
def satInt (sat : Bool) (lo hi x : Int) : LaneOut :=
  if sat ∧ x < lo then (BitVec.ofInt 32 lo, { sat := true })
  else if sat ∧ x > hi then (BitVec.ofInt 32 hi, { sat := true })
  else (BitVec.ofInt 32 x, {})

/-- A signed saturating form. -/
def satS (sat : Bool) (x : Int) : LaneOut := satInt sat (-(2 ^ 31)) (2 ^ 31 - 1) x

/-- A natural saturating form. -/
def satN (sat : Bool) (x : Int) : LaneOut := satInt sat 0 (2 ^ 32 - 1) x

end Sys2Proof.Machine
end

