-- ==== Sys2Proof/Machine/VecInt.lean ====
section
/-! DEFINITION. Machine/VecInt.lean: vector integer, immediate, compare, lane and reduction words, masks (R198 to R204,
R211 to R215). -/

namespace Sys2Proof.Machine

/-- The A operand of a lane. -/
def Ctx.la (x : Ctx) (a : BitVec 6) (l : Fin 64) : BitVec 32 := (x.v a)[l.val]

/-- The B operand of a lane: vB[L], or the broadcast scalar (R41, R194). -/
def Ctx.lb (x : Ctx) (sb : BitVec 1) (b : BitVec 6) (l : Fin 64) : BitVec 32 := (x.b sb b)[l.val]

/-- SAT of the unit's MOD word (R48). -/
def Ctx.sat (x : Ctx) : Bool := (modOf x.hs).sat

/-- vadd (R198): signed for .i32 (T = 0), natural for .n32. -/
def execVadd (st : BitVec 3) (pk : BitVec 2) (d a b : BitVec 6) (t x : BitVec 1) (s : State) : Out :=
  vectorFl (.vadd st pk d a b t x) (·.act pk) d 4 (fun c l =>
    if t = 0#1 then satS c.sat ((c.la a l).toInt + (c.lb x b l).toInt)
    else satN c.sat (((c.la a l).toNat : Int) + (c.lb x b l).toNat)) s

/-- vsub (R198): signed for .i32 (T = 0), natural for .n32. -/
def execVsub (st : BitVec 3) (pk : BitVec 2) (d a b : BitVec 6) (t x : BitVec 1) (s : State) : Out :=
  vectorFl (.vsub st pk d a b t x) (·.act pk) d 4 (fun c l =>
    if t = 0#1 then satS c.sat ((c.la a l).toInt - (c.lb x b l).toInt)
    else satN c.sat (((c.la a l).toNat : Int) - (c.lb x b l).toNat)) s

/-- The carry word (R199): writes vD, and k15 in the active lanes. -/
def carryWord (i : Instr) (pk : BitVec 2) (d a b : BitVec 6) (sb : BitVec 1) (sub : Bool) (s : State) : Out :=
  issueG i s fun x g =>
    let m := x.act pk
    let z := fun (l : Fin 64) => ((x.la a l).toNat : Int)
    let y := fun (l : Fin 64) => ((x.lb sb b l).toNat : Int)
    let c := fun (l : Fin 64) => ((x.k 15#4).getLsbD l.val).toNat
    let r := fun (l : Fin 64) => if sub then z l - y l - (c l : Int) else z l + y l + (c l : Int)
    let out := fun (l : Nat) => if h : l < 64 then (if sub then decide (r ⟨l, h⟩ < 0) else decide (r ⟨l, h⟩ ≥ 2 ^ 32)) else false
    let carry := maskOf ((List.range 64).filter fun l => m.getLsbD l && out l)
    (g.putV x d 4 m (Vector.ofFn fun l => BitVec.ofInt 32 (r l))).putK x 15#4 4 m carry

/-- vaddc (R199). -/
def execVaddc (st : BitVec 3) (pk : BitVec 2) (d a b : BitVec 6) (x : BitVec 1) (s : State) : Out := carryWord (.vaddc st pk d a b x) pk d a b x false s

/-- vsubc (R199). -/
def execVsubc (st : BitVec 3) (pk : BitVec 2) (d a b : BitVec 6) (x : BitVec 1) (s : State) : Out := carryWord (.vsubc st pk d a b x) pk d a b x true s

/-- vmul (R198). -/
def execVmul (st : BitVec 3) (pk : BitVec 2) (d a b : BitVec 6) (x : BitVec 1) (s : State) : Out :=
  vectorFl (.vmul st pk d a b x) (·.act pk) d 4 (fun c l => satS c.sat ((c.la a l).toInt * (c.lb x b l).toInt)) s

/-- vmad (R198): the addend is the old vD. -/
def execVmad (st : BitVec 3) (pk : BitVec 2) (d a b : BitVec 6) (x : BitVec 1) (s : State) : Out :=
  vectorFl (.vmad st pk d a b x) (·.act pk) d 4
    (fun c l => satS c.sat ((c.la a l).toInt * (c.lb x b l).toInt + (c.la d l).toInt)) s

/-- vmulh (R198: high word, signed). -/
def execVmulh (st : BitVec 3) (pk : BitVec 2) (d a b : BitVec 6) (x : BitVec 1) (s : State) : Out :=
  vector (.vmulh st pk d a b x) (·.act pk) d 4 (fun c l => ((c.la a l).signExtend 64 * (c.lb x b l).signExtend 64).extractLsb' 32 32) s

/-- vmulhn (R198: high word, natural). -/
def execVmulhn (st : BitVec 3) (pk : BitVec 2) (d a b : BitVec 6) (x : BitVec 1) (s : State) : Out :=
  vector (.vmulhn st pk d a b x) (·.act pk) d 4 (fun c l => ((c.la a l).setWidth 64 * (c.lb x b l).setWidth 64).extractLsb' 32 32) s

/-- vand (R200). -/
def execVand (st : BitVec 3) (pk : BitVec 2) (d a b : BitVec 6) (x : BitVec 1) (s : State) : Out :=
  vector (.vand st pk d a b x) (·.act pk) d 4 (fun c l => c.la a l &&& c.lb x b l) s

/-- vor (R200). -/
def execVor (st : BitVec 3) (pk : BitVec 2) (d a b : BitVec 6) (x : BitVec 1) (s : State) : Out :=
  vector (.vor st pk d a b x) (·.act pk) d 4 (fun c l => c.la a l ||| c.lb x b l) s

/-- vxor (R200). -/
def execVxor (st : BitVec 3) (pk : BitVec 2) (d a b : BitVec 6) (x : BitVec 1) (s : State) : Out :=
  vector (.vxor st pk d a b x) (·.act pk) d 4 (fun c l => c.la a l ^^^ c.lb x b l) s

/-- vandn (R200). -/
def execVandn (st : BitVec 3) (pk : BitVec 2) (d a b : BitVec 6) (x : BitVec 1) (s : State) : Out :=
  vector (.vandn st pk d a b x) (·.act pk) d 4 (fun c l => c.la a l &&& ~~~(c.lb x b l)) s

/-- vshl (R200). -/
def execVshl (st : BitVec 3) (pk : BitVec 2) (d a b : BitVec 6) (x : BitVec 1) (s : State) : Out :=
  vector (.vshl st pk d a b x) (·.act pk) d 4 (fun c l => shlWord (c.la a l) (c.lb x b l).toNat) s

/-- vshr (R200). -/
def execVshr (st : BitVec 3) (pk : BitVec 2) (d a b : BitVec 6) (x : BitVec 1) (s : State) : Out :=
  vector (.vshr st pk d a b x) (·.act pk) d 4 (fun c l => shrWord (c.la a l) (c.lb x b l).toNat) s

/-- vsra (R200). -/
def execVsra (st : BitVec 3) (pk : BitVec 2) (d a b : BitVec 6) (x : BitVec 1) (s : State) : Out :=
  vector (.vsra st pk d a b x) (·.act pk) d 4 (fun c l => sraWord (c.la a l) (c.lb x b l).toNat) s

/-- vmin (R200: signed). -/
def execVmin (st : BitVec 3) (pk : BitVec 2) (d a b : BitVec 6) (x : BitVec 1) (s : State) : Out :=
  vector (.vmin st pk d a b x) (·.act pk) d 4 (fun c l => if (c.la a l).slt (c.lb x b l) then c.la a l else c.lb x b l) s

/-- vminn (R200: natural). -/
def execVminn (st : BitVec 3) (pk : BitVec 2) (d a b : BitVec 6) (x : BitVec 1) (s : State) : Out :=
  vector (.vminn st pk d a b x) (·.act pk) d 4 (fun c l => if (c.la a l).ult (c.lb x b l) then c.la a l else c.lb x b l) s

/-- vmax (R200: signed). -/
def execVmax (st : BitVec 3) (pk : BitVec 2) (d a b : BitVec 6) (x : BitVec 1) (s : State) : Out :=
  vector (.vmax st pk d a b x) (·.act pk) d 4 (fun c l => if (c.la a l).slt (c.lb x b l) then c.lb x b l else c.la a l) s

/-- vmaxn (R200: natural). -/
def execVmaxn (st : BitVec 3) (pk : BitVec 2) (d a b : BitVec 6) (x : BitVec 1) (s : State) : Out :=
  vector (.vmaxn st pk d a b x) (·.act pk) d 4 (fun c l => if (c.la a l).ult (c.lb x b l) then c.lb x b l else c.la a l) s

/-- vsel (R203): kPK selects between vA and vB in every lane of k0. -/
def execVsel (st : BitVec 3) (pk : BitVec 2) (d a b : BitVec 6) (x : BitVec 1) (s : State) : Out :=
  vector (.vsel st pk d a b x) (·.f.mask) d 4
    (fun c l => if (c.k (pk.setWidth 4)).getLsbD l.val then c.la a l else c.lb x b l) s

/-- A compare word: writes kD in the active lanes (R204, R205). -/
def compareWord (i : Instr) (pk : BitVec 2) (d : BitVec 4) (lat : Nat) (f : Ctx → Fin 64 → Bool × Flags) (s : State) : Out :=
  issueG i s fun x g =>
    let m := x.act pk
    let r := overLanes m fun l => let (t, fl) := f x l; (if t then 1#32 else 0#32, fl)
    let set := maskOf ((List.range 64).filter fun l => if h : l < 64 then r[l].1 == 1#32 else false)
    (g.putK x d lat m set).raise (outFlags r)

/-- The conditions of `vcmp` (R63, R204). -/
def intCond (c : BitVec 3) (a b : BitVec 32) : Bool :=
  match c.toNat with
  | 0 => a == b
  | 1 => a != b
  | 2 => a.slt b
  | 3 => a.sle b
  | 4 => a.ult b
  | _ => a.ule b

/-- vcmp (R204). -/
def execVcmp (st : BitVec 3) (pk : BitVec 2) (c : BitVec 3) (d : BitVec 4) (a b : BitVec 6) (x : BitVec 1) (s : State) : Out :=
  compareWord (.vcmp st pk c d a b x) pk d 4 (fun y l => (intCond c (y.la a l) (y.lb x b l), {})) s

/-- vabs (R201). -/
def execVabs (st : BitVec 3) (pk : BitVec 2) (d a : BitVec 6) (s : State) : Out :=
  vector (.vabs st pk d a) (·.act pk) d 4 (fun c l => if (c.la a l).slt 0#32 then 0#32 - c.la a l else c.la a l) s

/-- vclz (R201). -/
def execVclz (st : BitVec 3) (pk : BitVec 2) (d a : BitVec 6) (s : State) : Out :=
  vector (.vclz st pk d a) (·.act pk) d 4 (fun c l => BitVec.ofNat 32 (clzBits (c.la a l))) s

/-- vpopc (R201). -/
def execVpopc (st : BitVec 3) (pk : BitVec 2) (d a : BitVec 6) (s : State) : Out :=
  vector (.vpopc st pk d a) (·.act pk) d 4 (fun c l => BitVec.ofNat 32 (popCount (c.la a l))) s

/-- vmovV (R201). -/
def execVmovV (st : BitVec 3) (pk : BitVec 2) (d a : BitVec 6) (s : State) : Out :=
  vector (.vmovV st pk d a) (·.act pk) d 4 (fun c l => c.la a l) s

/-- vmovS (R201). -/
def execVmovS (st : BitVec 3) (pk : BitVec 2) (d a : BitVec 6) (s : State) : Out :=
  vector (.vmovS st pk d a) (·.act pk) d 4 (fun c _ => (c.s a).setWidth 32) s

/-- vidx (R201): the lane number. -/
def execVidx (st : BitVec 3) (pk : BitVec 2) (d : BitVec 6) (s : State) : Out :=
  vector (.vidx st pk d) (·.act pk) d 4 (fun _ l => BitVec.ofNat 32 l.val) s

/-- vaddi (R202): a signed add of the low 32 bits of the immediate. -/
def execVaddi (st : BitVec 3) (pk : BitVec 2) (d a : BitVec 6) (i : BitVec 8) (s : State) : Out :=
  vectorFl (.vaddi st pk d a i) (·.act pk) d 4
    (fun c l => satS c.sat ((c.la a l).toInt + ((immI c.hs i).setWidth 32).toInt)) s

/-- vandi (R202). -/
def execVandi (st : BitVec 3) (pk : BitVec 2) (d a : BitVec 6) (i : BitVec 8) (s : State) : Out :=
  vector (.vandi st pk d a i) (·.act pk) d 4 (fun c l => c.la a l &&& (immI c.hs i).setWidth 32) s

/-- vshli (R202). -/
def execVshli (st : BitVec 3) (pk : BitVec 2) (d a : BitVec 6) (i : BitVec 8) (s : State) : Out :=
  vector (.vshli st pk d a i) (·.act pk) d 4 (fun c l => c.la a l <<< i.toNat) s

/-- vshri (R202). -/
def execVshri (st : BitVec 3) (pk : BitVec 2) (d a : BitVec 6) (i : BitVec 8) (s : State) : Out :=
  vector (.vshri st pk d a i) (·.act pk) d 4 (fun c l => c.la a l >>> i.toNat) s

/-- vsrai (R202). -/
def execVsrai (st : BitVec 3) (pk : BitVec 2) (d a : BitVec 6) (i : BitVec 8) (s : State) : Out :=
  vector (.vsrai st pk d a i) (·.act pk) d 4 (fun c l => (c.la a l).sshiftRight i.toNat) s

/-- A word of a lane by number. -/
def laneAt (v : Lanes) (n : Nat) : BitVec 32 := v[n % 64]'(Nat.mod_lt _ (by decide))

/-- What lane `l` of a register may read as, besides its word now, while writes of other fragments to it are in flight (R212): the
words before them, that of a lane whose access is performed, and a free word where the value to come is not known yet. -/
def Ctx.inFlightWords (x : Ctx) (a : BitVec 6) (draw l : Nat) : List (BitVec 32) :=
  let pends := (((List.range 4).filter fun j => j != x.fid).flatMap fun j => (x.g.frag j).pend) ++ x.g.orphans
  let olds := pends.filterMap fun p =>
    match p with
    | .v n w m t => if n = a ∧ t > x.now ∧ m.getLsbD l then some (laneAt w l) else none
    | .xv n w m t => if n = a ∧ t > x.now ∧ m.getLsbD l then some (laneAt w l) else none
    | _ => none
  let reqs := (x.g.reqs.filter fun r => r.frag != x.fid && r.vdst.contains a.toNat).flatMap fun r =>
    (r.lanes.filter fun c => c.lane == l).map fun (c : LaneAcc) =>
      if c.st = .performed then (if a.toNat = r.dst then c.res.setWidth 32 else (c.res >>> 32).setWidth 32) else Config.racedWord (draw + l)
  let gates := (x.g.gates.filter fun w => w.frag != x.fid && w.vregs.contains a.toNat).map fun _ => Config.racedWord (draw + l)
  olds ++ reqs ++ gates

/-- A register as a lane-crossing read sees it (R211, R212): a lane outside k0 that another fragment's write has in
flight reads any of the values before and after the writes, whichever a free draw says. (DESIGN CHOICE, log 16) -/
def Ctx.crossing (x : Ctx) (a : BitVec 6) (draw : Nat) : Lanes :=
  Vector.ofFn fun l =>
    if x.f.mask.getLsbD l.val then (x.v a)[l.val]
    else
      match x.inFlightWords a draw l.val with
      | [] => (x.v a)[l.val]
      | ws => ws.getD (Config.raceChoice (draw + l.val) % (ws.length + 1)) ((x.v a)[l.val])

/-- The issue of a lane-crossing word (R211, R212): 64 draws for the lanes that race. -/
def crossWord (i : Instr) (a : BitVec 6) (s : State) (eff : Ctx → Lanes → Group → Group) : Out :=
  issue i s free fun x t => x.upd { t with draws := t.draws + 64 } (eff x (x.crossing a t.draws))

/-- vperm (R211). -/
def execVperm (st : BitVec 3) (pk : BitVec 2) (d a b : BitVec 6) (x : BitVec 1) (s : State) : Out :=
  crossWord (.vperm st pk d a b x) a s fun c v g =>
    g.putV c d 6 (c.act pk) (Vector.ofFn fun l => laneAt v (c.lb x b l).toNat)

/-- vshfl.xor (R211). -/
def execVshflXor (st : BitVec 3) (pk : BitVec 2) (d a b : BitVec 6) (x : BitVec 1) (s : State) : Out :=
  crossWord (.vshflXor st pk d a b x) a s fun c v g =>
    g.putV c d 6 (c.act pk) (Vector.ofFn fun l => laneAt v (l.val ^^^ ((c.lb x b l).toNat % 64)))

/-- vshfl.rot (R211). -/
def execVshflRot (st : BitVec 3) (pk : BitVec 2) (d a b : BitVec 6) (x : BitVec 1) (s : State) : Out :=
  crossWord (.vshflRot st pk d a b x) a s fun c v g =>
    g.putV c d 6 (c.act pk) (Vector.ofFn fun l => laneAt v (l.val + (c.lb x b l).toNat % 64))

/-- vbcast (R211). -/
def execVbcast (st : BitVec 3) (pk : BitVec 2) (d a b : BitVec 6) (s : State) : Out :=
  crossWord (.vbcast st pk d a b) a s fun c v g =>
    g.putV c d 6 (c.act pk) (Vector.replicate 64 (laneAt v (c.s b).toNat))

/-- vmovs (R211): one lane's word, zero-extended. -/
def execVmovs (st : BitVec 3) (d a b : BitVec 6) (s : State) : Out :=
  crossWord (.vmovs st d a b) a s fun c v g => g.putS c d 6 ((laneAt v (c.s b).toNat).setWidth 64)

/-- One stage of a reduction (R214): neighbours combine, the lower index on the left; an absent entry passes the other. -/
def redStage (op : BitVec 32 → BitVec 32 → LaneOut) : List (Option (BitVec 32)) → List (Option (BitVec 32)) × Flags
  | some a :: some b :: r =>
    let (v, f) := op a b
    let (t, g) := redStage op r
    (some v :: t, f.or g)
  | some a :: none :: r => let (t, g) := redStage op r; (some a :: t, g)
  | none :: b :: r => let (t, g) := redStage op r; (b :: t, g)
  | l => (l, {})

/-- The six stages of a reduction (R214). -/
def redTree (op : BitVec 32 → BitVec 32 → LaneOut) : Nat → List (Option (BitVec 32)) → Option (BitVec 32) × Flags
  | 0, l => (l.headD none, {})
  | n + 1, l =>
    let (t, f) := redStage op l
    let (v, g) := redTree op n t
    (v, f.or g)

/-- A subnormal word read under FTZ (R185). -/
def flushWord (ftz : Bool) (a : BitVec 32) : BitVec 32 :=
  if ftz ∧ a.toNat / 2 ^ 23 % 256 = 0 then a &&& 0x80000000#32 else a

/-- The operations of `vred` (R213): the combination, the value of an empty set, whether the result is .f32. (DEDUCED, log 25) -/
def redOp (c : Nat) (ftz : Bool) : (BitVec 32 → BitVec 32 → LaneOut) × BitVec 32 × Bool :=
  let env : FpEnv := ⟨1, ftz, .zero⟩
  let fp := fun (o : FpOp) (a b : BitVec 32) => laneOf (env.op2 .f32 (o.eval 1) a.toNat b.toNat)
  match c with
  | 0 => (fun a b => (a + b, {}), 0#32, false)
  | 1 => (fp .add, 0#32, true)
  | 2 => (fun a b => (if a.slt b then a else b, {}), 0x7FFFFFFF#32, false)
  | 3 => (fun a b => (if a.slt b then b else a, {}), 0x80000000#32, false)
  | 4 => (fun a b => (if a.ult b then a else b, {}), 0xFFFFFFFF#32, false)
  | 5 => (fun a b => (if a.ult b then b else a, {}), 0#32, false)
  | 6 => (fp .min, 0x7F800000#32, true)
  | 7 => (fp .max, 0xFF800000#32, true)
  | 8 => (fun a b => (a &&& b, {}), 0xFFFFFFFF#32, false)
  | 9 => (fun a b => (a ||| b, {}), 0#32, false)
  | _ => (fun a b => (a ^^^ b, {}), 0#32, false)

/-- The result of `vred` over the active lanes (R213, R214): add.f32 flushes its inputs, min.f32 and max.f32 those entries that
meet another (DEDUCED, log 25); a NaN that reaches the result is canonical, a signalling one
raises NV. -/
def reduce (c : Nat) (ftz : Bool) (m : Mask) (v : Lanes) : Word × Flags :=
  let (op, empty, isF) := redOp c ftz
  let w0 := (List.range 64).map fun l =>
    if m.getLsbD l then some (if c = 1 then flushWord ftz (laneAt v l) else laneAt v l) else none
  let (r, f) := redTree op 6 w0
  let w := r.getD empty
  let x := Fmt.f32.decode false w.toNat
  let (w, f) := if isF ∧ x.isNan then (BitVec.ofNat 32 Fmt.f32.nan, f.or { nv := x.isSnan }) else (w, f)
  (if c = 0 ∨ c = 2 ∨ c = 3 then w.signExtend 64 else w.setWidth 64, f)

/-- vred (R213, R214). -/
def execVred (st : BitVec 3) (pk : BitVec 2) (d a c : BitVec 6) (s : State) : Out :=
  issueG (.vred st pk d a c) s fun x g =>
    let (w, f) := reduce c.toNat x.g.ftz (x.act pk) (x.v a)
    (g.putS x d 0 w).raise f

/-- A mask word: writes the bits of kD in the lanes of k0 (R75, R215). -/
def maskWord (i : Instr) (d : BitVec 4) (f : Ctx → Mask) (s : State) : Out :=
  issueG i s fun x g => g.putK x d 2 x.f.mask (f x)

/-- kand (R215). -/
def execKand (st : BitVec 3) (d a b : BitVec 4) (s : State) : Out := maskWord (.kand st d a b) d (fun x => x.k a &&& x.k b) s

/-- kor (R215). -/
def execKor (st : BitVec 3) (d a b : BitVec 4) (s : State) : Out := maskWord (.kor st d a b) d (fun x => x.k a ||| x.k b) s

/-- kxor (R215). -/
def execKxor (st : BitVec 3) (d a b : BitVec 4) (s : State) : Out := maskWord (.kxor st d a b) d (fun x => x.k a ^^^ x.k b) s

/-- kandn (R215). -/
def execKandn (st : BitVec 3) (d a b : BitVec 4) (s : State) : Out := maskWord (.kandn st d a b) d (fun x => x.k a &&& ~~~(x.k b)) s

/-- knot (R215). -/
def execKnot (st : BitVec 3) (d a : BitVec 4) (s : State) : Out := maskWord (.knot st d a) d (fun x => ~~~(x.k a)) s

/-- kmovK (R215). -/
def execKmovK (st : BitVec 3) (d a : BitVec 4) (s : State) : Out := maskWord (.kmovK st d a) d (fun x => x.k a) s

/-- kmov from a scalar (R215). -/
def execKmovS (st : BitVec 3) (d : BitVec 4) (a : BitVec 6) (s : State) : Out := maskWord (.kmovS st d a) d (fun x => x.s a) s

/-- The index of the lowest set bit, 64 for none (R215). -/
def lowestLane (m : Mask) : Nat := (lanesOf m).headD 64

/-- kget (R215). -/
def execKget (st : BitVec 3) (d : BitVec 6) (a : BitVec 4) (s : State) : Out :=
  issueG (.kget st d a) s fun x g => g.putS x d 2 (x.k a)

/-- kpopc (R215). -/
def execKpopc (st : BitVec 3) (d : BitVec 6) (a : BitVec 4) (s : State) : Out :=
  issueG (.kpopc st d a) s fun x g => g.putS x d 2 (BitVec.ofNat 64 (popCount (x.k a)))

/-- kffs (R215). -/
def execKffs (st : BitVec 3) (d : BitVec 6) (a : BitVec 4) (s : State) : Out :=
  issueG (.kffs st d a) s fun x g => g.putS x d 2 (BitVec.ofNat 64 (lowestLane (x.k a)))

end Sys2Proof.Machine
end

