-- ==== Sys2Proof/Machine/Memory.lean ====
section
/-! DEFINITION. Machine/Memory.lean: the memory words of majors 0x40 to 0x54 (R216 to R250): their lanes, their checks
(R218, R221, R224, R226, R228), their sectors (R132), and the requests they leave in flight. What performs a request is
in Machine/MemEvents.lean. -/

namespace Sys2Proof.Machine

/-- One lane of a memory word: its effective address or window offset, its store data, the new value of cas. -/
structure LaneIn where
  lane : Nat
  ea   : Word
  data : Word
  new  : Word
  deriving DecidableEq, Repr

/-- A memory word as its operands give it: its kind, what it needs of a page, its width, its lanes. -/
structure MemSpec where
  kind    : ReqKind
  acc     : AccKind
  align   : Bool
  n       : Nat
  scalar  : Bool
  dst     : Nat
  acquire : Bool
  release : Bool
  ins     : List LaneIn
  deriving DecidableEq, Repr

/-- A load (R219). -/
def AccKind.load : AccKind := ⟨false, false, false, false, false⟩
/-- A store: its tag is compared at the slice (R223). -/
def AccKind.store : AccKind := ⟨true, false, false, false, true⟩
/-- An atomic with return: its tag is compared before it leaves (R221). -/
def AccKind.rmw : AccKind := ⟨true, true, false, false, false⟩
/-- A red: an atomic whose tag is compared at the slice (R221). -/
def AccKind.red : AccKind := ⟨true, true, false, false, true⟩
/-- tagld (R246). -/
def AccKind.tagld : AccKind := ⟨false, false, true, true, true⟩
/-- tagst (R246). -/
def AccKind.tagst : AccKind := ⟨true, false, true, true, true⟩

/-- Bytes of a width code (R234). -/
def widthOf (z : BitVec 2) : Nat := 2 ^ z.toNat

/-- off(L) of the contiguous and the indexed form (R217). -/
def Ctx.off (x : Ctx) (b : BitVec 6) (n l : Nat) : Word :=
  if b = 0#6 then BitVec.ofNat 64 (l * n) else (laneAt (x.v b) l).signExtend 64

/-- The data of a lane for a store of n bytes (R237). -/
def Ctx.laneData (x : Ctx) (d : BitVec 6) (n l : Nat) : Word :=
  if n = 8 then (laneAt (x.v (d + 1#6)) l).setWidth 64 <<< 32 ||| (laneAt (x.v d) l).setWidth 64
  else (laneAt (x.v d) l).setWidth 64

/-- The lanes of a vector memory word at base plus offset (R217, R224). -/
def Ctx.vecLanes (x : Ctx) (pk : BitVec 2) (base : Word) (b : BitVec 6) (n : Nat) (data new : Nat → Word) : List LaneIn :=
  (lanesOf (x.act pk)).map fun l => ⟨l, base + x.off b n l, data l, new l⟩

/-- The one lane of a scalar memory word (R240): none when PK suppresses it (R43). -/
def Ctx.scaLane (x : Ctx) (pk : BitVec 2) (ea data new : Word) : List LaneIn :=
  if x.live pk then [⟨0, ea, data, new⟩] else []

/-- The place of a cause in the order of R218. -/
def causeRank : Cause → Nat
  | .addr => 0
  | .align => 1
  | .pte => 2
  | .ro => 3
  | .tag => 4
  | _ => 5

/-- The checks of a word's lanes: each lane as its request holds it, the precise causes found, the address of the first lane
that meets PAGE and the mask of the lanes that meet it. -/
structure Plan where
  lanes : List LaneAcc
  bad   : List (Cause × Word × Nat)
  page  : Option (Word × Mask)
  deriving DecidableEq, Repr

/-- One more lane meets PAGE. -/
def addPage (p : Option (Word × Mask)) (a : Word) (lane : Nat) : Option (Word × Mask) :=
  match p with
  | some (b, m) => some (b, m ||| maskOf [lane])
  | none => some (a, maskOf [lane])

/-- Check one lane after another (R218); a lane that meets a draining translation goes on to wait (R433), and one that is
held behind a hamper entry of its line raises no PAGE of its own (R233, DEDUCED, log 34). -/
def planLanes (s : State) (part : Nat) (at' : Site) (m : MemSpec) (behind : Word → Bool) : Plan × State :=
  m.ins.foldl (fun (r : Plan × State) i =>
    let (p, s) := r
    let lane := fun (pas tpas : List Nat) (ext : Bool) (st : LaneSt) => LaneAcc.mk i.lane i.ea pas tpas ext i.data i.new 0#64 st (st == .faulted)
    match laneCheck s part at' m.acc m.align i.ea m.n with
    | (.ok pas tpas ext, s) => ({ p with lanes := p.lanes ++ [lane pas tpas ext .waiting] }, s)
    | (.wait, s) => ({ p with lanes := p.lanes ++ [lane [] [] false .draining] }, s)
    | (.fault .page a, s) =>
      ({ p with lanes := p.lanes ++ [lane [] [] false .faulted], page := if behind i.ea then p.page else addPage p.page a i.lane }, s)
    | (.fault c a, s) => ({ p with bad := p.bad ++ [(c, a, i.lane)] }, s))
    (⟨[], [], none⟩, s)

/-- The precise trap of a plan (R221): the highest-priority cause on any lane, its lowest lane's address, its lanes. -/
def Plan.fault (p : Plan) : Option (Cause × Word × Mask) :=
  let rank := p.bad.foldl (fun n x => Nat.min n (causeRank x.1)) 9
  match p.bad.find? fun x => causeRank x.1 == rank with
  | none => none
  | some (c, a, _) => some (c, a, maskOf ((p.bad.filter fun x => causeRank x.1 == rank).map fun x => x.2.2))

/-- The distinct 32-byte sectors that a word's lanes address, ADDR and ALIGN lanes apart (R132). -/
def sectorsOf (align : Bool) (n : Nat) (ins : List LaneIn) : Nat :=
  (ins.flatMap fun i =>
    let last := i.ea + BitVec.ofNat 64 (n - 1)
    if field i.ea 59 55 ≠ 0 ∨ field last 59 55 ≠ 0 ∨ (align ∧ i.ea.toNat % n ≠ 0) then []
    else
      let a := i.ea.toNat % 2 ^ 55 / 32
      let b := last.toNat % 2 ^ 55 / 32
      (List.range (b + 1 - a)).map (a + ·)).dedup.length

/-- The 64-byte lines of the bytes of lanes, by virtual address. -/
def vlines (n : Nat) (ins : List LaneIn) : List Nat :=
  ins.flatMap fun i => [i.ea.toNat % 2 ^ 55 / 64, (i.ea.toNat % 2 ^ 55 + n - 1) / 64]

/-- A request that the operand log holds when it faults; the others go to the hamper (R232, R233). -/
def ReqKind.logs : ReqKind → Bool
  | .load => true
  | .atomic _ => true
  | .tagld => true
  | .gsess => true
  | _ => false

/-- A request of the operand log. -/
def Request.logged (r : Request) : Bool := r.kind.logs

/-- A request has lanes in the operand log or the hamper. -/
def Request.parked (r : Request) : Bool := r.lanes.any fun l => l.st == .faulted

/-- The entry numbers in use of a core's operand log or hamper, from the fault to the last lane done (R232, R233); a drawing word may
hold one of the log (R330), a write-back of a stream entry whose group is gone one of the hamper (R328). -/
def State.entries (s : State) (core : Nat) (log : Bool) : List Nat :=
  ((s.groups.filter fun g => g.core == core).flatMap fun g =>
    ((g.reqs.filter fun r => r.entered && r.logged == log).map (·.entry)) ++ (if log then g.gates.filterMap (·.entry) else [])) ++
    if log then [] else (s.backs.filter fun b => b.g.core == core).map (·.req.entry)

/-- The lowest free entry of a core's operand log or hamper. -/
def State.freeEntry (s : State) (core : Nat) (log : Bool) : Option Nat :=
  (List.range (if log then Config.logEntries else Config.hamperEntries)).find? fun i => !(s.entries core log).contains i

/-- A byte range of lanes meets a byte range of a faulted lane, by virtual address (R233, R260). -/
def bytesMeet (a b : Word) (n k : Nat) : Bool :=
  let x := a.toNat % 2 ^ 55
  let y := b.toNat % 2 ^ 55
  decide (x < y + k) && decide (y < x + n)

/-- Two accesses touch one 64-byte line, by virtual address (R233). -/
def linesMeet (a b : Word) (n k : Nat) : Bool :=
  let x := a.toNat % 2 ^ 55
  let y := b.toNat % 2 ^ 55
  decide (x / 64 ≤ (y + k - 1) / 64) && decide (y / 64 ≤ (x + n - 1) / 64)

/-- A lane lies on a line that a hamper entry of its group holds (R233). -/
def Group.onHamper (g : Group) (n : Nat) (ea : Word) : Bool :=
  g.reqs.any fun r => r.hampered && r.lanes.any fun l => l.st == .faulted && linesMeet ea l.ea n r.size

/-- A lane joins the operand log or the hamper behind an older entry of its group: a load or an atomic whose bytes a
waiting lane reads (R260), any access of a line that a hamper entry holds (R233). -/
def Group.joins (g : Group) (m : MemSpec) (log : Bool) (ea : Word) : Bool :=
  g.onHamper m.n ea || (log && g.reqs.any fun r => r.logged && r.lanes.any fun l => l.st == .faulted && bytesMeet ea l.ea m.n r.size)

/-- The request of a word, its lanes that join an entry put behind it, where they hold no translation (R233). -/
def Ctx.request (x : Ctx) (s : State) (m : MemSpec) (lanes : List LaneAcc) : Request :=
  let r : Request := ⟨s.nextReq, m.kind, m.n, m.scalar, m.dst, [], m.acquire, x.fid, x.f.mask, x.unit, none, 0, (x.core, x.slot)⟩
  let joined := lanes.map fun l => if l.st = .waiting ∧ x.g.joins m r.logged l.ea then { l with st := .faulted, pas := [], tpas := [], logged := true } else l
  let r := { r with lanes := joined }
  { r with entry := (s.freeEntry x.core r.logged).getD 0 }

/-- A word needs an entry of the operand log or the hamper and finds none free (R232, R233). -/
def Ctx.noEntry (x : Ctx) (s : State) (m : MemSpec) (lanes : List LaneAcc) : Bool :=
  let r := x.request s m lanes
  r.parked && (s.freeEntry x.core r.logged).isNone

/-- The plan of a word of a group, checked against the tags its own `tagst` words leave, staged or in flight. -/
def Ctx.plan (x : Ctx) (s : State) (m : MemSpec) : Plan × State :=
  let own := s.ownTags x.g s.nextReq
  let (p, t) := planLanes { s with tags := own } x.g.part x.g.site m fun ea => m.kind.logs && x.g.onHamper m.n ea
  (p, { t with tags := s.tags })

/-- Read a lane's bytes (R237), its tag for `tagld` (R246). -/
def State.readLane (s : State) (g : Group) (det : Bool) (r : Request) (l : LaneAcc) : Word × State :=
  match r.kind with
  | .tagld =>
    let tags := if det then s.ownTags g r.id else s.tags
    ((sget tags (granule (l.pas.headD 0))).setWidth 64, s)
  | _ =>
    let (bs, t) := readPas s l.pas l.ext
    (BitVec.ofNat 64 (leValue (if det then g.overlay r.id s.mem l.ea l.pas bs else bs)), t)

/-- The low `n` bytes of a word that a mask of bytes names. -/
def byteMask (n : Nat) (m : BitVec 64) : Word :=
  (List.range n).foldl (fun (w : Word) i => if m.getLsbD i then w ||| (255#64 <<< (8 * i)) else w) 0#64

/-- A lane of a load reads (R239): an aligned one all its bytes at once, any other the bytes named that it has not read yet. Bit i of `new`
says that byte i has been read. -/
def LaneAcc.readNow (l : LaneAcc) (n : Nat) (bytes : BitVec 64) (v : Word) : LaneAcc :=
  let all := BitVec.ofNat 64 (2 ^ n - 1)
  let take := (if l.ea.toNat % n = 0 then all else bytes &&& all) &&& ~~~l.new
  let m := byteMask n take
  { l with
    res := (l.res &&& ~~~m) ||| (v &&& m)
    new := l.new ||| take
    st := if l.new ||| take = all then .performed else l.st }

/-- Waiting lanes of a load that satisfy a test read bytes, each independently of the others (R239, R251). -/
def State.performLoad (s : State) (g : Group) (det : Bool) (r : Request) (on : LaneAcc → Bool) (bytes : BitVec 64) : Request × State :=
  let (ls, t) := r.lanes.foldl (fun (a : List LaneAcc × State) l =>
    if l.st = .waiting ∧ on l then
      let (v, t) := a.2.readLane g det r l
      (a.1 ++ [l.readNow r.size bytes v], t)
    else (a.1 ++ [l], a.2)) ([], s)
  ({ r with lanes := ls }, t)

/-- A PAGE record of a request, and the ticket it waits for (R232, R233). -/
def State.raisePage (s : State) (core slot : Nat) (r : Request) (addr : Word) (lanes : Mask) : Option Nat × State :=
  match s.group? core slot with
  | none => (none, s)
  | some g =>
    let src := if r.logged then 0 else 1
    let lm := if r.scalar then r.fmask else lanes
    let b := { s.mkRec g (r.frag % 4) .page addr r.fmask lm r.pc with info := BitVec.ofNat 64 (r.entry * 256 + src) }
    let (t, s1) := s.raiseReplay (dieOf core) b
    (some t, s1)

/-- The lanes of a request in a state. -/
def Request.lanesIn (r : Request) (st : LaneSt) : Mask := maskOf ((r.lanes.filter fun l => l.st == st).map (·.lane))

/-- Whether a word's request is staged in a deterministic launch (R250, R380). -/
def ReqKind.stages : ReqKind → Bool
  | .store => true
  | .red _ => true
  | .tagst => true
  | .peerStore _ => true
  | _ => false

/-- Whether a word is a commit point of a deterministic launch (R379). -/
def MemSpec.commits (m : MemSpec) : Bool :=
  m.acquire || match m.kind with
    | .atomic _ => true
    | .peerLoad _ => true
    | _ => false

/-- A memory word is held: an acquire of its group or a `tlbconf` (R432) is not complete, or it is a release and an older access of the group is
not performed (R241, R245, R253). -/
def Group.orderHeld (g : Group) (release : Bool) : Bool := g.reqs.any (·.acquire) || g.drain.isSome || (release && !g.quiet)

/-- Before a global memory word is charged: its order holds, room in the staging, room in the log or hamper, for
which the whole group waits (R232, R233). -/
def Ctx.memPre (x : Ctx) (s : State) (m : MemSpec) (sectors : Nat) : Pre :=
  match s.group? x.core x.slot with
  | none => .hold
  | some g =>
    if m.ins = [] then (if g.orderHeld false then .hold else .go 0 sectors)
    else if g.orderHeld m.release then .hold
    else
      let (p, _) := x.plan s m
      let det := s.isDet g
      if p.fault.isSome then .go 0 sectors
      else if det ∧ m.kind.stages then x.stagePre s (vlines m.n m.ins) 0 (.go 0 sectors)
      else if x.noEntry s m p.lanes then .holdGroup
      else .go 0 sectors

/-- The lanes of a group's write with the bytes that race with an operation of its own made free (R34): of a store's data, or of what an
atomic leaves, which computes with its operands as they are; its `res` names those bytes and their draws until it is performed. -/
def Ctx.raceLanes (x : Ctx) (s : State) (space n : Nat) (atomic : Bool) (lanes : List LaneAcc) : List LaneAcc × State :=
  lanes.foldl (fun (a : List LaneAcc × State) l =>
    let (v, free, t) := a.2.raceStore x.core x.slot space (l.ea.toNat % (if space = 0 then 2 ^ 55 else 2 ^ 64)) n l.data
    (a.1 ++ [if !atomic then { l with data := v } else if free = 0#64 then l else { l with res := free ||| (BitVec.ofNat 64 a.2.draws <<< 8) }], t))
    ([], s)

/-- A request enters the group: its destination is pending (R54); in a deterministic launch it is staged, becomes the
commit word, or reads committed memory at once (R250). -/
def Ctx.sendRequest (x : Ctx) (s : State) (m : MemSpec) (r : Request) (page : Option (Word × Mask)) : Res :=
  let s0 := { s with nextReq := s.nextReq + 1 }
  let (lanes, s0) := match m.kind with
    | .store => x.raceLanes s0 0 m.n false r.lanes
    | .atomic _ | .red _ => x.raceLanes s0 0 m.n true r.lanes
    | .peerStore p => x.raceLanes s0 (p + 1) m.n false r.lanes
    | _ => (r.lanes, s0)
  let (ticket, s1) := match page with
    | some (a, lanes) => s0.raisePage x.core x.slot r a lanes
    | none => (none, s0)
  let r := { r with lanes := lanes, ticket := ticket }
  if s.isDet x.g then
    if m.kind.stages then x.upd s1 fun g => { g with staged := g.staged ++ [match m.kind with
      | .peerStore pos => .peer pos r
      | _ => .write r] }
    else if m.commits then x.upd s1 fun g => { g with commit := some (.access r), qdone := true }
    else
      let (r1, s2) := s1.performLoad x.g true r (fun _ => true) (~~~0#64)
      x.upd s2 fun g => { g with reqs := g.reqs ++ [r1] }
  else x.upd s1 fun g => { g with reqs := g.reqs ++ [r] }

/-- A memory word without a lane changes nothing; a commit-point word of a deterministic launch still ends its quantum, one that PK
suppresses (R43) too (R250, R379: DESIGN CHOICE, log 66). -/
def Ctx.noLane (x : Ctx) (s : State) (commits : Bool) : Res :=
  if commits && s.isDet x.g then x.upd s fun g => { g with qdone := true } else .done s

/-- The effect of a global memory word (R221, R238): the precise trap of its lanes, or its request. -/
def Ctx.memEff (x : Ctx) (s : State) (m : MemSpec) : Res :=
  if m.ins = [] then x.noLane s m.commits
  else
    let (p, t) := x.plan s m
    match p.fault with
    | some (c, a, lanes) => .trap c a (if m.scalar then none else some lanes)
    | none => x.sendRequest t m (x.request t m p.lanes) p.page

/-- The issue of a global memory word. -/
def memWord (i : Instr) (s : State) (m : Ctx → MemSpec) : Out :=
  issue i s (fun x t => x.memPre t (m x) (sectorsOf (m x).align (m x).n (m x).ins)) fun x t => x.memEff t (m x)

/-- A plain global access: kind, access, lanes. -/
def plainSpec (kind : ReqKind) (acc : AccKind) (n : Nat) (scalar : Bool) (dst : Nat) (ins : List LaneIn) : MemSpec :=
  ⟨kind, acc, false, n, scalar, dst, false, false, ins⟩

/-- ldv (R238). -/
def execLdv (st : BitVec 3) (pk : BitVec 2) (d a b : BitVec 6) (z : BitVec 2) (s : State) : Out :=
  memWord (.ldv st pk d a b z) s fun x =>
    plainSpec .load .load (widthOf z) false d.toNat
      (x.vecLanes pk (x.s a + immM x.hs) b (widthOf z) (fun _ => 0#64) fun _ => 0#64)

/-- stv (R238). -/
def execStv (st : BitVec 3) (pk : BitVec 2) (d a b : BitVec 6) (z : BitVec 2) (s : State) : Out :=
  memWord (.stv st pk d a b z) s fun x =>
    plainSpec .store .store (widthOf z) false d.toNat
      (x.vecLanes pk (x.s a + immM x.hs) b (widthOf z) (x.laneData d (widthOf z)) fun _ => 0#64)

/-- ldx (R240). -/
def execLdx (st : BitVec 3) (pk : BitVec 2) (d a : BitVec 6) (z : BitVec 2) (s : State) : Out :=
  memWord (.ldx st pk d a z) s fun x =>
    plainSpec .load .load (widthOf z) true d.toNat (x.scaLane pk (x.s a + immM x.hs) 0#64 0#64)

/-- stx (R240). -/
def execStx (st : BitVec 3) (pk : BitVec 2) (d a : BitVec 6) (z : BitVec 2) (s : State) : Out :=
  memWord (.stx st pk d a z) s fun x =>
    plainSpec .store .store (widthOf z) true d.toNat (x.scaLane pk (x.s a + immM x.hs) (x.s d) 0#64)

/-- The checks of a window access, in the order ALIGN, SCRATCH (R224): the cause, the lowest lane's offset, the lanes. -/
def windowFault (size n : Nat) (ins : List LaneIn) : Option (Cause × Word × Mask) :=
  let mis := ins.filter fun i => i.ea.toNat % n != 0
  let out := ins.filter fun i => decide (i.ea.toNat + n > size)
  match mis, out with
  | i :: _, _ => some (.align, i.ea, maskOf (mis.map (·.lane)))
  | [], i :: _ => some (.scratch, i.ea, maskOf (out.map (·.lane)))
  | [], [] => none

/-- The window bytes of a lane. -/
def windowBytes (ea : Word) (n : Nat) : List Nat := (List.range n).map (ea.toNat + ·)

/-- A load of the issuing team's window: the pool reads it at issue (R225), LOAD_RESPONSE writes the register. -/
def Ctx.windowLoad (x : Ctx) (s : State) (d : BitVec 6) (n : Nat) (ins : List LaneIn) : Res :=
  if ins = [] then .done s
  else
    let w := (s.team? x.g.team).elim [] (·.window)
    let lanes := ins.map fun i =>
      LaneAcc.mk i.lane i.ea (windowBytes i.ea n) [] false 0#64 0#64 (BitVec.ofNat 64 (readLE w i.ea.toNat n)) .performed false
    let r : Request := ⟨s.nextReq, .window, n, false, d.toNat, lanes, false, x.fid, x.f.mask, x.unit, none, 0, (x.core, x.slot)⟩
    x.upd { s with nextReq := s.nextReq + 1 } fun g => { g.tilesRead with reqs := g.reqs ++ [r] }

/-- A store to the issuing team's window, its lanes in increasing order (R225). -/
def Ctx.windowStore (x : Ctx) (s : State) (n : Nat) (ins : List LaneIn) : Res :=
  .done (ins.foldl (fun t i =>
    let (v, _, t1) := t.raceStore x.core x.slot (t.ownPos x.g + 1) i.ea.toNat n i.data
    (t1.modGroup x.core x.slot Group.tilesRead).windowWrite x.g.team (windowBytes i.ea n) (leBytes n v.toNat)) s)

/-- Before a window word is charged: the order holds (R253). -/
def Ctx.windowPre (x : Ctx) (s : State) : Pre :=
  match s.group? x.core x.slot with
  | some g => if g.orderHeld false then .hold else .go 0 0
  | none => .hold

/-- Bytes of a team's window. -/
def State.windowSize (s : State) (k : TeamKey) : Nat := (s.team? k).elim 0 (·.scratch)

/-- lds (R224, R225, R238). -/
def execLds (st : BitVec 3) (pk : BitVec 2) (d a b : BitVec 6) (z : BitVec 2) (s : State) : Out :=
  issue (.lds st pk d a b z) s (fun x t => x.windowPre t) fun x t =>
    let ins := x.vecLanes pk (x.s a + immM x.hs) b (widthOf z) (fun _ => 0#64) fun _ => 0#64
    match windowFault (t.windowSize x.g.team) (widthOf z) ins with
    | some (c, o, m) => .trap c o (some m)
    | none => x.windowLoad t d (widthOf z) ins

/-- sts (R224, R225, R238). -/
def execSts (st : BitVec 3) (pk : BitVec 2) (d a b : BitVec 6) (z : BitVec 2) (s : State) : Out :=
  issue (.sts st pk d a b z) s (fun x t => x.windowPre t) fun x t =>
    let ins := x.vecLanes pk (x.s a + immM x.hs) b (widthOf z) (x.laneData d (widthOf z)) fun _ => 0#64
    match windowFault (t.windowSize x.g.team) (widthOf z) ins with
    | some (c, o, m) => .trap c o (some m)
    | none => x.windowStore t (widthOf z) ins

/-- A peer position that the issuing team's cluster team does not have (R226). -/
def State.noPeer (s : State) (g : Group) (q : Nat) : Bool :=
  let n := s.shapeOf g
  decide (n ≤ 1) || g.team.origin || decide (q ≥ n)

/-- A peer word's request. -/
def peerSpec (kind : ReqKind) (d : BitVec 6) (ins : List LaneIn) : MemSpec :=
  ⟨kind, .load, true, 4, false, d.toNat, false, false, ins⟩

/-- Before a peer word is charged (R253, R380). -/
def Ctx.peerPre (x : Ctx) (s : State) (staged : Nat) : Pre :=
  match s.group? x.core x.slot with
  | some g => if g.orderHeld false then .hold else x.stagePre s [] staged (.go 0 0)
  | none => .hold

/-- The request of a peer word, its lanes waiting. -/
def Ctx.peerLanes (ins : List LaneIn) : List LaneAcc :=
  ins.map fun i => LaneAcc.mk i.lane i.ea (windowBytes i.ea 4) [] false i.data 0#64 0#64 .waiting false

/-- ldp (R226, R238); a commit point of a deterministic launch (R379). -/
def execLdp (st : BitVec 3) (pk : BitVec 2) (d a b : BitVec 6) (q : BitVec 2) (s : State) : Out :=
  issue (.ldp st pk d a b q) s (fun x t => x.peerPre t 0) fun x t =>
    let ins := x.vecLanes pk (x.s a + immM x.hs) b 4 (fun _ => 0#64) fun _ => 0#64
    if t.noPeer x.g q.toNat then .trap .illegal (wordOf (.ldp st pk d a b q)) none
    else
      match windowFault (t.windowSize x.g.team) 4 ins with
      | some (c, o, m) => .trap c o (some m)
      | none =>
        if ins = [] then x.noLane t true
        else if t.ownPos x.g = q.toNat ∧ !t.isDet x.g then x.windowLoad t d 4 ins
        else
          let m := peerSpec (.peerLoad q.toNat) d ins
          x.sendRequest t m { x.request t m [] with lanes := Ctx.peerLanes ins } none

/-- stp (R226, R238); staged in a deterministic launch (R380), where it has a lane. -/
def execStp (st : BitVec 3) (pk : BitVec 2) (d a b : BitVec 6) (q : BitVec 2) (s : State) : Out :=
  issue (.stp st pk d a b q) s (fun x t => x.peerPre t (if x.act pk = 0#64 then 0 else 1)) fun x t =>
    let ins := x.vecLanes pk (x.s a + immM x.hs) b 4 (x.laneData d 4) fun _ => 0#64
    if t.noPeer x.g q.toNat then .trap .illegal (wordOf (.stp st pk d a b q)) none
    else
      match windowFault (t.windowSize x.g.team) 4 ins with
      | some (c, o, m) => .trap c o (some m)
      | none =>
        if ins = [] then .done t
        else if t.ownPos x.g = q.toNat ∧ !t.isDet x.g then x.windowStore t 4 ins
        else
          let m := peerSpec (.peerStore q.toNat) d ins
          x.sendRequest t m { x.request t m [] with lanes := Ctx.peerLanes ins } none

/-- A buffer descriptor as an access uses it (R227). -/
structure BufDesc where
  base : Word
  len  : Nat
  rd   : Bool
  w    : Bool
  clamp : Bool
  deriving DecidableEq, Repr

/-- The fields of a descriptor (R227). -/
def bufOf (b : BitVec 128) : BufDesc :=
  ⟨b.extractLsb' 0 64, (b.extractLsb' 64 40).toNat, b.getLsbD 104, b.getLsbD 105, (b.extractLsb' 106 2) == 1#2⟩

/-- The offsets o of a buffer word's lanes (R228). -/
def Ctx.bufLanes (x : Ctx) (pk : BitVec 2) (b : BitVec 6) (n : Nat) (data : Nat → Word) : List LaneIn :=
  (lanesOf (x.act pk)).map fun l =>
    ⟨l, immM x.hs + (if b = 0#6 then BitVec.ofNat 64 (l * n) else (laneAt (x.v b) l).setWidth 64), data l, 0#64⟩

/-- A lane lies within the buffer (R228). -/
def BufDesc.inside (q : BufDesc) (n : Nat) (i : LaneIn) : Bool := decide (i.ea.toNat + n ≤ q.len)

/-- The lanes that trap BOUNDS (R228). -/
def BufDesc.bad (q : BufDesc) (write : Bool) (n : Nat) (ins : List LaneIn) : List LaneIn :=
  if (if write then q.w else q.rd) then (if q.clamp then [] else ins.filter fun i => !q.inside n i) else ins

/-- The lanes of a buffer at their global addresses. -/
def BufDesc.global (q : BufDesc) (ins : List LaneIn) : List LaneIn := ins.map fun i => { i with ea := q.base + i.ea }

/-- The clamped lanes of a buffer load (R238): zeros, which come with the lanes that are read, or with an answer of their own where none is
(DESIGN CHOICE, log 73). -/
def Ctx.putZeros (x : Ctx) (s : State) (reads : Bool) (d : BitVec 6) (n : Nat) (out : Mask) : Res :=
  let z := (lanesOf out).map fun l => LaneAcc.mk l 0#64 [] [] false 0#64 0#64 0#64 .performed false
  let own : Request := ⟨s.nextReq, .window, n, false, d.toNat, z, false, x.fid, x.f.mask, x.unit, none, 0, (x.core, x.slot)⟩
  if reads then x.upd s fun g => match g.reqs.getLast? with
    | some r => { g with reqs := g.reqs.dropLast ++ [{ r with lanes := r.lanes ++ z }] }
    | none => g
  else x.upd { s with nextReq := s.nextReq + 1 } fun g => { g with reqs := g.reqs ++ [own] }

/-- The issue of a buffer word (R228, R238). -/
def bufWord (i : Instr) (write : Bool) (d : BitVec 6) (a : BitVec 4) (n : Nat) (ins : Ctx → List LaneIn) (s : State) : Out :=
  let q := fun (x : Ctx) => bufOf (x.g.b[a.toNat]'a.isLt)
  let m := fun (x : Ctx) =>
    plainSpec (if write then .store else .load) (if write then .store else .load) n false d.toNat
      ((q x).global ((ins x).filter ((q x).inside n)))
  issue i s
    (fun x t =>
      let sectors := sectorsOf false n ((q x).global (ins x))
      if (q x).bad write n (ins x) ≠ [] then (if x.g.orderHeld false then .hold else .go 0 sectors)
      else x.memPre t (m x) sectors)
    fun x t =>
      match (q x).bad write n (ins x) with
      | i :: r => .trap .bounds i.ea (some (maskOf ((i :: r).map (·.lane))))
      | [] =>
        let out := maskOf (((ins x).filter fun i => !(q x).inside n i).map (·.lane))
        match x.memEff t (m x) with
        | .trap c v l => .trap c v l
        | .done t1 =>
          if write ∨ out = 0#64 then .done t1
          else x.putZeros t1 ((m x).ins != []) d n out

/-- ldb (R228, R238). -/
def execLdb (st : BitVec 3) (pk : BitVec 2) (d : BitVec 6) (a : BitVec 4) (b : BitVec 6) (z : BitVec 2) (s : State) : Out :=
  bufWord (.ldb st pk d a b z) false d a (widthOf z) (fun x => x.bufLanes pk b (widthOf z) fun _ => 0#64) s

/-- stb (R228, R238). -/
def execStb (st : BitVec 3) (pk : BitVec 2) (d : BitVec 6) (a : BitVec 4) (b : BitVec 6) (z : BitVec 2) (s : State) : Out :=
  bufWord (.stb st pk d a b z) true d a (widthOf z) (fun x => x.bufLanes pk b (widthOf z) (x.laneData d (widthOf z))) s

/-- ldacq (R241). -/
def execLdacq (st : BitVec 3) (pk : BitVec 2) (d a : BitVec 6) (c : BitVec 3) (z : BitVec 1) (s : State) : Out :=
  let n := if z = 1#1 then 8 else 4
  memWord (.ldacq st pk d a c z) s fun x =>
    ⟨.load, .load, true, n, true, d.toNat, true, false, x.scaLane pk (x.s a + immM x.hs) 0#64 0#64⟩

/-- strel (R241). -/
def execStrel (st : BitVec 3) (pk : BitVec 2) (d a : BitVec 6) (c : BitVec 3) (z : BitVec 1) (s : State) : Out :=
  let n := if z = 1#1 then 8 else 4
  memWord (.strel st pk d a c z) s fun x =>
    ⟨.store, .store, true, n, true, d.toNat, false, true, x.scaLane pk (x.s a + immM x.hs) (x.s d) 0#64⟩

/-- The order bits of an atomic (R244, R65): acquire, release. -/
def acquires (hs : List Instr) : Bool := (atomCtl hs).order % 2 == 1
/-- The release half of an atomic's order. -/
def releases (hs : List Instr) : Bool := (atomCtl hs).order / 2 % 2 == 1

/-- atom (R242, R244). -/
def execAtom (st : BitVec 3) (pk : BitVec 2) (d a b : BitVec 6) (z : BitVec 1) (s : State) : Out :=
  let n := if z = 1#1 then 8 else 4
  let next := d + BitVec.ofNat 6 (n / 4)
  memWord (.atom st pk d a b z) s fun x =>
    ⟨.atomic (atomCtl x.hs).op, .rmw, true, n, false, d.toNat, acquires x.hs, releases x.hs,
      x.vecLanes pk (x.s a) b n (x.laneData d n) (x.laneData next n)⟩

/-- atoms (R242, R244). -/
def execAtoms (st : BitVec 3) (pk : BitVec 2) (d a : BitVec 6) (z : BitVec 1) (s : State) : Out :=
  let n := if z = 1#1 then 8 else 4
  memWord (.atoms st pk d a z) s fun x =>
    ⟨.atomic (atomCtl x.hs).op, .rmw, true, n, true, d.toNat, acquires x.hs, releases x.hs,
      x.scaLane pk (x.s a) (x.s d) (x.s (d + 1#6))⟩

/-- red (R242, R244). -/
def execRed (st : BitVec 3) (pk : BitVec 2) (d a b : BitVec 6) (z : BitVec 1) (s : State) : Out :=
  let n := if z = 1#1 then 8 else 4
  memWord (.red st pk d a b z) s fun x =>
    ⟨.red (atomCtl x.hs).op, .red, true, n, false, d.toNat, false, releases x.hs,
      x.vecLanes pk (x.s a) b n (x.laneData d n) fun _ => 0#64⟩

/-- fence (R245): held until the group's older accesses are performed. -/
def execFence (st c : BitVec 3) (s : State) : Out :=
  issue (.fence st c) s
    (fun x t => match t.group? x.core x.slot with
      | some g => if g.quiet then .go 0 0 else .hold
      | none => .hold)
    fun _ t => .done t

/-- tagld (R246). -/
def execTagld (st : BitVec 3) (pk : BitVec 2) (d a : BitVec 6) (s : State) : Out :=
  memWord (.tagld st pk d a) s fun x =>
    ⟨.tagld, .tagld, false, 1, true, d.toNat, false, false, x.scaLane pk (x.s a + immM x.hs) 0#64 0#64⟩

/-- tagst (R246, R247). -/
def execTagst (st : BitVec 3) (pk : BitVec 2) (d a : BitVec 6) (s : State) : Out :=
  memWord (.tagst st pk d a) s fun x =>
    ⟨.tagst, .tagst, false, 1, true, d.toNat, false, false, x.scaLane pk (x.s a + immM x.hs) (x.s d) 0#64⟩

/-- pref (R248): charged, and nothing architectural. -/
def execPref (st : BitVec 3) (pk : BitVec 2) (a b : BitVec 6) (s : State) : Out :=
  issue (.pref st pk a b) s
    (fun x t =>
      let ins := x.vecLanes pk (x.s a + immM x.hs) b 1 (fun _ => 0#64) fun _ => 0#64
      match t.group? x.core x.slot with
      | some g => if g.orderHeld false then .hold else .go 0 (sectorsOf false 1 ins)
      | none => .hold)
    fun _ t => .done t

/-- bdset (R227, R249). -/
def execBdset (st : BitVec 3) (d : BitVec 4) (a b : BitVec 6) (s : State) : Out :=
  issue (.bdset st d a b) s free fun x t =>
    if field (x.s b) 63 43 ≠ 0 then .trap .illegal (wordOf (.bdset st d a b)) none
    else x.upd t fun g => { g with b := g.b.set d.toNat (x.s b ++ x.s a) d.isLt }

/-- bdget.lo (R249). -/
def execBdgetLo (st : BitVec 3) (d : BitVec 6) (a : BitVec 4) (s : State) : Out :=
  issueG (.bdgetLo st d a) s fun x g => g.putS x d 0 ((x.g.b[a.toNat]'a.isLt).extractLsb' 0 64)

/-- bdget.hi (R249). -/
def execBdgetHi (st : BitVec 3) (d : BitVec 6) (a : BitVec 4) (s : State) : Out :=
  issueG (.bdgetHi st d a) s fun x g => g.putS x d 0 ((x.g.b[a.toNat]'a.isLt).extractLsb' 64 64)

end Sys2Proof.Machine
end

