-- ==== Sys2Proof/Machine/VecFp.lean ====
section
/-! DEFINITION. Machine/VecFp.lean: vector floating point, special functions, conversions, random words (R189 to R192,
R205 to R210). -/

namespace Sys2Proof.Machine

/-- A two-operand .f32 word (R206, R207). -/
def fpWord (i : Instr) (o : FpOp) (pk : BitVec 2) (d a b : BitVec 6) (sb : BitVec 1) (lat : Nat) (s : State) : Out :=
  vectorFl i (·.act pk) d lat
    (fun c l => laneOf (c.env.op2 .f32 (o.eval c.env.mode) (c.la a l).toNat (c.lb sb b l).toNat)) s

/-- fadd (R206). -/
def execFadd (st : BitVec 3) (pk : BitVec 2) (d a b : BitVec 6) (x : BitVec 1) (s : State) : Out := fpWord (.fadd st pk d a b x) .add pk d a b x 6 s

/-- fsub (R206). -/
def execFsub (st : BitVec 3) (pk : BitVec 2) (d a b : BitVec 6) (x : BitVec 1) (s : State) : Out := fpWord (.fsub st pk d a b x) .sub pk d a b x 6 s

/-- fmul (R206). -/
def execFmul (st : BitVec 3) (pk : BitVec 2) (d a b : BitVec 6) (x : BitVec 1) (s : State) : Out := fpWord (.fmul st pk d a b x) .mul pk d a b x 6 s

/-- fdiv (R189, R206). -/
def execFdiv (st : BitVec 3) (pk : BitVec 2) (d a b : BitVec 6) (x : BitVec 1) (s : State) : Out := fpWord (.fdiv st pk d a b x) .div pk d a b x 0 s

/-- fmin (R207). -/
def execFmin (st : BitVec 3) (pk : BitVec 2) (d a b : BitVec 6) (x : BitVec 1) (s : State) : Out := fpWord (.fmin st pk d a b x) .min pk d a b x 6 s

/-- fmax (R207). -/
def execFmax (st : BitVec 3) (pk : BitVec 2) (d a b : BitVec 6) (x : BitVec 1) (s : State) : Out := fpWord (.fmax st pk d a b x) .max pk d a b x 6 s

/-- ffma (R206): a × b + vD. -/
def execFfma (st : BitVec 3) (pk : BitVec 2) (d a b : BitVec 6) (x : BitVec 1) (s : State) : Out :=
  vectorFl (.ffma st pk d a b x) (·.act pk) d 6
    (fun c l => laneOf (c.env.op3 .f32 false (c.la a l).toNat (c.lb x b l).toNat (c.la d l).toNat)) s

/-- ffms (R206): a × b − vD. -/
def execFfms (st : BitVec 3) (pk : BitVec 2) (d a b : BitVec 6) (x : BitVec 1) (s : State) : Out :=
  vectorFl (.ffms st pk d a b x) (·.act pk) d 6
    (fun c l => laneOf (c.env.op3 .f32 true (c.la a l).toNat (c.lb x b l).toNat (c.la d l).toNat)) s

/-- The conditions of `fcmp` and their flag (R63, R205). -/
def fpCond (c : BitVec 3) (a b : FVal) : Bool × Flags :=
  let un := a.isNan || b.isNan
  let sig := a.isSnan || b.isSnan
  match c.toNat with
  | 0 => (!un && a.same b, { nv := sig })
  | 1 => (un || !a.same b, { nv := sig })
  | 2 => (!un && a.less b && !a.same b, { nv := un })
  | 3 => (!un && (a.less b || a.same b), { nv := un })
  | 4 => (!un && b.less a && !a.same b, { nv := un })
  | 5 => (!un && (b.less a || a.same b), { nv := un })
  | _ => (un, { nv := sig })

/-- fcmp (R205). -/
def execFcmp (st : BitVec 3) (pk : BitVec 2) (c : BitVec 3) (d : BitVec 4) (a b : BitVec 6) (x : BitVec 1) (s : State) : Out :=
  compareWord (.fcmp st pk c d a b x) pk d 6
    (fun y l => fpCond c (Fmt.f32.decode y.g.ftz (y.la a l).toNat) (Fmt.f32.decode y.g.ftz (y.lb x b l).toNat)) s

/-- The exact value of a special function of an operand, by its code (R63, R189). -/
def special (upper : Bool) (c : Nat) (a : FVal) : FVal × Flags :=
  match c with
  | 0 => a.rcp
  | 1 => a.rsq
  | 2 => a.sqrt
  | 3 => a.exp2 upper
  | 4 => a.log2 upper
  | 5 => a.trig upper true
  | _ => a.trig upper false

/-- A special function of a lane, rounded once (R188, R189). -/
def specialLane (v : FpEnv) (c : Nat) (a : BitVec 32) : LaneOut :=
  laneOf (v.finish .f32 (special (Config.undecidedRounding c a) c (v.modA (Fmt.f32.decode v.ftz a.toNat))))

/-- A special-function word (R189, R208). -/
def specialWord (i : Instr) (n : Nat) (pk : BitVec 2) (d a : BitVec 6) (s : State) : Out :=
  vectorFl i (·.act pk) d 0 (fun c l => specialLane c.env n (c.la a l)) s

/-- frcp (R189). -/
def execFrcp (st : BitVec 3) (pk : BitVec 2) (d a : BitVec 6) (s : State) : Out := specialWord (.frcp st pk d a) 0 pk d a s

/-- frsq (R189). -/
def execFrsq (st : BitVec 3) (pk : BitVec 2) (d a : BitVec 6) (s : State) : Out := specialWord (.frsq st pk d a) 1 pk d a s

/-- fsqrt (R189). -/
def execFsqrt (st : BitVec 3) (pk : BitVec 2) (d a : BitVec 6) (s : State) : Out := specialWord (.fsqrt st pk d a) 2 pk d a s

/-- fexp2 (R189). -/
def execFexp2 (st : BitVec 3) (pk : BitVec 2) (d a : BitVec 6) (s : State) : Out := specialWord (.fexp2 st pk d a) 3 pk d a s

/-- flog2 (R189). -/
def execFlog2 (st : BitVec 3) (pk : BitVec 2) (d a : BitVec 6) (s : State) : Out := specialWord (.flog2 st pk d a) 4 pk d a s

/-- fsin (R189). -/
def execFsin (st : BitVec 3) (pk : BitVec 2) (d a : BitVec 6) (s : State) : Out := specialWord (.fsin st pk d a) 5 pk d a s

/-- fcos (R189). -/
def execFcos (st : BitVec 3) (pk : BitVec 2) (d a : BitVec 6) (s : State) : Out := specialWord (.fcos st pk d a) 6 pk d a s

/-- The class bit of a word (R208). -/
def fpClass (ftz : Bool) (a : Nat) : Nat :=
  match Fmt.f32.decode ftz a with
  | .nan q => if q then 8 else 9
  | .inf n => if n then 0 else 7
  | .fin n m _ _ =>
    if m = 0 then (if n then 3 else 4)
    else if m < 2 ^ 23 then (if n then 2 else 5)
    else (if n then 1 else 6)

/-- fclass (R208). -/
def execFclass (st : BitVec 3) (pk : BitVec 2) (d a : BitVec 6) (s : State) : Out :=
  vector (.fclass st pk d a) (·.act pk) d 6 (fun c l => BitVec.ofNat 32 (2 ^ fpClass c.g.ftz (c.la a l).toNat)) s

/-- frnd of a lane (R208): an integral value, the sign of a zero kept; only an overflow made by SCALE raises a flag. -/
def roundLane (v : FpEnv) (a : BitVec 32) : LaneOut :=
  let x := v.modA (Fmt.f32.decode v.ftz a.toNat)
  if x.isNan then (BitVec.ofNat 32 (if v.md.clamp then 0 else Fmt.f32.nan), { nv := x.isSnan })
  else
    let x := x.scale v.md.scale
    let x := if v.md.clamp then x.clamp else x
    match x with
    | .fin .. =>
      let (n, k, _) := x.toUnits v.mode
      let (bits, fl) := Fmt.f32.round v.mode v.ftz (.fin n k 0 false)
      (BitVec.ofNat 32 bits, if fl.of then fl else {})
    | y => let (bits, _) := Fmt.f32.round v.mode v.ftz y; (BitVec.ofNat 32 bits, {})

/-- frnd (R208). -/
def execFrnd (st : BitVec 3) (pk : BitVec 2) (d a : BitVec 6) (s : State) : Out :=
  vectorFl (.frnd st pk d a) (·.act pk) d 6 (fun c l => roundLane c.env (c.la a l)) s

/-- The ten rounds of Philox-4x32 (R192). -/
def philoxRounds : Nat → BitVec 32 × BitVec 32 → BitVec 32 × BitVec 32 × BitVec 32 × BitVec 32 → BitVec 32
  | 0, _, (c0, _, _, _) => c0
  | n + 1, (y0, y1), (c0, c1, c2, c3) =>
    let p := c0.setWidth 64 * 0xD2511F53#64
    let q := c2.setWidth 64 * 0xCD9E8D57#64
    philoxRounds n (y0 + 0x9E3779B9#32, y1 + 0xBB67AE85#32)
      (q.extractLsb' 32 32 ^^^ c1 ^^^ y0, q.setWidth 32, p.extractLsb' 32 32 ^^^ c3 ^^^ y1, p.setWidth 32)

/-- The random word of a seed and a counter (R192). -/
def philox (seed : Word) (c0 c1 c2 c3 : BitVec 32) : BitVec 32 :=
  philoxRounds 10 (seed.setWidth 32, seed.extractLsb' 32 32) (c0, c1, c2, c3)

/-- lanekey(L) (R192). -/
def laneKey (g : Group) (l : Nat) : BitVec 32 := BitVec.ofNat 32 (g.team.origin.toNat * 2 ^ 31 + g.gidx * 64 + l)

/-- rand (R191, R192): each active lane draws and advances its count. -/
def execRand (st : BitVec 3) (pk : BitVec 2) (d : BitVec 6) (s : State) : Out :=
  issue (.rand st pk d) s free fun x t =>
    let seed := (t.launch? x.g.team.uid).elim 0#64 (·.seed)
    let lid := (t.recordOf x.g).elim 0#32 (·.lid)
    let m := x.act pk
    x.upd t fun g =>
      let g1 := g.putV x d 0 m (Vector.ofFn fun l =>
        philox seed g.draws[l.val] (laneKey g l.val) (BitVec.ofNat 32 g.team.index) lid)
      { g1 with draws := Vector.ofFn fun l => if m.getLsbD l.val then g.draws[l.val] + 1#32 else g.draws[l.val] }

/-- The format of the packed halves (R209): .f16x2 or .bf16x2. -/
def halfFmt (t : BitVec 1) : Fmt := if t = 0#1 then .f16 else .bf16

/-- Compute both halves of a word and join their flags (R209). -/
def halves (f : Nat → Nat × Flags) : LaneOut :=
  let (lo, fl) := f 0
  let (hi, fh) := f 16
  (BitVec.ofNat 32 (hi * 2 ^ 16 + lo), fl.or fh)

/-- The half of a word that starts at a bit. -/
def halfAt (a : BitVec 32) (k : Nat) : Nat := a.toNat / 2 ^ k % 2 ^ 16

/-- hadd2 (R209). -/
def execHadd2 (st : BitVec 3) (pk : BitVec 2) (d a b : BitVec 6) (t : BitVec 1) (s : State) : Out :=
  vectorFl (.hadd2 st pk d a b t) (·.act pk) d 6 (fun c l => halves fun k =>
    c.env.op2 (halfFmt t) (FpOp.add.eval c.env.mode) (halfAt (c.la a l) k) (halfAt (c.la b l) k)) s

/-- hmul2 (R209). -/
def execHmul2 (st : BitVec 3) (pk : BitVec 2) (d a b : BitVec 6) (t : BitVec 1) (s : State) : Out :=
  vectorFl (.hmul2 st pk d a b t) (·.act pk) d 6 (fun c l => halves fun k =>
    c.env.op2 (halfFmt t) (FpOp.mul.eval c.env.mode) (halfAt (c.la a l) k) (halfAt (c.la b l) k)) s

/-- hfma2 (R209): the addend is vD. -/
def execHfma2 (st : BitVec 3) (pk : BitVec 2) (d a b : BitVec 6) (t x : BitVec 1) (s : State) : Out :=
  vectorFl (.hfma2 st pk d a b t x) (·.act pk) d 6 (fun c l => halves fun k =>
    c.env.op3 (halfFmt t) false (halfAt (c.la a l) k) (halfAt (c.lb x b l) k) (halfAt (c.la d l) k)) s

/-- The types of `cvt` (R64). -/
inductive CvtType where
  | fp (f : Fmt)
  | int (bits : Nat) (signed : Bool)
  deriving DecidableEq, Repr

/-- A type from its code (R64). -/
def CvtType.ofCode (c : BitVec 3) : CvtType :=
  match c.toNat with
  | 0 => .fp .f32
  | 1 => .fp .f16
  | 2 => .fp .bf16
  | 3 => .int 32 true
  | 4 => .int 32 false
  | 5 => .int 8 true
  | _ => .int 4 true

/-- The source value of a conversion (R179, R188, R210). -/
def CvtType.read (t : CvtType) (ftz : Bool) (a : BitVec 32) : FVal :=
  match t with
  | .fp f => f.decode ftz (a.toNat % (2 * f.sign))
  | .int n signed =>
    let v : Int := if signed then ((a.toNat % 2 ^ n : Nat) : Int) - (if a.getLsbD (n - 1) then 2 ^ n else 0) else a.toNat
    .fin (decide (v < 0)) v.natAbs 0 false

/-- The range of an integer type (R178). -/
def intRange (n : Nat) (signed : Bool) : Int × Int :=
  if signed then (-(2 ^ (n - 1)), 2 ^ (n - 1) - 1) else (0, 2 ^ n - 1)

/-- An integer result in its range (R186): the nearer bound with NV for an FP source, with SAT for an integer one; `keep` says that
it keeps the NX of the rounding (R187, R190, R210). -/
def boundInt (n : Nat) (signed fromFp : Bool) (v : Int) (ix : Flags) (keep : Bool) : LaneOut :=
  let (lo, hi) := intRange n signed
  let out : Flags := if fromFp then { nv := true } else { sat := true }
  let out := if keep then out.or ix else out
  if v < lo then (BitVec.ofInt 32 lo, out)
  else if v > hi then (BitVec.ofInt 32 hi, out)
  else (BitVec.ofInt 32 v, ix)

/-- Whether a type is an FP type. -/
def CvtType.isFp : CvtType → Bool
  | .fp _ => true
  | .int .. => false

/-- The source after its modifiers and SCALE (R188, R210): a zero from an integer source is +0. -/
def cvtSource (v : FpEnv) (src : CvtType) (a : BitVec 32) : FVal :=
  let x := (v.modA (src.read v.ftz a)).scale v.md.scale
  if !src.isFp ∧ x.isZero then .zero false else x

/-- A rounded conversion of a lane (R186, R210): from an integer, NX also where the rounded value is then out of range (DEDUCED, log 9). -/
def cvtLane (v : FpEnv) (dst src : CvtType) (a : BitVec 32) : LaneOut :=
  let x := cvtSource v src a
  match dst, x with
  | .fp f, _ => let (bits, fl) := f.round v.mode v.ftz x; (BitVec.ofNat 32 bits, fl)
  | .int .., .nan _ => (0#32, { nv := true })
  | .int n signed, .inf neg => boundInt n signed true (if neg then -(2 ^ 40) else 2 ^ 40) {} false
  | .int n signed, .fin .. =>
    let (neg, k, ix) := x.toUnits v.mode
    boundInt n signed src.isFp (if neg then -(k : Int) else k) { nx := ix } !src.isFp

/-- cvt (R210). -/
def execCvt (st : BitVec 3) (pk : BitVec 2) (d a : BitVec 6) (u w : BitVec 3) (s : State) : Out :=
  vectorFl (.cvt st pk d a u w) (·.act pk) d 6 (fun c l => cvtLane c.env (.ofCode u) (.ofCode w) (c.la a l)) s

/-- Stochastic rounding of a magnitude to units of 2^q by a 16-bit random word (R190): the units, and whether any
discarded bit is nonzero. -/
def roundRandom (m : Nat) (e q : Int) (rho : Nat) : Nat × Bool :=
  if q ≤ e then (m * 2 ^ (e - q).toNat, false)
  else
    let sh := (q - e).toNat
    let r := m % 2 ^ sh
    let d := r * 2 ^ 16 / 2 ^ sh
    (m / 2 ^ sh + (if d + rho ≥ 2 ^ 16 then 1 else 0), r != 0)

/-- A stochastic conversion of a lane by the random word of the old vD (R190). (DEDUCED, log 9) -/
def cvtRandom (v : FpEnv) (dst src : CvtType) (a rho : BitVec 32) : LaneOut :=
  let r := rho.toNat % 2 ^ 16
  match dst, cvtSource v src a with
  | .fp f, .fin n m e _ =>
    let sgn := if n then f.sign else 0
    if m = 0 then (BitVec.ofNat 32 sgn, {})
    else
      let qu := (Nat.log2 m : Int) + e - (f.fb : Int)
      let (nu, _) := roundRandom m e qu r
      let tiny := decide (qu < f.sub + 1) && decide (nu < 2 ^ (f.emin - qu).toNat)
      let q := max qu f.sub
      let (k, ix) := roundRandom m e q r
      let bits := (q - f.sub).toNat * 2 ^ f.fb + k
      if tiny ∧ v.ftz then (BitVec.ofNat 32 sgn, { uf := true, nx := true })
      else if bits ≥ f.inf then (BitVec.ofNat 32 (sgn + f.inf), { of := true, nx := true })
      else (BitVec.ofNat 32 (sgn + bits), { uf := tiny && ix, nx := ix })
  | .fp f, x => let (bits, fl) := f.round 1 v.ftz x; (BitVec.ofNat 32 bits, fl)
  | .int .., .nan _ => (0#32, { nv := true })
  | .int n signed, .inf neg => boundInt n signed true (if neg then -(2 ^ 40) else 2 ^ 40) {} false
  | .int n signed, .fin neg m e _ =>
    let (k, ix) := roundRandom m e 0 r
    boundInt n signed src.isFp (if neg then -(k : Int) else k) { nx := ix } true

/-- cvt, stochastic (R190, R210). -/
def execCvtSr (st : BitVec 3) (pk : BitVec 2) (d a : BitVec 6) (u w : BitVec 3) (s : State) : Out :=
  vectorFl (.cvtSr st pk d a u w) (·.act pk) d 6
    (fun c l => cvtRandom c.env (.ofCode u) (.ofCode w) (c.la a l) (c.la d l)) s

end Sys2Proof.Machine
end

