-- ==== Sys2Proof/Machine/MemEvents.lean ====
section
/-! DEFINITION. Machine/MemEvents.lean: what happens to a memory request after its word has issued (R223, R226, R230 to
R233, R238, R242, R247, R251, R258, R260, R433). An event that meets no such request, or a request that is held, leaves
the state as it is. -/

namespace Sys2Proof.Machine

/-- An event of a group: nothing happens while the device is frozen (R460) or the slot is empty. -/
def onGroup (s : State) (core slot : Nat) (f : Group → State) : Out :=
  if s.mgmt.devState = .frozen then .next s
  else match s.group? core slot with
    | some g => .next (f g)
    | none => .next s

/-- A request of a group. -/
def Group.req? (g : Group) (id : Nat) : Option Request := g.reqs.find? fun r => r.id == id

/-- Put back a request. -/
def Group.setReq (g : Group) (r : Request) : Group := { g with reqs := mapIf (fun q => q.id == r.id) (fun _ => r) g.reqs }

/-- Take a request out. -/
def Group.dropReq (g : Group) (id : Nat) : Group := { g with reqs := g.reqs.filter fun q => q.id != id }

/-- What a request needs of a page when it is checked again (R232, R233). -/
def ReqKind.acc : ReqKind → AccKind
  | .load => .load
  | .store => .store
  | .atomic _ => .rmw
  | .red _ => .red
  | .tagld => .tagld
  | .tagst => .tagst
  | .window => .load
  | .peerLoad _ => .load
  | .peerStore _ => .load
  | .gsess => .load
  | .piece => .store

/-- A request to global memory. -/
def ReqKind.global : ReqKind → Bool
  | .window => false
  | .peerLoad _ => false
  | .peerStore _ => false
  | _ => true

/-- A request that writes memory or a tag (R230, R247). -/
def ReqKind.writes : ReqKind → Bool
  | .store => true
  | .atomic _ => true
  | .red _ => true
  | .tagst => true
  | _ => false

/-- A request that stores without an answer: its line waits for the loads of the operand log (R260). -/
def ReqKind.stores (k : ReqKind) : Bool := k.writes && !(match k with
  | .atomic _ => true
  | _ => false)

/-- Two lanes touch one 64-byte line: by physical address when both are translated, else by virtual (R230, R233). -/
def LaneAcc.lineMeets (a b : LaneAcc) (n k : Nat) : Bool :=
  if a.pas = [] ∨ b.pas = [] then linesMeet a.ea b.ea n k
  else a.pas.any fun x => b.pas.any fun y => x / 64 == y / 64

/-- Two lanes touch one byte. -/
def LaneAcc.byteMeets (a b : LaneAcc) (n k : Nat) : Bool :=
  if a.pas = [] ∨ b.pas = [] then bytesMeet a.ea b.ea n k
  else a.pas.any fun x => b.pas.contains x

/-- The lane is performed, or never will be. -/
def LaneAcc.finished (l : LaneAcc) : Bool :=
  match l.st with
  | .performed => true
  | .failed _ => true
  | _ => false

/-- The physical bytes of a lane that its slices have not applied (R230). -/
def Request.openBytes (q : Request) (a : LaneAcc) : List Nat :=
  match q.kind with
  | .store => (List.range q.size).filterMap fun i => if a.res.getLsbD i then none else a.pas[i]?
  | _ => a.pas

/-- A lane of a write is not acknowledged on a line of another lane (R230, R233). -/
def Request.openOn (q : Request) (a : LaneAcc) (b : LaneAcc) (n : Nat) : Bool :=
  if a.pas = [] ∨ b.pas = [] then linesMeet a.ea b.ea q.size n
  else (q.openBytes a).any fun x => b.pas.any fun y => x / 64 == y / 64

/-- An older request of the group holds a waiting lane: a write to its line that is not acknowledged (R230, R233), a
load or an atomic of its bytes that is not performed; a store, any load of its line that has been logged (R258, R260).
(DEDUCED, log 35) -/
def Group.blocks (g : Group) (r : Request) (b : LaneAcc) : Bool :=
  g.reqs.any fun q => decide (q.id < r.id) && q.kind.global && !q.isPiece && q.lanes.any fun a => !a.finished &&
    (if q.kind.writes then q.openOn a b r.size
     else a.byteMeets b q.size r.size || (r.kind.stores && a.logged && a.lineMeets b q.size r.size))

/-- A lane that met a draining entry, with the bytes that the tables give it now (R258, R433): its access is no hamper entry, and meets others
through whatever mapping. -/
def State.settle (s : State) (part n : Nat) (l : LaneAcc) : LaneAcc :=
  if l.st ≠ .draining then l
  else
    let pas := (List.range n).filterMap fun i => s.tablePlace part (l.ea.toNat + i)
    if pas.length = n then { l with pas := pas } else l

/-- The requests of a group, those that drain where the tables put them now. -/
def State.settled (s : State) (g : Group) : Group :=
  { g with reqs := g.reqs.map fun q => { q with lanes := q.lanes.map (s.settle g.part q.size) } }

/-- A triple that the group drew before a request is still to be loaded from bytes of a lane (R258, R330). -/
def State.drawAhead (s : State) (g : Group) (r : Request) (b : LaneAcc) : Bool :=
  (g.gates.any fun w => w.loads && decide (w.id < r.id)) &&
    (List.range r.size).any fun i => s.drawMeets g (fun w => w.loads && decide (w.id < r.id)) ((b.ea.toNat + i) % 2 ^ 55)

/-- An older access of the group holds a waiting lane of a request (R230, R233, R258, R260). -/
def State.blocks (s : State) (g : Group) (r : Request) (b : LaneAcc) : Bool := (s.settled g).blocks r b || s.drawAhead g r b

/-- An older write of the group to the line of a block, which the word reads as a load, is not acknowledged (R230, R258). -/
def Ctx.behindWrite (x : Ctx) (s : State) (m : MemSpec) : Bool :=
  let (p, _) := x.plan s m
  p.lanes.any fun l => l.st == .waiting && s.blocks x.g (x.request s m [l]) l

/-- Queue a deferred trap of a request (R36, R223, R232): the address of its lowest failing lane. -/
def Group.deferLanes (g : Group) (r : Request) (c : Cause) (ls : List (Word × Nat)) : Group :=
  match ls with
  | [] => g
  | (a, _) :: _ =>
    let lanes := if r.scalar then none else some (maskOf (ls.map (·.2)))
    { g with deferred := g.deferred ++ [Deferred.mk c a lanes r.pc false] }

/-- Check lanes of a request again, as of a replay (R232, R233) or after a drain (R433): the request, the causes other
than PAGE, the lowest PAGE address. (DEDUCED, log 38) -/
def recheck (s : State) (part : Nat) (at' : Site) (r : Request) (again : LaneSt → Bool) : Request × List (Cause × Word × Nat) × Option Word × State :=
  let (ls, bad, page, t) := r.lanes.foldl (fun (a : List LaneAcc × List (Cause × Word × Nat) × Option Word × State) l =>
    let (ls, bad, page, s) := a
    if again l.st then
      match laneCheck s part at' r.kind.acc false l.ea r.size with
      | (.ok pas tpas ext, s) => (ls ++ [{ l with pas := pas, tpas := tpas, ext := ext, st := .waiting }], bad, page, s)
      | (.wait, s) => (ls ++ [{ l with st := .draining }], bad, page, s)
      | (.fault .page v, s) => (ls ++ [{ l with st := .faulted, logged := true }], bad, page.or (some v), s)
      | (.fault c v, s) => (ls ++ [{ l with st := .failed c }], bad ++ [(c, v, l.lane)], page, s)
    else (ls ++ [l], bad, page, s)) ([], [], none, s)
  ({ r with lanes := ls }, bad, page, t)

/-- The causes of failing lanes, each once, in the order of R218. -/
def badCauses (bad : List (Cause × Word × Nat)) : List Cause :=
  [Cause.addr, .pte, .ro, .tag, .scrub].filter fun c => bad.any fun x => x.1 == c

/-- Queue the deferred traps of the lanes that failed a second check; a write-back of a stream entry raises none (R328). -/
def Group.deferBad (g : Group) (r : Request) (bad : List (Cause × Word × Nat)) : Group :=
  if r.frag = 8 then g
  else (badCauses bad).foldl (fun g c => g.deferLanes r c ((bad.filter fun x => x.1 == c).map (·.2))) g

/-- The replay of a request's entry, once its PAGE record is resolved and no older entry reads or holds its bytes (R232,
R233, R260); lanes that met a draining translation walk the tables (R433). -/
def State.replay (s : State) (core slot : Nat) (log : Bool) (id : Nat) : State :=
  match s.group? core slot with
  | none => s
  | some g =>
    match g.req? id with
    | none => s
    | some r =>
      if !r.kind.global ∨ r.logged ≠ log then s
      else
        let behind := log && r.lanes.any fun b => b.st == .faulted && g.reqs.any fun q =>
          decide (q.id < id) && q.hampered && q.lanes.any fun a => a.st == .faulted && a.lineMeets b q.size r.size
        let free := !behind && r.ticket.elim true (s.resolved g.part) &&
          !(r.lanes.any fun b => b.st == .faulted && g.reqs.any fun q =>
            decide (q.id < id) && q.logged == log && q.lanes.any fun a =>
              a.st == .faulted && (if log then a.byteMeets b q.size r.size else a.lineMeets b q.size r.size))
        let again := fun st => st == LaneSt.draining || (free && st == .faulted)
        let own := s.ownTags g id
        let (r1, bad, page, s1) := recheck { s with tags := own } g.part g.site r again
        let s1 : State := { s1 with tags := s.tags }
        let r2 := if free then { r1 with ticket := none } else r1
        match page with
        | none => s1.setGroup ((g.setReq r2).deferBad r2 bad)
        | some a =>
          match s.freeEntry core log, r.entered with
          | none, false => s
          | e, was =>
            let r3 := if was then r2 else { r2 with entry := e.getD 0 }
            let (t, s2) := s1.raisePage core slot r3 a (r3.lanesIn .faulted)
            s2.modGroup core slot fun g => (g.setReq { r3 with ticket := t }).deferBad r3 bad

/-- OPERAND_LOG_REPLAY (R232). -/
def execOperandLogReplay (core slot req : Nat) (s : State) : Out := onGroup s core slot fun _ => s.replay core slot true req

/-- The words of the performed lanes of a request: the low or the high half. -/
def Request.words (r : Request) (high : Bool) : Lanes :=
  let cells : SMap 32 := ssetAll [] (r.lanes.map fun (l : LaneAcc) =>
    (l.lane, if high then (l.res >>> 32).setWidth 32 else l.res.setWidth 32))
  Vector.ofFn fun i => sget cells i.val

/-- What is left of a write in flight once the lanes `m` of register `d` are written by a younger word: none when all its lanes are. -/
def Pend.without (p : Pend) (d : Nat) (m : Mask) : Option Pend :=
  let rest := fun (n : BitVec 6) (l : Mask) (q : Mask → Pend) =>
    if n.toNat ≠ d then some p else if l ≠ 0#64 ∧ l &&& ~~~m = 0#64 then none else some (q (l &&& ~~~m))
  match p with
  | .v n old l t => rest n l fun k => .v n old k t
  | .xv n old l t => rest n l fun k => .xv n old k t
  | _ => some p

/-- Write lanes through the scoreboard (R54): no older write of the fragment is in flight to them any more; a fragment that has ended
(number 4) has none of its own. -/
def Group.landV (g : Group) (fid : Nat) (d : Nat) (m : Mask) (v : Lanes) : Group :=
  let g1 := g.wrV (BitVec.ofNat 6 d) m v
  if fid < 4 then g1.modFrag fid fun f => { f with pend := f.pend.filterMap fun p => p.without d m } else g1

/-- Write the performed lanes of a load or an atomic to its destination (R237, R242), of a fragment that has ended too (R115). -/
def Group.landReq (g : Group) (r : Request) : Group :=
  let m := r.lanesIn .performed
  if r.scalar then
    if r.frag < 4 ∧ m ≠ 0#64 then
      let d := BitVec.ofNat 6 r.dst
      g.modFrag r.frag fun f => { f.wr d (r.lanes.headD ⟨0, 0, [], [], false, 0, 0, 0, .waiting, false⟩).res with
        pend := f.pend.filter fun p => !p.isS d }
    else g
  else
    let g1 := g.landV r.frag r.dst m (r.words false)
    if r.size = 8 then g1.landV r.frag (r.dst + 1) m (r.words true) else g1

/-- A load's or an atomic's lanes that are performed reach its destination, which is ready when the last lane is done. -/
def Group.respond (g : Group) (r : Request) : Group :=
  let g1 := (g.setReq r).landReq r
  if r.performed then g1.dropReq r.id else g1

/-- The source key order of stores in a merge step: core, slot, lane (R231). -/
def keyLess (a b : Nat × Nat × Nat) : Bool :=
  decide (a.1 < b.1) || (a.1 == b.1 && (decide (a.2.1 < b.2.1) || (a.2.1 == b.2.1 && decide (a.2.2 ≤ b.2.2))))

/-- A lane whose tag fails at the slice, and the address of its lowest failing byte (R217, R223). -/
def LaneAcc.failTag (l : LaneAcc) (i : Nat) : LaneAcc := { l with st := .failed .tag, new := l.ea + BitVec.ofNat 64 i }

/-- The bytes of a store that its slices have applied of the lanes above a lane: they stand, whenever the lane is performed (R239). -/
def Request.above (r : Request) (l : LaneAcc) : List Nat :=
  (r.lanes.filter fun h => decide (l.lane < h.lane)).flatMap fun h =>
    (List.range r.size).filterMap fun i => if h.res.getLsbD i then h.pas[i]? else none

/-- A store's lane at its slice (R223, R231): the bytes of it on this line, apart from those of `above`, unless its tag fails, in which case
none of its bytes is performed; a byte outside the package leaves it (R426). Bit i of `res` says that byte i is applied. -/
def LaneAcc.storeOn (s : State) (n line : Nat) (above : List Nat) (l : LaneAcc) : LaneAcc × List (Nat × Byte) :=
  if l.st ≠ .waiting then (l, [])
  else
    match if l.res = 0#64 then tagMiss s l.ea l.pas l.tpas else none with
    | some i => (l.failTag i, [])
    | none =>
      let idx := (List.range n).filter fun i => (l.pas.getD i 0) / 64 == line
      let res := idx.foldl (fun (x : Word) i => x ||| (1#64 <<< i)) l.res
      let bytes := (idx.map fun i => (l.pas.getD i 0, ((l.data >>> (8 * i)).setWidth 8 : Byte))).filter fun b =>
        !outside b.1 && !above.contains b.1
      ({ l with res := res, st := if popCount res ≥ n then .performed else .waiting }, bytes)

/-- A store request waits at the slice of a line (R231): lanes there, none of them held. -/
def State.storeWaits (s : State) (g : Group) (r : Request) (line : Nat) : Bool :=
  (match r.kind with
  | .store => true
  | .piece => true
  | _ => false) &&
  r.lanes.any (fun l => l.st == .waiting && l.pas.any fun a => a / 64 == line) &&
  !(r.lanes.any fun l => l.st == .waiting && (l.pas.any fun a => a / 64 == line) && s.blocks g r l)

/-- The stores a merge step takes: the first eight of `picks` that wait at the slice (R231). -/
def State.mergePicks (s : State) (line : Nat) (picks : List Nat) : List (Nat × Nat × Request) :=
  ((picks.dedup.flatMap fun id => s.groups.flatMap fun g =>
    (g.reqs.filter fun r => r.id == id && s.storeWaits g r line).map fun r => (g.core, g.slot, r))).take 8

/-- A merge step on one line (R231): each byte takes the value of the store with the largest source key, which a replay
keeps and in which a piece of a copy has lane 64. (DESIGN CHOICE, log 37) -/
def State.mergeStep (s : State) (line : Nat) (picks : List Nat) : State :=
  let each := (s.mergePicks line picks).map fun (c, k, r) => (c, k, r, r.lanes.map fun (l : LaneAcc) => l.storeOn s r.size line (r.above l))
  let writes := each.flatMap fun (_, _, r, ls) => ls.map fun (l, bs) => ((r.key.1, r.key.2, l.lane), bs)
  let mem := (sortBy (fun a b => keyLess a.1 b.1) writes).foldl (fun m w => ssetAll m w.2) s.mem
  let s1 := each.foldl (fun (t : State) (c, k, r, ls) =>
    t.modGroup c k fun g => g.setReq { r with lanes := ls.map (·.1) }) { s with mem := mem }
  each.foldl (fun t (c, k, _, ls) =>
    let sent := ls.flatMap fun (l, _) => if l.st = .failed .tag then [] else l.pas.filter fun a => outside a && a / 64 == line
    (clearPoison t (ls.flatMap fun (_, bs) => bs.map (·.1))).remoteStore ((t.group? c k).elim 64 (·.part)) sent) s1

/-- SLICE_MERGE_STEP (R231). -/
def execSliceMergeStep (line : Nat) (picks : List Nat) (s : State) : Out :=
  if s.mgmt.devState = .frozen then .next s else .next (s.mergeStep line picks)

/-- One lane of an atomic or a red at its slice (R242, R243); a red's lane whose tag fails is not performed (R223). -/
def LaneAcc.atomicOn (s : State) (op n : Nat) (late : Bool) (l : LaneAcc) : LaneAcc × State :=
  match if late then tagMiss s l.ea l.pas l.tpas else none with
  | some i => (l.failTag i, s)
  | none =>
    let old := leValue (readAt s.mem l.pas)
    ({ l with st := .performed, res := BitVec.ofNat 64 old }, { s with mem := writeAt s.mem l.pas (l.atomicBytes op n old) })

/-- The lanes of a request on one line, in increasing lane number (R243). -/
def State.atomicOn (s : State) (r : Request) (op line : Nat) : Request × State :=
  let late := r.kind.acc.late
  let (ls, t) := r.lanes.foldl (fun (a : List LaneAcc × State) l =>
    if l.st = .waiting ∧ (l.pas.headD 0) / 64 = line then
      let (l1, t) := l.atomicOn a.2 op r.size late
      (a.1 ++ [l1], t)
    else (a.1 ++ [l], a.2)) ([], s)
  ({ r with lanes := ls }, t)

/-- The group and the request numbered `id`. -/
def State.req? (s : State) (id : Nat) : Option (Group × Request) :=
  s.groups.findSome? fun g => (g.req? id).map fun r => (g, r)

/-- SLICE_ATOMIC (R243): one request's lanes on one line, as one indivisible sequence. -/
def execSliceAtomic (req line : Nat) (s : State) : Out :=
  if s.mgmt.devState = .frozen then .next s
  else match s.req? req with
    | none => .next s
    | some (g, r) =>
      match r.kind.op with
      | none => .next s
      | some op =>
        if r.lanes.any (fun l => l.st == .waiting && (l.pas.headD 0) / 64 == line && s.blocks g r l) then .next s
        else
          let (r1, t) := s.atomicOn r op line
          .next (t.modGroup g.core g.slot fun g => g.setReq r1)

/-- SLICE_TAGST (R246, R247): the granule's tag becomes the low bits of sD. -/
def execSliceTagst (req : Nat) (s : State) : Out :=
  if s.mgmt.devState = .frozen then .next s
  else match s.req? req with
    | none => .next s
    | some (g, r) =>
      if r.kind ≠ .tagst ∨ (r.lanes.any fun l => l.st != .waiting || s.blocks g r l) then .next s
      else
        let tags := r.lanes.foldl (fun t l => sset t (granule (l.pas.headD 0)) (l.data.setWidth 4)) s.tags
        let s1 : State := { s with tags := tags }
        .next (s1.modGroup g.core g.slot fun g =>
          g.setReq { r with lanes := r.lanes.map fun l => { l with st := .performed } })

/-- ATOMIC_RESPONSE (R242): the lanes performed write their old values. -/
def execAtomicResponse (core slot req : Nat) (s : State) : Out :=
  onGroup s core slot fun g =>
    match g.req? req with
    | none => s
    | some r =>
      match r.kind with
      | .atomic _ => if (r.lanes.any fun l => l.st == .waiting) then s else s.setGroup (g.respond r)
      | _ => s

/-- The lanes of a request whose tag failed at the slice, each with its failing address (R217, R223). -/
def Request.tagFails (r : Request) : List (Word × Nat) := (r.lanes.filter fun l => l.st == .failed .tag).map fun l => (l.new, l.lane)

/-- The answer to a store (R223, R230). -/
def State.storeAck (s : State) (core slot req : Nat) : State :=
  match s.group? core slot with
  | none => s
  | some g =>
    match g.req? req with
    | none => s
    | some r =>
      if !r.kind.stages then s
      else
        let r1 := { r with lanes := r.lanes.filter fun (l : LaneAcc) => l.st != LaneSt.failed .tag }
        s.setGroup ((if r1.performed then g.dropReq req else g.setReq r1).deferLanes r .tag r.tagFails)

/-- A peer window cannot serve for the moment: its core is frozen, until its state has moved (R226, R420, R422). -/
def State.peerHeld (s : State) (p : Team) : Bool := s.frozen.contains p.core

/-- An older request of the group to the same peer window is not performed (R258). -/
def Group.peerOlder (g : Group) (r : Request) (pos : Nat) : Bool :=
  g.reqs.any fun q => decide (q.id < r.id) && (q.kind == .peerLoad pos || q.kind == .peerStore pos) && !q.performed

/-- A peer word at a window (R226): its lanes read or write it, in increasing lane number; a team that has exited answers
PEERGONE. -/
def State.peerServe (s : State) (core slot : Nat) (g : Group) (r : Request) (pos : Nat) (store : Bool) : State :=
  match s.peerTeam g pos with
  | none =>
    let r1 := { r with lanes := r.lanes.map fun l => { l with st := .failed .peergone } }
    s.modGroup core slot fun g => (g.setReq r1).deferLanes r1 .peergone (r.lanes.map fun l => (l.ea, l.lane))
  | some p =>
    if store then
      let s1 := r.lanes.foldl (fun t l => t.windowWrite p.key l.pas (leBytes 4 l.data.toNat)) s
      s1.modGroup core slot fun g => g.setReq { r with lanes := r.lanes.map fun l => { l with st := .performed } }
    else
      s.modGroup core slot fun g => g.setReq { r with lanes := r.lanes.map fun l =>
        { l with st := .performed, res := BitVec.ofNat 64 (leValue (readAt p.window l.pas)) } }

/-- PEER_ACCESS (R226). -/
def execPeerAccess (core slot req : Nat) (s : State) : Out :=
  onGroup s core slot fun g =>
    match g.req? req with
    | none => s
    | some r =>
      let at' := match r.kind with
        | .peerLoad p => some (p, false)
        | .peerStore p => some (p, true)
        | _ => none
      match at' with
      | none => s
      | some (pos, store) =>
        if r.performed ∨ g.peerOlder r pos ∨ ((s.peerTeam g pos).elim false s.peerHeld) then s
        else s.peerServe core slot g r pos store

end Sys2Proof.Machine
end

