-- ==== Sys2Proof/Machine/Matrix.lean ====
section
/-! DEFINITION. Machine/Matrix.lean: tiles and accumulators (R293 to R300), the multiply words (R301 to R309), the
accumulator words (R311 to R313). What the engine does later is in Machine/EngineEvents.lean. -/

namespace Sys2Proof.Machine

/-- The matrix engine of a core; an idle one without an entry. -/
def State.engine (s : State) (core : Nat) : Engine := (s.engines.find? fun e => e.core == core).getD ⟨core, [], false⟩

/-- Put back a core's engine. -/
def State.setEngine (s : State) (e : Engine) : State :=
  { s with engines := (s.engines.filter fun x => x.core != e.core) ++ [e] }

/-- A `tld`, a `tzero` or a gate word of the group has still to write the tile (R300). -/
def State.tileWritten (s : State) (core slot tile : Nat) : Bool :=
  (s.group? core slot).elim false fun g => g.tilePending s.clock tile || g.gates.any fun w => w.tregs.contains tile

/-- A word that writes a tile is held: one of the group has still to write it, or an operation to consume it (R54, R300). -/
def State.tileHeld (s : State) (core slot tile : Nat) : Bool :=
  s.tileWritten core slot tile || (s.engine core).queue.any fun q => q.slot == slot && !q.consumed && (q.ta == tile || q.tb == tile)

/-- Element widths in bits of a tile shape (R95). -/
def TileShape.width (t : TileShape) : Nat := 4 * 2 ^ t.ew.toNat

/-- The bits of element j of row r of a tile (R180, R293). -/
def tileElem (m : SMap 8) (t : TileShape) (r j : Nat) : Nat :=
  let w := t.width
  let a := r * t.rowBytes + j * w / 8
  if w = 4 then (sget m a).toNat / 16 ^ (j % 2) % 16 else readLE m a (w / 8)

/-- The checks of `tld`, in order (R298). -/
def tldFault (s : State) (g : Group) (w : Word) (t : TileShape) (a b : Word) : Option (Cause × Word) :=
  let layout := field b 31 0
  let span := layout % 8
  let p := layoutPitch layout t.rowBytes
  let sp := 16 * 2 ^ span
  let (size, tags) := (s.team? g.team).elim (0, []) fun m => (m.scratch, m.ltags)
  if field b 63 32 ≠ 0 ∨ layout / 2 ^ 20 ≠ 0 ∨ layout / 8 % 32 ≠ 0 ∨ p < t.rowBytes ∨ (span ≥ 1 ∧ p % sp ≠ 0) then
    some (.illegal, w)
  else if a.toNat % 16 ≠ 0 ∨ (span ≥ 1 ∧ a.toNat % sp ≠ 0) then some (.align, a)
  else if a.toNat + t.rows * p > size then some (.scratch, a)
  else if g.lchk then
    match (tileOffsets t a.toNat layout).filter fun o => (sget tags (o / 256)).toNat != span with
    | [] => none
    | o :: r => some (.layout, BitVec.ofNat 64 ((r.foldl Nat.min o) / 256 * 256))
  else none

/-- Before a word that writes a tile (R300): the order holds of a memory word, and older operations that read it. -/
def Ctx.tilePre (x : Ctx) (s : State) (tile : Nat) (memory : Bool) : Pre :=
  match s.group? x.core x.slot with
  | some g => if (memory && g.orderHeld false) || s.tileHeld x.core x.slot tile then .hold else .go 0 0
  | none => .hold

/-- A `tld` reads its image: the window as it stands, and until the tile is ready what a racing write makes of it (R298); in a
deterministic launch the window as it stands at its issue (R316). -/
def Ctx.readTile (x : Ctx) (s : State) (i : Instr) (d a layout : Nat) (g : Group) : Group :=
  let w := (s.team? x.g.team).elim [] (·.window)
  let t := x.g.shape d
  let g1 := (g.setTile d (writeBytes (g.tile d) 0 (readAt w (tileOffsets t a layout)))).setTmark d .none
  if s.isDet g then g1 else { g1 with tlds := g.tlds ++ [⟨d, t, a, layout, x.now + x.xLatency s i, s.nextReq⟩] }

/-- tld (R298, R300): behind an acquire it is held before its checks (R253); its traps are uncharged. -/
def execTld (st d : BitVec 3) (a b : BitVec 6) (s : State) : Out :=
  issue (.tld st d a b) s
    (fun x t =>
      if x.g.orderHeld false then .hold
      else match tldFault t x.g (wordOf (.tld st d a b)) (x.g.shape d.toNat) (x.s a) (x.s b) with
      | some (c, v) => .trap c v none
      | none => x.tilePre t d.toNat true)
    fun x t => x.upd t fun g => x.readTile t (.tld st d a b) d.toNat (x.s a).toNat (field (x.s b) 31 0) g

/-- tzero (R299, R300). -/
def execTzero (st d : BitVec 3) (s : State) : Out :=
  issue (.tzero st d) s (fun x t => x.tilePre t d.toNat false) fun x t =>
    x.upd t fun g => (g.setTile d.toNat []).setTmark d.toNat .none

/-- The element width codes a type wants (R301): .bf16, .f16, .i8, .i4, .f32, .z32. -/
def typeWidth (ty : Nat) : BitVec 2 :=
  match ty with
  | 0 => 2#2
  | 1 => 2#2
  | 2 => 1#2
  | 3 => 0#2
  | _ => 3#2

/-- The checks of a multiply (R301). -/
def mmaBad (ty : Nat) (a b : TileShape) : Bool :=
  a.ew != typeWidth ty || b.ew != typeWidth ty || decide (a.rows > 64) || decide (b.rows > 64) || a.cols != b.cols

/-- A multiply is held: a word has still to write one of its tiles (R300), its queue is full or its engine in reset (R309, R315). An
operation keeps its queue entry until it completes (DESIGN CHOICE, log 72). -/
def Ctx.engineHeld (x : Ctx) (s : State) (a b : Nat) : Bool :=
  s.tileWritten x.core x.slot a || s.tileWritten x.core x.slot b || (s.engine x.core).resetting || decide ((s.engine x.core).queue.length ≥ Config.matrixQueue)

/-- A multiply enters the queue, joins the open batch of class m and binds its accumulator (R309, R311). -/
def Ctx.enqueue (x : Ctx) (s : State) (q : MatOp) : Res :=
  let e := s.engine x.core
  x.upd (s.setEngine { e with queue := e.queue ++ [q] }) fun g =>
    { g.setBind q.acc (g.bind q.acc ++ [q.batch]) with lastMma := x.unit }

/-- mma (R301 to R304, R309): its traps are uncharged. -/
def execMma (st : BitVec 3) (pk : BitVec 2) (t d a b : BitVec 3) (s : State) : Out :=
  let i := Instr.mma st pk t d a b
  issue i s
    (fun x s => if mmaBad t.toNat (x.g.shape a.toNat) (x.g.shape b.toNat) then .trap .illegal (wordOf i) none
      else if x.engineHeld s a.toNat b.toNat then .hold else .go 0 0)
    fun x s => x.enqueue s
      { core := x.core, slot := x.slot, ty := t.toNat, quant := none, acc := d.toNat, rows := x.act pk, ta := a.toNat,
        tb := b.toNat, shapeA := x.g.shape a.toNat, shapeB := x.g.shape b.toNat, dataA := [], dataB := [],
        consumed := false, started := none, sa := [], za := [], sb := [], zb := [], batch := x.g.bm.openNum, pc := x.unit }

/-- The quant descriptor of an `mmaq` (R305): the offsets SA, ZA, SB, ZB. -/
structure Quant where
  sa : Nat
  za : Nat
  sb : Nat
  zb : Nat
  deriving DecidableEq, Repr

/-- The checks of an `mmaq` after those of R301, in order (R306): group size, descriptor, vectors. -/
def mmaqCheck (s : State) (g : Group) (w : Word) (a b : TileShape) (size : Nat) (q : Word) : Except (Cause × Word) Quant :=
  let (win, room) := (s.team? g.team).elim ([], 0) fun m => (m.window, m.scratch)
  if a.cols % size ≠ 0 then .error (.illegal, w)
  else if q.toNat % 16 ≠ 0 then .error (.align, q)
  else if q.toNat + 32 > room then .error (.scratch, q)
  else if (readBytes win (q.toNat + 16) 16).any (· != 0#8) then .error (.illegal, w)
  else
    let x : Quant := ⟨readLE win q.toNat 4, readLE win (q.toNat + 4) 4, readLE win (q.toNat + 8) 4, readLE win (q.toNat + 12) 4⟩
    let ng := a.cols / size
    let ends := [(x.sa, 2 * (a.rows * ng)), (x.za, (a.rows * ng * a.width + 7) / 8), (x.sb, 2 * (b.rows * ng)),
      (x.zb, (b.rows * ng * b.width + 7) / 8)]
    if x.sa % 2 ≠ 0 then .error (.align, BitVec.ofNat 64 x.sa)
    else if x.sb % 2 ≠ 0 then .error (.align, BitVec.ofNat 64 x.sb)
    else
      match ends.find? fun e => decide (e.1 + e.2 > room) with
      | some e => .error (.scratch, BitVec.ofNat 64 e.1)
      | none => .ok x

/-- Group size G of a code (R62). -/
def quantSize (g : BitVec 2) : Nat := 32 * 2 ^ g.toNat

/-- FP16 scales of a quant vector. -/
def scalesAt (w : SMap 8) (at' n : Nat) : List (BitVec 16) := (List.range n).map fun i => BitVec.ofNat 16 (readLE w (at' + 2 * i) 2)

/-- A signed element of the given width. -/
def signedElem (w x : Nat) : Int := (BitVec.ofNat w x).toInt

/-- Zero points of a quant vector, at the element width (R180, R305). -/
def zerosAt (w : SMap 8) (at' width n : Nat) : List Int :=
  (List.range n).map fun i =>
    signedElem width (if width = 4 then (sget w (at' + i / 2)).toNat / 16 ^ (i % 2) % 16 else readLE w (at' + i) 1)

/-- mmaq (R305 to R309): descriptor and vectors are read at issue, after the group's reads of tile images (R258, R298); its traps are
uncharged. -/
def execMmaq (st : BitVec 3) (pk : BitVec 2) (t d : BitVec 3) (q : BitVec 6) (a b : BitVec 3) (g : BitVec 2) (s : State) : Out :=
  let i := Instr.mmaq st pk t d q a b g
  issue i s
    (fun x s =>
      let sa := x.g.shape a.toNat
      let sb := x.g.shape b.toNat
      if x.g.orderHeld false then .hold
      else if mmaBad t.toNat sa sb then .trap .illegal (wordOf i) none
      else
        match mmaqCheck s x.g (wordOf i) sa sb (quantSize g) (x.s q) with
        | .error (c, v) => .trap c v none
        | .ok _ => if x.engineHeld s a.toNat b.toNat then .hold else .go 0 0)
    fun x s =>
      let sa := x.g.shape a.toNat
      let sb := x.g.shape b.toNat
      match mmaqCheck s x.g (wordOf i) sa sb (quantSize g) (x.s q) with
      | .error (c, v) => .trap c v none
      | .ok k =>
        let w := (s.team? x.g.team).elim [] (·.window)
        let ng := sa.cols / quantSize g
        x.enqueue (s.modGroup x.core x.slot Group.tilesRead)
          { core := x.core, slot := x.slot, ty := t.toNat, quant := some (quantSize g), acc := d.toNat, rows := x.act pk,
            ta := a.toNat, tb := b.toNat, shapeA := sa, shapeB := sb, dataA := [], dataB := [], consumed := false, started := none,
            sa := scalesAt w k.sa (sa.rows * ng), za := zerosAt w k.za sa.width (sa.rows * ng),
            sb := scalesAt w k.sb (sb.rows * ng), zb := zerosAt w k.zb sb.width (sb.rows * ng),
            batch := x.g.bm.openNum, pc := x.unit }

/-- ACCBUSY (R313): the accumulator is bound. -/
def accBusy (g : Group) (acc : BitVec 3) : Option Word :=
  match g.bind acc.toNat with
  | [] => none
  | b :: _ => some (b.setWidth 64 <<< 32 ||| acc.setWidth 64)

/-- The issue of an accumulator word (R312, R313): ACCBUSY is uncharged. -/
def accWord (i : Instr) (acc : BitVec 3) (s : State) (eff : Ctx → Group → Group) : Out :=
  issue i s (fun x _ => match accBusy x.g acc with
    | some v => .trap .accbusy v none
    | none => .go 0 0) fun x t => x.upd t (eff x)

/-- accz (R295, R312). -/
def execAccz (st : BitVec 3) (pk : BitVec 2) (d : BitVec 3) (s : State) : Out :=
  accWord (.accz st pk d) d s fun x g =>
    g.setAcc d.toNat ((g.acc d.toNat).filter fun e => !(x.act pk).getLsbD (e.1 / 64))

/-- accrd (R312). -/
def execAccrd (st : BitVec 3) (pk : BitVec 2) (d : BitVec 6) (a : BitVec 3) (b : BitVec 6) (s : State) : Out :=
  accWord (.accrd st pk d a b) a s fun x g =>
    g.putV x d 0 (x.act pk) (Vector.ofFn fun l => sget (g.acc a.toNat) (64 * l.val + (x.s b).toNat % 64))

/-- accwr (R312). -/
def execAccwr (st : BitVec 3) (pk : BitVec 2) (d : BitVec 3) (a b : BitVec 6) (s : State) : Out :=
  accWord (.accwr st pk d a b) d s fun x g =>
    g.setAcc d.toNat (ssetAll (g.acc d.toNat) ((lanesOf (x.act pk)).map fun l =>
      (64 * l + (x.s b).toNat % 64, laneAt (x.v a) l)))

end Sys2Proof.Machine
end

