-- ==== Sys2Proof/Machine/Streamer.lean ====
section
/-! DEFINITION. Machine/Streamer.lean: the streamer words (R274 to R285), their checks (R277) and sectors (R133), and the
pieces of a copy (R286 to R292). -/

namespace Sys2Proof.Machine

/-- A window operand (R276): position bits allowed for a peer place only. -/
def windowOperand (peer : Bool) (v : Word) : Option Place :=
  if field v 63 34 ≠ 0 ∨ (!peer ∧ field v 33 32 ≠ 0) then none
  else some (.window (if peer then some (field v 33 32) else none) (field v 31 0))

/-- A place by its space code (R275, R276). -/
def placeOf (code : Nat) (v : Word) : Option Place :=
  if code = 0 then some (.global v) else windowOperand (code == 2) v

/-- The first byte of a range whose bits [59:55] are not 0 (R277 check 7). -/
def firstBad (ptr : Word) (n : Nat) : Option Word :=
  if n = 0 then none
  else if field ptr 59 55 ≠ 0 then some ptr
  else if ptr.toNat % 2 ^ 55 + n > 2 ^ 55 then some (ptr + BitVec.ofNat 64 (2 ^ 55 - ptr.toNat % 2 ^ 55))
  else none

/-- What a streamer word's checks answer (R277). -/
inductive CopyCheck where
  | ok (op : CopyOp) (sectors payload : Nat)
  | trap (c : Cause) (addr : Word)
  | hold
  deriving DecidableEq, Repr

/-- The position a `.p` place names that the team does not have (R277 check 3). -/
def State.badPos (s : State) (g : Group) : Place → Bool
  | .window (some p) _ => s.noPeer g p
  | _ => false

/-- The window that a place names: its team, or none when the team has exited. -/
def State.placeTeam (s : State) (g : Group) : Place → Option Team
  | .window (some p) _ => s.peerTeam g p
  | _ => s.team? g.team

/-- Check 5 of the window ranges of a copy, in its order (R277): SCRATCH, PEERGONE, and a hold for a peer that moves. -/
def State.rangeCheck (s : State) (g : Group) (n : Nat) (pls : List Place) : Option CopyCheck :=
  let wins := pls.filterMap fun pl => match pl with
    | .global _ => none
    | .window _ off => some (off, s.placeTeam g pl)
  match wins.find? fun w => decide (w.1 + n > s.windowSize g.team), wins.find? fun w => w.2.isNone with
  | some w, _ => some (.trap .scratch (BitVec.ofNat 64 w.1))
  | none, some w => some (.trap .peergone (BitVec.ofNat 64 w.1))
  | none, none => if wins.any fun w => w.2.elim false s.peerHeld then some .hold else none

/-- Check 6 (R277): both ranges overlap within one window. -/
def placesOverlap (own n : Nat) (a b : Place) : Bool :=
  match a, b with
  | .window p x, .window q y => p.getD own == q.getD own && decide (x < y + n) && decide (y < x + n)
  | _, _ => false

/-- The sectors of a global range: the first and how many (R132). -/
def sectorRange (ptr : Word) (n : Nat) : Nat × Nat :=
  let a := ptr.toNat % 2 ^ 55
  if n = 0 then (0, 0) else (a / 32, (a + n - 1) / 32 + 1 - a / 32)

/-- The sectors of the global sides of a linear copy, a sector of both sides once (R132, R133). -/
def linearSectors (n : Nat) (dst src : Place) : Nat :=
  match dst, src with
  | .global a, .global b =>
    let (x, k) := sectorRange a n
    let (y, m) := sectorRange b n
    k + m - (min (x + k) (y + m) - max x y)
  | .global a, _ => (sectorRange a n).2
  | _, .global b => (sectorRange b n).2
  | _, _ => 0

/-- Check 7 of a place (R277). -/
def placeAddr (n : Nat) : Place → Option Word
  | .global p => firstBad p n
  | _ => none

/-- The checks of `cpy`, in the order of R277 from check 3 (R276, R278). When both sides fail check 7 the record names the destination's
address (DESIGN CHOICE, log 72). -/
def State.checkLinear (s : State) (g : Group) (w : Word) (dst src : Option Place) (len : Word) : CopyCheck :=
  let n := field len 24 0
  match dst, src with
  | some d, some r =>
    if len.toNat > 16777216 ∨ s.badPos g d ∨ s.badPos g r then .trap .illegal w
    else if n = 0 then .ok (.linear d r 0) 0 0
    else
      match s.rangeCheck g n [d, r] with
      | some c => c
      | none =>
        if placesOverlap (s.ownPos g) n d r then .trap .illegal w
        else
          match (placeAddr n d).or (placeAddr n r) with
          | some a => .trap .addr a
          | none => .ok (.linear d r n) (linearSectors n d r) n
  | _, _ => .trap .illegal w

/-- The checks of `cpym` (R276, R277, R285): a target that has exited is no fault. -/
def State.checkMulticast (s : State) (g : Group) (w dst src len : Word) : CopyCheck :=
  let n := field len 24 0
  let mask := field len 35 32
  let shape := if g.team.origin then 1 else s.shapeOf g
  if mask = 0 ∨ mask ≥ 2 ^ shape then .trap .cpymask (BitVec.ofNat 64 mask)
  else if field len 63 36 ≠ 0 ∨ field len 31 25 ≠ 0 ∨ n > 16777216 ∨ dst.toNat ≥ 2 ^ 32 then .trap .illegal w
  else if n = 0 then .ok (.multicast dst.toNat src 0 mask) 0 0
  else if dst.toNat + n > s.windowSize g.team then .trap .scratch dst
  else
    match firstBad src n with
    | some a => .trap .addr a
    | none => .ok (.multicast dst.toNat src n mask) (sectorRange src n).2
        (n * ((List.range 4).filter fun j => natBit mask j).length)

/-- The box of a copy descriptor, when it is valid (R279 to R281). -/
def boxOf (bs : List Byte) (base : Word) (table toWindow : Bool) : Option Box :=
  let u := fun (at' n : Nat) => leValue ((bs.drop at').take n)
  let sg := fun (at' : Nat) => (BitVec.ofNat 32 (u at' 4)).toInt
  let layout := u 4 4
  let e := 2 ^ (u 54 1 % 4)
  let rb := u 48 2 * e
  let span := layout % 8
  let pitch := if layout / 256 % 4096 = 0 then rb else 16 * (layout / 256 % 4096)
  let s := 16 * 2 ^ span
  let bad := layout / 2 ^ 20 ≠ 0 ∨ layout / 8 % 32 ≠ 0 ∨ u 54 1 / 4 ≠ 0 ∨ u 55 1 ≠ 0 ∨
    u 32 8 ≥ 2 ^ 55 ∨ u 40 8 ≥ 2 ^ 55 ∨ u 8 4 = 0 ∨ u 12 4 = 0 ∨ u 16 4 = 0 ∨ u 48 2 = 0 ∨ u 50 2 = 0 ∨ u 52 2 = 0 ∨
    rb > 4096 ∨ pitch < rb ∨ pitch * u 50 2 * u 52 2 > 16777216 ∨ (span ≥ 1 ∧ (pitch % s ≠ 0 ∨ u 0 4 % s ≠ 0)) ∨
    (table ∧ u 40 8 ≠ 0)
  if bad then none
  else some ⟨u 0 4, rb, pitch, span, (u 8 4, u 12 4, u 16 4), (sg 20, sg 24, sg 28), (u 48 2, u 50 2, u 52 2),
    u 32 8, u 40 8, e, BitVec.ofNat 64 (u 56 8), base, table, toWindow⟩

/-- The sectors of a box (R132, R133): of its rows in bounds, and of the table entries it reads. A table's blocks lie
where the table says at issue, as the copy reads it. -/
def State.boxSectors (s : State) (g : Group) (x : Box) : Nat :=
  let base := fun (i2 : Nat) => if x.table then s.tableEntry g s.nextReq x i2 else x.base
  let ranges := (x.liveRows.map fun r => let (a, n) := x.span' (base r.2) r; sectorRange a n) ++
    (if x.table then x.entries.map fun i => sectorRange (x.entryAddr i) 8 else [])
  (ranges.flatMap fun r => (List.range r.2).map (r.1 + ·)).dedup.length

/-- Check 7 of a box (R277): the bytes it addresses through sA. -/
def Box.badAddr (x : Box) : Option (Cause × Word) :=
  let bytes := if x.table then x.entries.findSome? fun i => firstBad (x.entryAddr i) 8
    else x.liveRows.findSome? fun r => let (a, n) := x.span' x.base r; firstBad a n
  match bytes with
  | some a => some (.addr, a)
  | none => if x.table ∧ x.base.toNat % 8 ≠ 0 then some (.align, x.base) else none

/-- The checks of `cpyt` and `cpyk` (R277, R279, R280). -/
def State.checkTensor (s : State) (g : Group) (w d base : Word) (table toWindow : Bool) : CopyCheck :=
  let size := s.windowSize g.team
  if d.toNat % 64 ≠ 0 then .trap .align d
  else if d.toNat + 64 > size then .trap .scratch d
  else
    match boxOf (readBytes ((s.team? g.team).elim [] (·.window)) d.toNat 64) base table toWindow with
    | none => .trap .illegal w
    | some x =>
      if x.sbase + x.image > size then .trap .scratch (BitVec.ofNat 64 x.sbase)
      else
        match x.badAddr with
        | some (c, a) => .trap c a
        | none => .ok (.tensor x) (s.boxSectors g x) (if toWindow then x.total else x.inside)

/-- Copies in flight of a core (R274). -/
def State.copiesOn (s : State) (core : Nat) : Nat :=
  ((s.groups.filter fun g => g.core == core).map fun g => g.copies.length).foldl (· + ·) 0

/-- The group is its team's producer (R97); the only group of a team made from cuttings is (R372). -/
def State.producer (s : State) (g : Group) : Bool := g.team.origin || (s.recordOf g).elim false fun r => r.prod == g.gidx

/-- The 64-byte lines of n bytes from an address, by virtual address. -/
def linesFrom (p : Word) (n : Nat) : List Nat :=
  let a := p.toNat % 2 ^ 55
  if n = 0 then [] else (List.range ((a + n - 1) / 64 + 1 - a / 64)).map (a / 64 + ·)

/-- The global lines a copy writes, by virtual address; a table's blocks lie where its group's copy would find them now. -/
def State.copyLines (s : State) (g : Group) : CopyOp → List Nat
  | .linear (.global p) _ n => linesFrom p n
  | .tensor x => if x.toWindow then [] else
      x.liveRows.flatMap fun r =>
        let (p, n) := x.span' (if x.table then s.tableEntry g s.nextReq x r.2 else x.base) r
        linesFrom p n
  | _ => []

/-- A copy reads or writes global memory. -/
def CopyOp.onGlobal : CopyOp → Bool
  | .linear (.window ..) (.window ..) _ => false
  | _ => true

/-- A copy joins the streamer and its group's open batch (R274); an empty one is complete (R278), and delivers nothing short, whatever its
targets (R285: DESIGN CHOICE, log 72). -/
def Group.addCopy (g : Group) (id : Nat) (op : CopyOp) (payload : Nat) (pc : Word) : Group :=
  let empty := match op with
    | .linear _ _ n => n == 0
    | .multicast _ _ n _ => n == 0
    | .tensor _ => false
  if empty then g
  else { g with copies := g.copies ++ [Copy.mk id op 0 none g.bc.openNum pc payload false .running [] [] none] }

/-- What keeps a deterministic launch from counting the sectors of a `cpyk`, which depend on committed data and on the group's own writes only
(R148): an entry of its table drains, or an older copy has still to write it (none), or its page is not mapped (the address). -/
def State.tableWaits (s : State) (g : Group) (op : CopyOp) : Option (Option Word) :=
  match op with
  | .tensor x =>
    if !x.table then none
    else x.entries.findSome? fun i2 =>
      let ea := x.entryAddr i2
      match (laneCheck s g.part g.site ⟨false, false, false, true, false⟩ false ea 8).1 with
      | .wait => some none
      | .fault .page a => some (some a)
      | _ =>
        let writes := fun (d : Copy) => decide (d.st ≠ .stopped) && (List.range 8).any fun i =>
          (s.aliases g (d.op.pages (s.copyBase g d)) ((ea.toNat + i) % 2 ^ 55)).any fun a =>
            (d.op.meets (s.copyBase g d) (s.ownPos g) 0 a).any fun m => m.2.isSome && decide (d.pos ≤ m.1)
        if g.copies.any writes then some none else none
  | _ => none

/-- The group is held at a `cpyk` of a deterministic launch until the page of its block table is mapped: a PAGE record of the streamer, as of
the copy behind those in flight. (DESIGN CHOICE, log 72) -/
def Ctx.tablePage (x : Ctx) (s : State) (a : Word) : State :=
  let r := { s.mkRec x.g x.fid .page a x.f.mask x.f.mask x.unit with info := BitVec.ofNat 64 (x.g.copies.length % 256 * 256 + 2) }
  let (t, s1) := s.raiseReplay (dieOf x.core) r
  s1.modGroup x.core x.slot fun g => g.modFrag x.fid fun f => { f with fetchRec := some t }

/-- A copy descriptor is read from the window, as an access of the group (R258, R279, R298). -/
def CopyOp.readsWindow : CopyOp → Bool
  | .tensor _ => true
  | _ => false

/-- The issue of a streamer word (R274, R277): its traps are uncharged, and behind an acquire it is held before its checks (R253). In a deterministic launch a quantum ends before a
word whose writes the staging cannot take beside what it holds (R379), and the copy takes its place among the staged writes (R292). -/
def copyWord (i : Instr) (s : State) (chk : Ctx → State → CopyCheck) : Out :=
  issue i s
    (fun x t =>
      if !t.producer x.g then .trap .streamrights 0#64 none
      else if x.g.orderHeld false then .hold
      else
        match chk x t with
        | .trap c a => .trap c a none
        | .hold => .hold
        | .ok op sectors _ =>
          match t.group? x.core x.slot with
          | none => .hold
          | some g =>
            if t.copiesOn x.core ≥ Config.copySlots then .hold
            else
              match if t.isDet g then t.tableWaits g op else none with
              | some none => .hold
              | some (some a) => .stop (x.tablePage t a)
              | none => x.stagePre t (t.copyLines g op) 0 (.go 0 sectors))
    fun x t =>
      match chk x t with
      | .ok op _ payload =>
        let ls := if t.isDet x.g then t.copyLines x.g op else []
        x.upd { t with nextReq := t.nextReq + 1 } fun g =>
          let g := if op.readsWindow then g.tilesRead else g
          { g with staged := if ls = [] then g.staged else g.staged ++ [Staged.copy t.nextReq ls [] x.unit] }.addCopy t.nextReq op payload x.unit
      | _ => .done t

/-- cpy from global memory (R275, R278). -/
def execCpyFromGlobal (st : BitVec 3) (d a b : BitVec 6) (f : BitVec 2) (s : State) : Out :=
  let i := Instr.cpyFromGlobal st d a b f
  copyWord i s fun x t => t.checkLinear x.g (wordOf i) (placeOf f.toNat (x.s d)) (placeOf 0 (x.s a)) (x.s b)

/-- cpy from the team's window (R275, R278). -/
def execCpyFromScratchpad (st : BitVec 3) (d a b : BitVec 6) (f : BitVec 2) (s : State) : Out :=
  let i := Instr.cpyFromScratchpad st d a b f
  copyWord i s fun x t => t.checkLinear x.g (wordOf i) (placeOf f.toNat (x.s d)) (placeOf 1 (x.s a)) (x.s b)

/-- cpy from a peer's window (R275, R278). -/
def execCpyFromPeer (st : BitVec 3) (d a b : BitVec 6) (f : BitVec 2) (s : State) : Out :=
  let i := Instr.cpyFromPeer st d a b f
  copyWord i s fun x t => t.checkLinear x.g (wordOf i) (placeOf f.toNat (x.s d)) (placeOf 2 (x.s a)) (x.s b)

/-- cpyt (R279 to R282). -/
def execCpyt (st : BitVec 3) (d a : BitVec 6) (f : BitVec 1) (s : State) : Out :=
  let i := Instr.cpyt st d a f
  copyWord i s fun x t => t.checkTensor x.g (wordOf i) (x.s d) (x.s a) false (f == 0#1)

/-- cpyk (R283). -/
def execCpyk (st : BitVec 3) (d a : BitVec 6) (f : BitVec 1) (s : State) : Out :=
  let i := Instr.cpyk st d a f
  copyWord i s fun x t => t.checkTensor x.g (wordOf i) (x.s d) (x.s a) true (f == 0#1)

/-- cpym (R285). -/
def execCpym (st : BitVec 3) (d a b : BitVec 6) (s : State) : Out :=
  let i := Instr.cpym st d a b
  copyWord i s fun x t => t.checkMulticast x.g (wordOf i) (x.s d) (x.s a) (x.s b)

/-- One side of a piece: global bytes from an address, window bytes at offsets. -/
inductive Side where
  | glob (ea : Word)
  | win (pos : Option Nat) (offs : List Nat)
  deriving DecidableEq, Repr

/-- A piece (R286): its bytes, its source (none: these fill bytes), its destinations. -/
structure Piece where
  len  : Nat
  src  : Option Side
  fill : List Byte
  dsts : List Side
  deriving DecidableEq, Repr

/-- Bytes up to the next global sector boundary. -/
def toSector (ea : Word) : Nat := 32 - ea.toNat % 32

/-- A place from a byte on. -/
def Place.side (pl : Place) (pos n : Nat) : Side :=
  match pl with
  | .global p => .glob (p + BitVec.ofNat 64 pos)
  | .window p off => .win p ((List.range n).map (off + pos + ·))

/-- How far a piece of a place may run. -/
def Place.run (pl : Place) (pos left : Nat) : Nat :=
  match pl with
  | .global p => min left (toSector (p + BitVec.ofNat 64 pos))
  | .window _ _ => left

/-- Bytes of the sequence of a copy (R286). -/
def CopyOp.total : CopyOp → Nat
  | .linear _ _ n => n
  | .multicast _ _ n _ => n
  | .tensor x => x.total

/-- The piece of a box at byte `pos` of its rows (R282, R286); `base` is the pointer its rows start from. -/
def Box.piece (x : Box) (base : Word) (pos : Nat) : Piece :=
  let r := pos / x.rb
  let b := pos % x.rb
  let (i1, i2) := x.row r
  let (lo, n) := x.cols
  let live := x.rowIn i1 i2 && decide (n ≠ 0)
  let inb := x.inBounds r b
  let ea := x.elemAddr base i1 i2 b
  let stop := if inb then (lo + n) * x.esize else if live ∧ b < lo * x.esize then lo * x.esize else x.rb
  let len := if inb then min (stop - b) (toSector ea) else stop - b
  let win := Side.win none ((List.range len).map fun k => x.offset r (b + k))
  if x.toWindow then
    ⟨len, if inb then some (.glob ea) else none,
      (List.range len).map fun k => ((x.fill >>> (8 * ((b + k) % x.esize))).setWidth 8 : Byte), [win]⟩
  else if inb then ⟨len, some win, [], [.glob ea]⟩
  else ⟨len, none, [], []⟩

/-- The dimension-2 index of the box at byte `pos`, when its table entry is needed (R283). -/
def Box.needsEntry (x : Box) (pos : Nat) : Option Nat :=
  let (i1, i2) := x.row (pos / x.rb)
  if x.table ∧ x.rowIn i1 i2 ∧ x.cols.2 ≠ 0 then some i2 else none

/-- The next piece of a copy. (DESIGN CHOICE, log 40) -/
def Copy.piece (c : Copy) : Piece :=
  match c.op with
  | .linear d s n =>
    let len := min (d.run c.pos (n - c.pos)) (s.run c.pos (n - c.pos))
    ⟨len, some (s.side c.pos len), [], [d.side c.pos len]⟩
  | .multicast off src n mask =>
    let len := min (n - c.pos) (toSector (src + BitVec.ofNat 64 c.pos))
    ⟨len, some (.glob (src + BitVec.ofNat 64 c.pos)), [],
      ((List.range 4).filter fun j => natBit mask j).map fun j => .win (some j) ((List.range len).map (off + c.pos + ·))⟩
  | .tensor x => x.piece (if x.table then c.entry.elim 0#64 (·.2) else x.base) c.pos

/-- Why a piece does not move (R286, R287). -/
inductive Stop where
  | wait
  | page (addr : Word)
  | stop (c : Cause) (addr : Word)
  deriving DecidableEq, Repr

/-- A streamer write: its tag is compared as it is performed (R223). -/
def AccKind.copyWrite : AccKind := ⟨true, false, false, false, true⟩

/-- Check and translate the global side of a piece (R218, R287), against the tags that its group's older `tagst` words leave. -/
def pieceAccess (s : State) (g : Group) (before : Nat) (k : AccKind) (ea : Word) (n : Nat) :
    Except Stop (List Nat × List Nat × Bool) × State :=
  let own := s.ownTags g before
  let (r, t) := laneCheck { s with tags := own } g.part g.site k false ea n
  let t : State := { t with tags := s.tags }
  match r with
  | .ok pas tpas ext => (.ok (pas, tpas, ext), t)
  | .wait => (.error .wait, t)
  | .fault .page a => (.error (.page a), t)
  | .fault c a => (.error (.stop c a), t)

/-- Window bytes as a copy numbered `before` reads them: with the stores to the window that its group has staged before it (R290, R292,
R380). -/
def Group.stagedWin (g : Group) (before pos : Nat) (offs : List Nat) (bs : List Byte) : List Byte :=
  Over.lay (g.staged.foldl (fun (o : Over) e => match e with
    | .peer p r => if p = pos ∧ r.id < before then r.lanes.foldl (fun (o : Over) l => l.pas.zip (leBytes 4 l.data.toNat) ++ o) o else o
    | _ => o) []) offs bs

/-- A copy writes window bytes after the stores to them that its group has staged before it (R290, R380): those stores no longer write
them when they are committed. -/
def Group.passStaged (g : Group) (before pos : Nat) (offs : List Nat) : Group :=
  let cut := fun (l : LaneAcc) =>
    if l.pas.any offs.contains then
      ((List.range l.pas.length).filter fun i => !offs.contains (l.pas.getD i 0)).map fun i =>
        { l with pas := [l.pas.getD i 0], data := l.data >>> (8 * i) }
    else [l]
  { g with staged := g.staged.map fun e => match e with
      | .peer p r => if p = pos ∧ r.id < before then .peer p { r with lanes := r.lanes.flatMap cut } else e
      | e => e }

/-- Read a piece's source (R292). A source byte that the copy has overwritten reads as it was or as it is (R291). -/
def State.readSide (s : State) (g : Group) (c : Copy) (n : Nat) : Side → Except Stop (List Byte) × State
  | .win pos offs =>
    match s.sideTeam g pos with
    | none => (.error (.stop .peergone (BitVec.ofNat 64 (offs.headD 0))), s)
    | some t => if s.peerHeld t then (.error .wait, s) else (.ok (g.stagedWin c.id t.pos offs (readAt t.window offs)), s)
  | .glob ea =>
    match pieceAccess s g c.id .load ea n with
    | (.error e, s) => (.error e, s)
    | (.ok (pas, _, ext), s) =>
      let (bs, s) := readPas s pas ext
      let bs := if s.isDet g then g.overlay c.id s.mem ea pas bs else bs
      let old := (List.range n).map fun i =>
        match c.origs.find? fun o => o.1 == pas.getD i 0 with
        | some o => if Config.raceBit (s.draws + i) then o.2 else bs.getD i 0#8
        | none => bs.getD i 0#8
      (.ok old, if c.origs = [] then s else { s with draws := s.draws + n })

/-- The number of a piece's destination among those of its copy. -/
def Side.no : Side → Nat
  | .glob _ => 0
  | .win pos _ => pos.elim 0 (· + 1)

/-- The bytes a destination receives: those that raced are free (R34). -/
def racedBytes (s : State) (c : Copy) (no : Nat) (bs : List Byte) : List Byte :=
  (List.range bs.length).map fun i =>
    if c.raced.contains (c.pos + i, no) then Config.racedByte (s.draws + i) else bs.getD i 0#8

/-- The store of a piece, on its way to its slice (R290): one lane a byte, under the copy's key with lane 64 (R231). -/
def State.pieceStore (s : State) (g : Group) (c : Copy) (ea : Word) (pas tpas : List Nat) (ext : Bool) (bs : List Byte) : Request :=
  ⟨s.nextReq, .piece, 1, true, 0,
    (List.range bs.length).map (fun i =>
      let pa := pas.getD i 0
      ⟨64, ea + BitVec.ofNat 64 i, [pa], if tpas.contains pa then [pa] else [], ext, (bs.getD i 0#8).setWidth 64, 0#64, 0#64, .waiting, false⟩),
    false, 4, 0#64, c.pc, none, 0, (g.core, g.slot)⟩

/-- Write a piece's bytes to one destination (R278, R284, R285, R290, R292): a window's blocks take the copy's layout tag, and a target
of a multicast that has exited makes the copy short; global bytes are staged, or leave as one store. -/
def State.writeSide (s : State) (g : Group) (c : Copy) (span : BitVec 3) (multi : Bool) (bs : List Byte) (d : Side) :
    Except Stop Copy × State :=
  let n := bs.length
  let bs := racedBytes s c d.no bs
  let s := if c.raced = [] then s else { s with draws := s.draws + n }
  match d with
  | .win pos offs =>
    match s.sideTeam g pos with
    | none => if multi then (.ok { c with short := true }, s) else (.error (.stop .peergone (BitVec.ofNat 64 (offs.headD 0))), s)
    | some t =>
      if s.peerHeld t then (.error .wait, s)
      else
        let s := (s.windowWrite t.key offs bs).modGroup g.core g.slot fun g => g.passStaged c.id t.pos offs
        (.ok c, s.modTeam t.key fun t => { t with ltags := ssetAll t.ltags (offs.map fun o => (o / 256, span)) })
  | .glob ea =>
    match pieceAccess s g c.id .copyWrite ea n with
    | (.error e, s) => (.error e, s)
    | (.ok (pas, tpas, ext), s) =>
      if s.isDet g then
        let p : StagedPiece := ⟨ea, pas, bs, if tpas = [] then none else some (BitVec.ofNat 4 (field ea 63 60))⟩
        (.ok c, s.modGroup g.core g.slot fun g => { g with staged := g.staged.map fun e => match e with
          | .copy id ls ps pc => if id = c.id then .copy id ls (ps ++ [p]) pc else e
          | e => e })
      else
        let both := match c.op with
          | .linear (.global _) (.global _) _ => true
          | _ => false
        let olds := if both && !ext then (pas.filter fun a => !c.origs.any fun o => o.1 == a).map fun a => (a, sget s.mem a) else []
        (.ok { c with origs := c.origs ++ olds, out := some s.nextReq },
          { s with nextReq := s.nextReq + 1 }.modGroup g.core g.slot fun g => { g with reqs := g.reqs ++ [s.pieceStore g c ea pas tpas ext bs] })

/-- A lane of a hamper entry (R233), which holds its line until the entry drains. -/
def Request.holdsLine (q : Request) (l : LaneAcc) : Bool := l.logged && !q.logged

/-- An older access of the group to bytes of a piece is not performed (R290): to its bytes, by physical address where both are
translated; one that waits in the log, or stands in a hamper entry until that drains, to its line (R233). A tag counts for its granule. -/
def State.laneMeets (s : State) (g : Group) (q : Request) (l : LaneAcc) (ea : Word) (n : Nat) : Bool :=
  if l.pas = [] then linesMeet ea l.ea n q.size
  else if q.holdsLine l && linesMeet ea l.ea n q.size then true
  else
    let unit := if q.holdsLine l then 64 else if q.kind.acc.tagOp then 32 else 1
    (List.range n).any fun i =>
      match s.physAt g (ea.toNat + i) with
      | some pa => l.pas.any fun a => a / unit == pa / unit
      | none => bytesMeet (ea + BitVec.ofNat 64 i) l.ea 1 q.size

/-- The spaces and addresses of a side's bytes. -/
def Side.bytes (own n : Nat) : Side → List (Nat × Nat)
  | .glob ea => (List.range n).map fun i => (0, (ea.toNat + i) % 2 ^ 55)
  | .win pos offs => offs.map fun o => (pos.getD own + 1, o)

/-- A copy has still to read or write a byte. -/
def State.copyMeets (s : State) (g : Group) (d : Copy) (pages : List Nat) (b : Nat × Nat) : Bool :=
  let at' := if b.1 = 0 then s.aliases g pages b.2 else [b.2]
  at'.any fun a => (d.op.meets (s.copyBase g d) (s.ownPos g) b.1 a).any fun m => decide (d.pos ≤ m.1)

/-- A tile image with a window byte of a piece, which the group began to read before the copy, is still being read (R290, R298). -/
def Group.windowOlder (g : Group) (before own : Nat) (b : Nat × Nat) : Bool :=
  b.1 == own + 1 && g.tlds.any fun r => decide (r.req ≤ before) && (tileOffsets r.shape r.base r.layout).contains b.2

/-- A word that the group issued before a copy has still to draw a record with a byte of a piece (R290, R330). -/
def State.drawOlder (s : State) (g : Group) (before : Nat) (b : Nat × Nat) : Bool :=
  b.1 == 0 && s.drawMeets g (fun w => decide (w.id < before)) b.2

/-- Sides of a copy must wait: an older access of the group to a byte of them, an older peer access to their window, or an older copy
that has still to touch a byte of them (R290). -/
def State.pieceHeld (s : State) (g : Group) (c : Copy) (n : Nat) (sides : List Side) : Bool :=
  let own := s.ownPos g
  let bytes := sides.flatMap fun d => d.bytes own n
  (bytes.any fun b => g.windowOlder c.id own b || s.drawOlder g c.id b) ||
  g.reqs.any (fun q => decide (q.id < c.id) && !q.performed && !q.isPiece && sides.any fun d =>
    match d, q.kind with
    | .glob ea, k => k.global && q.lanes.any fun l => (!l.finished || q.holdsLine l) && s.laneMeets g q l ea n
    | .win pos _, .peerLoad j => pos.getD own == j
    | .win pos _, .peerStore j => pos.getD own == j
    | _, _ => false) ||
  (g.copies.takeWhile fun d => d.id != c.id).any fun d =>
    let pages := d.op.pages (s.copyBase g d)
    bytes.any fun b => s.copyMeets g d pages b

/-- Put back a copy, or take it out when its last piece is written: its payload counts for its batch (R289). -/
def Group.putCopy (g : Group) (c : Copy) : Group :=
  if c.pos < c.op.total then { g with copies := mapIf (fun d => d.id == c.id) (fun _ => c) g.copies }
  else
    let g1 : Group := { g with copies := g.copies.filter fun d => d.id != c.id }
    if c.batch = g.bc.openNum then
      { g1 with bc := { g.bc with payload := g.bc.payload + c.payload, short := g.bc.short || c.short } }
    else
      let add := fun (b : Sealed) => { b with payload := b.payload + c.payload, short := b.short || c.short }
      { g1 with bc := { g.bc with seals := mapIf (fun b => b.num == c.batch) add g.bc.seals } }

/-- A copy stops at its piece (R287): a PAGE record and no stop of the group, or a deferred record. -/
def State.stopCopy (s : State) (core slot : Nat) (c : Copy) (e : Stop) : State :=
  match s.group? core slot with
  | none => s
  | some g =>
    match e with
    | .wait => s.setGroup (g.putCopy c)
    | .page a =>
      let f := g.liveFrags.headD 0
      let m := (g.frag f).mask
      let index := ((List.range g.copies.length).find? fun i => (g.copies[i]?).elim false fun d => d.id == c.id).getD 0
      let r : TrapRec := { s.mkRec g f .page a m m c.pc with
        defer := true
        info := BitVec.ofNat 64 (index % 256 * 256 + 2) }
      let (t, s1) := s.raiseReplay (dieOf core) r
      s1.modGroup core slot (fun g => g.putCopy { c with st := .paged t })
    | .stop cause a =>
      let g1 := g.putCopy { c with st := .stopped }
      s.setGroup { g1 with deferred := g.deferred ++ [Deferred.mk cause a none c.pc true] }

/-- Read the block-table entry a piece needs (R283), as the copy's own reads are ordered (R290). The ADDR record of a bad entry names the
pointer that the entry holds (R287: DESIGN CHOICE, log 72). -/
def State.readEntry (s : State) (g : Group) (c : Copy) : Except Stop Copy × State :=
  match c.op with
  | .tensor x =>
    match x.needsEntry c.pos with
    | none => (.ok c, s)
    | some i2 =>
      let side := Side.glob (x.entryAddr i2)
      if (c.entry.map (·.1)) = some i2 then (.ok c, s)
      else if s.pieceHeld g c 8 [side] then (.error .wait, s)
      else
        match s.readSide g { c with origs := [] } 8 side with
        | (.error e, s) => (.error e, s)
        | (.ok bs, s) =>
          let v : Word := BitVec.ofNat 64 (leValue bs)
          if field v 59 55 ≠ 0 then (.error (.stop .addr v), s) else (.ok { c with entry := some (i2, v) }, s)
  | _ => (.ok c, s)

/-- The layout tag a copy gives the blocks it writes (R284). -/
def CopyOp.span : CopyOp → BitVec 3
  | .tensor x => BitVec.ofNat 3 x.span
  | _ => 0#3

/-- Whether a copy is a multicast. -/
def CopyOp.multi : CopyOp → Bool
  | .multicast .. => true
  | _ => false

/-- The copy goes on behind a piece that is written. -/
def State.passPiece (s : State) (core slot : Nat) (c : Copy) : State :=
  s.modGroup core slot fun g => g.putCopy { c with out := none, pos := c.pos + max 1 c.piece.len }

/-- A piece of a copy moves (R286): its source is read, its destinations are checked and then written. What the copy has read of its
table stays with it, whether the piece moves or not (R283). -/
def State.movePiece (s : State) (core slot : Nat) (c0 : Copy) : State :=
  match s.group? core slot with
  | none => s
  | some g =>
    match s.readEntry g c0 with
    | (.error e, t) => t.stopCopy core slot c0 e
    | (.ok c, t) =>
      let p := c.piece
      if t.pieceHeld g c p.len (p.src.toList ++ p.dsts) || p.dsts.any fun d => match d with
          | .win pos _ => (t.sideTeam g pos).elim false t.peerHeld
          | .glob _ => false
      then t.stopCopy core slot c .wait
      else
        let (bs, t1) := match p.src with
          | some d => t.readSide g c p.len d
          | none => (.ok p.fill, t)
        match bs with
        | .error e => t1.stopCopy core slot c e
        | .ok bs =>
          let (r, t2) := p.dsts.foldl (fun (a : Except Stop Copy × State) d =>
            match a with
            | (.ok c, t) => t.writeSide g c c.op.span c.op.multi bs d
            | (.error e, t) => (.error e, t)) (Except.ok c, t1)
          match r with
          | .error e => t2.stopCopy core slot c e
          | .ok c1 => if c1.out.isSome then t2.modGroup core slot fun g => g.putCopy c1 else t2.passPiece core slot c1

/-- The store of a piece comes back from its slice (R223, R287, R290): the copy goes on, or stops with TAG; what a write of the group
has met on the way is undefined (R34). -/
def State.pieceDone (s : State) (core slot : Nat) (c : Copy) (id : Nat) : State :=
  match s.group? core slot with
  | none => s
  | some g =>
    match g.req? id with
    | none => s.setGroup (g.putCopy { c with out := none })
    | some r =>
      if !r.performed then s
      else
        let s1 := s.setGroup (g.dropReq id)
        match r.lanes.find? fun l => l.st == .failed .tag with
        | some l => s1.stopCopy core slot { c with out := none } (.stop .tag l.new)
        | none =>
          let met := c.raced.filter fun m => decide (c.pos ≤ m.1) && decide (m.1 < c.pos + c.piece.len)
          (met.foldl (fun t m => t.spoil core slot c m.1 m.2) s1).passPiece core slot c

/-- STREAMER_PIECE (R286, R287): a copy that waits for a PAGE record goes on once it is resolved; a copy that a fault has
stopped does not move; a frozen core's streamer starts no piece, but the answer to one on its way is taken (R420, R422); a group that stands
for its save starts no further piece (R288, R410). -/
def execStreamerPiece (core slot copy : Nat) (s : State) : Out :=
  onGroup s core slot fun g =>
    match g.copies.find? fun c => c.id == copy with
    | none => s
    | some c =>
      let stands := (s.team? g.team).elim false s.stoodForSave
      let still := stands || s.frozen.contains core
      match c.st with
        | .running => match c.out with
          | some id => s.pieceDone core slot c id
          | none => if still then s else s.movePiece core slot c
        | .paged t => if s.resolved g.part t ∧ !still then s.movePiece core slot { c with st := .running } else s
        | .stopped => s

end Sys2Proof.Machine
end

