-- ==== Sys2Proof/Machine/Gate.lean ====
section
/-! DEFINITION. Machine/Gate.lean: sessions (R321 to R323), the gate words, their checks (R320), marks (R331) and results
(R330 to R343), and the abort of a pair (R344). Draws and crossings are in Machine/GateEvents.lean. -/

namespace Sys2Proof.Machine

/-- The crossings a role has sent that are on their way. -/
def Pair.sent (p : Pair) (role : Nat) : List Crossing := if role = 0 then p.sent0 else p.sent1
/-- The receive buffer of a role. -/
def Pair.buf (p : Pair) (role : Nat) : List Crossing := if role = 0 then p.buf0 else p.buf1
/-- The aborts a role's gate has performed (R350). -/
def Pair.aborts (p : Pair) (role : Nat) : Nat := if role = 0 then p.aborts0 else p.aborts1
/-- The abort notices on their way to a role, each with the sequence number that both sides move to (R344, R345). -/
def Pair.notice (p : Pair) (role : Nat) : List Word := if role = 0 then p.notice0 else p.notice1
/-- A role's stream entry cannot be written (R328). -/
def Pair.bad (p : Pair) (role : Nat) : Bool := if role = 0 then p.bad0 else p.bad1
/-- A role's group has ended. -/
def Pair.ended (p : Pair) (role : Nat) : Bool := if role = 0 then p.ended0 else p.ended1
/-- Replace what a role has sent. -/
def Pair.setSent (p : Pair) (role : Nat) (x : List Crossing) : Pair := if role = 0 then { p with sent0 := x } else { p with sent1 := x }
/-- Replace a role's receive buffer. -/
def Pair.setBuf (p : Pair) (role : Nat) (x : List Crossing) : Pair := if role = 0 then { p with buf0 := x } else { p with buf1 := x }
/-- Replace the abort notices on their way to a role. -/
def Pair.setNotice (p : Pair) (role : Nat) (x : List Word) : Pair := if role = 0 then { p with notice0 := x } else { p with notice1 := x }
/-- The number that a role's stream still has to move to when its next group starts (R344). -/
def Pair.setLate (p : Pair) (role : Nat) (x : Option Word) : Pair := if role = 0 then { p with late0 := x } else { p with late1 := x }
/-- Mark a role's stream entry as one that cannot be written. -/
def Pair.setBad (p : Pair) (role : Nat) : Pair := if role = 0 then { p with bad0 := true } else { p with bad1 := true }
/-- A role's group has ended, or has started. -/
def Pair.setEnded (p : Pair) (role : Nat) (x : Bool) : Pair := if role = 0 then { p with ended0 := x } else { p with ended1 := x }

/-- The pair of a group: of a grid group only (R327). -/
def State.pair? (s : State) (g : Group) : Option Pair :=
  match s.sessionOf g with
  | none => none
  | some x => if g.team.origin then none else s.pairs.find? fun p => p.sid == x.sid && p.team == g.team.index && p.gidx == g.gidx

/-- Put back a pair. -/
def State.setPair (s : State) (p : Pair) : State :=
  { s with pairs := (s.pairs.filter fun q => !(q.sid == p.sid && q.team == p.team && q.gidx == p.gidx)) ++ [p] }

/-- The role of a group. -/
def State.roleOf (s : State) (g : Group) : Nat := (s.sessionOf g).elim 0 fun x => x.role g.part

/-- A group is the other side of a group's pair (R327). -/
def State.pairs' (s : State) (g h : Group) : Bool :=
  match s.sessionOf g with
  | none => false
  | some x => !g.team.origin && h.part == x.other g.part && h.part != g.part && h.team.index == g.team.index && !h.team.origin &&
      h.gidx == g.gidx && (s.sessionOf h).elim false fun y => y.sid == x.sid

/-- The group at the other side of a pair, when it is resident. -/
def State.peerGroup (s : State) (g : Group) : Option Group := s.groups.find? (s.pairs' g)

/-- The groups of saved teams. -/
def State.savedGroups (s : State) : List Group := s.saved.flatMap (·.groups)

/-- Change the saved groups that satisfy a test. -/
def State.modSaved (s : State) (p : Group → Bool) (f : Group → Group) : State :=
  { s with saved := s.saved.map fun x => { x with groups := mapIf p f x.groups } }

/-- The group at the other side of a pair, resident or saved (R346). -/
def State.peerAny (s : State) (g : Group) : Option Group := (s.peerGroup g).or (s.savedGroups.find? (s.pairs' g))

/-- Check 1 of R320 with R323: no session or no pairing, or a revoked session. -/
def State.gateClosed (s : State) (g : Group) : Option (Cause × Word) :=
  match s.sessionOf g with
  | none => some (.gateSession, 1#64)
  | some x =>
    if x.revoked then some (.gateSession, 6#64)
    else if !g.sessValid ∨ g.team.origin then some (.gateSession, 1#64)
    else none

/-- The sequence number of a FRESH mark. -/
def Mark.freshQ : Mark → Option Word
  | .fresh q => some q
  | _ => Option.none

/-- The sequence number of any mark. -/
def Mark.seq : Mark → Option Word
  | .none => Option.none
  | .fresh q => some q
  | .slot q => some q
  | .posted q => some q
  | .opened q => some q

/-- GATE_TAINT of the lowest register whose mark is not the one required (R320). -/
def taint (marks : List (Nat × Mark × Mark)) : Option (Cause × Word) :=
  match marks.find? fun m => m.2.1 != m.2.2 with
  | some m => some (.gateTaint, BitVec.ofNat 64 m.1)
  | none => none

/-- How many registers an operand of a share type takes: a pair for .z64 (R319). -/
def shareWidth (t : Nat) : Nat := if t = 2 then 2 else 1

/-- The marks a triple at v needs: a, b, c FRESH, d and e another (R334, R336); `q` is that of its first register. -/
def Group.tripleMarks (g : Group) (v t : Nat) (slots : Word → Mark) : List (Nat × Mark × Mark) :=
  let w := shareWidth t
  let q := ((g.vmark v).freshQ).getD 0#64
  ((List.range (3 * w)).map fun i => (v + i, g.vmark (v + i), Mark.fresh q)) ++
    (List.range (2 * w)).map fun i => (v + 3 * w + i, g.vmark (v + 3 * w + i), slots q)

/-- Operands of a gate word, all 64 lanes of each register (R212, R318); 64 draws a register for lanes that race. -/
def Ctx.gateRegs (x : Ctx) (draw : Nat) (ns : List Nat) : List Lanes :=
  (List.range ns.length).map fun i => x.crossing (BitVec.ofNat 6 (ns.getD i 0)) (draw + 64 * i)

/-- A word writes whole registers with their marks as it issues: older writes to them are in flight beside its own (R212). -/
def Group.gateSet (g : Group) (ws : List (Nat × Lanes × Mark)) : Group :=
  ws.foldl (fun g w => (g.wrV (BitVec.ofNat 6 w.1) (BitVec.allOnes 64) w.2.1).setVmark w.1 w.2.2) g

/-- Write whole registers with their marks, through the scoreboard, when their values have come. -/
def Group.gateWrite (g : Group) (fid : Nat) (ws : List (Nat × Lanes × Mark)) : Group :=
  ws.foldl (fun g w => (g.landV fid w.1 (BitVec.allOnes 64) w.2.1).setVmark w.1 w.2.2) g

/-- Lane-wise arithmetic on operands of one or two registers (R317): each operand a list of registers, the low one first. -/
def shareOp (t : Nat) (f : Nat → Nat → Nat) (a b : List Lanes) : List Lanes :=
  let lane := fun (x : List Lanes) (l : Nat) => (laneAt (x.getD 0 (Vector.replicate 64 0#32)) l).toNat +
    (if t = 2 then 2 ^ 32 * (laneAt (x.getD 1 (Vector.replicate 64 0#32)) l).toNat else 0)
  (List.range (shareWidth t)).map fun i =>
    Vector.ofFn fun l => BitVec.ofNat 32 (f (lane a l.val) (lane b l.val) % 2 ^ (32 * shareWidth t) / 2 ^ (32 * i))

/-- Subtraction of shares: XOR for .b32 (R317). -/
def shareSub (t x y : Nat) : Nat := if t = 1 then x ^^^ y else x + 2 ^ (32 * shareWidth t) - y

/-- Addition of shares: XOR for .b32. -/
def shareAdd (t x y : Nat) : Nat := if t = 1 then x ^^^ y else x + y

/-- Product of shares and public values: AND for .b32. -/
def shareMul (t x y : Nat) : Nat := if t = 1 then x &&& y else x * y

/-- A word's gate word, before its parts are filled in. -/
def Ctx.gateWord (x : Ctx) (s : State) (op : GateOp) (d : Nat) (q : Word) : GateWord :=
  let z : Lanes := Vector.replicate 64 0#32
  let joins := match op with
    | .gtrip _ => false
    | .gtript => false
    | _ => true
  ⟨s.nextReq, op, d, q, true, [], 0, 0, [], 0, z, z, z, [], joins, x.g.bg.openNum, x.unit, none, x.fid, none, (0#64, 0)⟩

/-- A gate word that is done leaves the list (R337). -/
def GateWord.finished (w : GateWord) : Bool := w.drawn && w.post.isEmpty && w.flying == 0 && w.await == 0

/-- Take the words that are done out of a group's list. -/
def Group.settleGates (g : Group) : Group := { g with gates := g.gates.filter fun w => !w.finished }

/-- A gate word enters the group's list (R410), unless it neither posts nor awaits (R342). -/
def Ctx.addGate (x : Ctx) (s : State) (w : GateWord) (f : Group → Group) : Res :=
  x.upd { s with nextReq := s.nextReq + 1 } fun g => let g1 := f g; { g1 with gates := g1.gates ++ [w] }.settleGates

/-- The issue of a gate word other than `gsess` (R318, R320): its traps are uncharged; a 17th outstanding word is held
(R410). A word is held before its checks while a write to a tile of its `reads` or `tiles` is pending, and the `tiles` it writes while older
multiplies still read them (R300, R343). -/
def gateIssue (i : Instr) (s : State) (fault : Ctx → State → Option (Cause × Word)) (draws : Bool) (reads tiles : List Nat)
    (sectors : Ctx → State → Nat) (eff : Ctx → State → Res) : Out :=
  issue i s
    (fun x t =>
      if reads.any (t.tileWritten x.core x.slot) ∨ tiles.any (t.tileHeld x.core x.slot) then .hold
      else match (t.gateClosed x.g).or (fault x t) with
      | some (c, a) => .trap c a none
      | none =>
        match t.group? x.core x.slot with
        | none => .hold
        | some g =>
          if g.gates.length ≥ Config.gateWords ∨ (draws ∧ g.orderHeld false) then .hold
          else .go 0 (sectors x t))
    eff

/-- No check of its own. -/
def noFault : Ctx → State → Option (Cause × Word) := fun _ _ => none

/-- gtrip (R330): its record is drawn by GATE_DRAW_PERFORMED. -/
def execGtrip (st : BitVec 3) (d : BitVec 6) (t : BitVec 2) (s : State) : Out :=
  gateIssue (.gtrip st d t) s noFault true [] [] (fun _ _ => recordSize (t.toNat + 1) / 32) fun x u =>
    x.addGate u { x.gateWord u (.gtrip t.toNat) d.toNat 0#64 with drawn := false } fun g => g

/-- gmask (R334): d := x − a, e := y − b, posted. -/
def execGmask (st : BitVec 3) (d a b : BitVec 6) (t : BitVec 2) (s : State) : Out :=
  let n := t.toNat
  let w := shareWidth n
  gateIssue (.gmask st d a b t) s (fun x _ => taint (x.g.tripleMarks d.toNat n .slot)) false [] [] (fun _ _ => 0) fun x u =>
    let q := ((x.g.vmark d.toNat).freshQ).getD 0#64
    let regs := fun (base : Nat) => (List.range w).map (base + ·)
    let r := x.gateRegs u.draws (regs a.toNat ++ regs b.toNat ++ regs d.toNat ++ regs (d.toNat + w))
    let part := fun (k : Nat) => (r.drop (k * w)).take w
    let dd := shareOp n (shareSub n) (part 0) (part 2)
    let ee := shareOp n (shareSub n) (part 1) (part 3)
    let out := dd ++ ee
    let slots := (List.range out.length).map fun i => (d.toNat + 3 * w + i, out.getD i (Vector.replicate 64 0#32), Mark.posted q)
    let gw := { x.gateWord u (.gmask n) d.toNat q with
      post := (List.range out.length).map fun i => (i, out.getD i (Vector.replicate 64 0#32)) }
    x.addGate { u with draws := u.draws + 64 * r.length } gw fun g => g.gateSet slots

/-- gopen (R335): it awaits the peer's d and e; its own are those of its slots, in all 64 lanes (R212, R318). -/
def execGopen (st : BitVec 3) (d : BitVec 6) (t : BitVec 2) (s : State) : Out :=
  let n := t.toNat
  let w := shareWidth n
  let slotQ := fun (g : Group) => match g.vmark (d.toNat + 3 * w) with
    | .posted q => q
    | _ => 0#64
  gateIssue (.gopen st d t) s
    (fun x _ => taint ((List.range (2 * w)).map fun i =>
      (d.toNat + 3 * w + i, x.g.vmark (d.toNat + 3 * w + i), Mark.posted (slotQ x.g))))
    false [] [] (fun _ _ => 0) fun x u =>
      let own := x.gateRegs u.draws ((List.range (2 * w)).map (d.toNat + 3 * w + ·))
      x.addGate { u with draws := u.draws + 64 * (2 * w) } { x.gateWord u (.gopen n) d.toNat (slotQ x.g) with await := 2 * w, record := own } fun g => g

/-- gfin (R336): the product share, and the triple spent. -/
def execGfin (st : BitVec 3) (d a : BitVec 6) (t : BitVec 2) (s : State) : Out :=
  let n := t.toNat
  let w := shareWidth n
  gateIssue (.gfin st d a t) s (fun x _ => taint (x.g.tripleMarks a.toNat n .opened)) false [] [] (fun _ _ => 0) fun x u =>
    let r := x.gateRegs u.draws ((List.range (5 * w)).map (a.toNat + ·))
    let part := fun (k : Nat) => (r.drop (k * w)).take w
    let add := shareOp n (shareAdd n)
    let mul := shareOp n (shareMul n)
    let z := add (add (part 2) (mul (part 3) (part 1))) (mul (part 4) (part 0))
    let z := if u.roleOf x.g = 0 then add z (mul (part 3) (part 4)) else z
    let none' := fun (g : Group) => (List.range (5 * w)).foldl (fun g i => g.setVmark (a.toNat + i) .none) g
    x.upd { u with draws := u.draws + 64 * r.length } fun g =>
      none' (g.gateSet ((List.range w).map fun i => (d.toNat + i, z.getD i (Vector.replicate 64 0#32), Mark.none)))

/-- gtrunc (R338). -/
def execGtrunc (st : BitVec 3) (d a f : BitVec 6) (s : State) : Out :=
  gateIssue (.gtrunc st d a f) s noFault false [] [] (fun _ _ => 0) fun x u =>
    let z := x.crossing a u.draws
    let one := fun (v : BitVec 32) => if u.roleOf x.g = 0 then v >>> f.toNat else -((-v) >>> f.toNat)
    x.upd { u with draws := u.draws + 64 } fun g => g.gateSet [(d.toNat, vmap one z, .none)]

/-- gmsb (R340): its record is drawn first. -/
def execGmsb (st : BitVec 3) (d a : BitVec 6) (s : State) : Out :=
  gateIssue (.gmsb st d a) s noFault true [] [] (fun _ _ => 0) fun x u =>
    x.addGate { u with draws := u.draws + 64 }
      { x.gateWord u .gmsb d.toNat 0#64 with drawn := false, await := 21, x := x.crossing a u.draws } fun g => g.setVmark d.toNat .none

/-- gb2a (R341): its record is drawn first. -/
def execGb2a (st : BitVec 3) (d a : BitVec 6) (s : State) : Out :=
  gateIssue (.gb2a st d a) s noFault true [] [] (fun _ _ => 0) fun x u =>
    x.addGate { u with draws := u.draws + 64 }
      { x.gateWord u .gb2a d.toNat 0#64 with drawn := false, await := 1, x := x.crossing a u.draws } fun g => g.setVmark d.toNat .none

/-- greveal (R342): vA goes to a receiving peer; a receiver awaits the peer's share, and writes 0 otherwise. -/
def execGreveal (st : BitVec 3) (d a : BitVec 6) (s : State) : Out :=
  gateIssue (.greveal st d a) s noFault false [] [] (fun _ _ => 0) fun x u =>
    let role := u.roleOf x.g
    let reveal := (u.sessionOf x.g).elim 0 (·.reveal)
    let (_, _, seq, _) := u.cursorOf x.g
    let v := x.crossing a u.draws
    let w := { x.gateWord u .greveal d.toNat (seq - 1#64) with
      post := if natBit reveal (1 - role) then [(0, v)] else [], await := if natBit reveal role then 1 else 0, x := v }
    x.addGate { u with draws := u.draws + 64 } w fun g =>
      if natBit reveal role then g.setVmark d.toNat .none
      else g.gateSet [(d.toNat, Vector.replicate 64 0#32, .none)]

/-- gtript (R330): its record is drawn by GATE_DRAW_PERFORMED. -/
def execGtript (st d : BitVec 3) (s : State) : Out :=
  gateIssue (.gtript st d) s noFault true [] ((List.range 5).map (d.toNat + ·)) (fun x u => u.nextRecordSectors x.g) fun x u =>
    x.addGate u { x.gateWord u .gtript d.toNat 0#64 with drawn := false } fun g => g

/-- The marks a matrix triple at tile `d` needs (R343). -/
def Group.tileMarks (g : Group) (d : Nat) : List (Nat × Mark × Mark) :=
  let q := ((g.tmark d).freshQ).getD 0#64
  ((List.range 3).map fun i => (d + i, g.tmark (d + i), Mark.fresh q)) ++
    (List.range 2).map fun i => (d + 3 + i, g.tmark (d + 3 + i), Mark.slot q)

/-- Element-wise arithmetic mod 2^32 on the words of two tile images of one shape (R343). -/
def tileZip (f : BitVec 32 → BitVec 32 → BitVec 32) (t : TileShape) (a b : SMap 8) : List Byte :=
  (List.range (t.rows * t.rowBytes / 4)).flatMap fun i =>
    leBytes 4 (f (BitVec.ofNat 32 (readLE a (4 * i) 4)) (BitVec.ofNat 32 (readLE b (4 * i) 4))).toNat

/-- Bytes in crossings of 64 words (R332). -/
def toCrossings (bs : List Byte) : List Lanes :=
  (List.range ((bs.length + 255) / 256)).map fun k =>
    Vector.ofFn fun l => BitVec.ofNat 32 (leValue ((bs.drop (256 * k + 4 * l.val)).take 4))

/-- The shape of a tile whose image is exchanged: its own rows and columns. -/
def Group.tileBytes (g : Group) (n : Nat) : Nat := (g.shape n).rows * (g.shape n).rowBytes

/-- gmaskt (R343): D := X − A and E := Y − B, posted. -/
def execGmaskt (st d a b : BitVec 3) (s : State) : Out :=
  gateIssue (.gmaskt st d a b) s
    (fun x _ =>
      if x.g.shape a.toNat ≠ x.g.shape d.toNat ∨ x.g.shape b.toNat ≠ x.g.shape (d.toNat + 1) then
        some (.illegal, wordOf (.gmaskt st d a b))
      else taint (x.g.tileMarks d.toNat))
    false [a.toNat, b.toNat, d.toNat, d.toNat + 1] [d.toNat + 3, d.toNat + 4] (fun _ _ => 0) fun x u =>
      let n := d.toNat
      let q := ((x.g.tmark n).freshQ).getD 0#64
      let dd := tileZip (· - ·) (x.g.shape n) (x.g.tile a.toNat) (x.g.tile n)
      let ee := tileZip (· - ·) (x.g.shape (n + 1)) (x.g.tile b.toNat) (x.g.tile (n + 1))
      let out := toCrossings dd ++ toCrossings ee
      let w := { x.gateWord u .gmaskt n q with
        post := (List.range out.length).map fun i => (i, out.getD i (Vector.replicate 64 0#32)) }
      x.addGate u w fun g =>
        (((g.setTile (n + 3) (writeBytes (g.tile (n + 3)) 0 dd)).setTile (n + 4) (writeBytes (g.tile (n + 4)) 0 ee)).setTmark
          (n + 3) (.posted q)).setTmark (n + 4) (.posted q)

/-- gopent (R343): it awaits the peer's D and E. -/
def execGopent (st d : BitVec 3) (s : State) : Out :=
  let n := d.toNat
  let slotQ := fun (g : Group) => match g.tmark (n + 3) with
    | .posted q => q
    | _ => 0#64
  gateIssue (.gopent st d) s
    (fun x _ => taint ((List.range 2).map fun i => (n + 3 + i, x.g.tmark (n + 3 + i), Mark.posted (slotQ x.g))))
    false [] [n + 3, n + 4] (fun _ _ => 0) fun x u =>
      let k := (x.g.tileBytes (n + 3) + 255) / 256 + (x.g.tileBytes (n + 4) + 255) / 256
      x.addGate u { x.gateWord u .gopent n (slotQ x.g) with await := k } fun g => g

/-- The request block of `gsess` (R321). -/
structure SessReq where
  op : Nat
  role : Nat
  peer : Nat
  frac : Nat
  reveal : Nat
  nonce : Word
  streams : Word
  n : Nat
  sid : Nat
  deriving DecidableEq, Repr

/-- Read a request block; none when a reserved byte is nonzero or a field is outside its range (R321). -/
def sessReq (part : Nat) (bs : List Byte) : Option SessReq :=
  let u := fun (at' n : Nat) => leValue ((bs.drop at').take n)
  let r : SessReq := ⟨u 0 1, u 1 1, u 2 1, u 3 1, u 4 1, BitVec.ofNat 64 (u 8 8), BitVec.ofNat 64 (u 16 8), u 24 4, u 32 1⟩
  let reserved := u 5 3 ≠ 0 ∨ u 28 4 ≠ 0 ∨ (bs.drop 33).any (· != 0#8) ∨ r.reveal > 3
  let open' := r.role > 1 ∨ r.peer > 63 ∨ r.peer = part ∨ r.frac > 31 ∨ r.streams.toNat % 32 ≠ 0
  if reserved ∨ (r.op ≠ 1 ∧ r.op ≠ 2) ∨ (r.op = 1 ∧ open') ∨ (r.op = 2 ∧ r.sid > 31) then none else some r

/-- The partition that made a waiting request. -/
def Session.asker (x : Session) : Option Nat := x.part0.or x.part1

/-- A session is a waiting request of a partition to another. -/
def Session.waits (x : Session) (by' to' : Nat) : Bool := !x.opened && x.asker == some by' && x.peer == to'

/-- A session is an open one of two partitions. -/
def Session.joins (x : Session) (a b : Nat) : Bool :=
  x.opened && !x.revoked && ((x.part0 == some a && x.part1 == some b) || (x.part0 == some b && x.part1 == some a))

/-- Open a session (R322): sD and the sessions after. Which request counts as matched is DEDUCED (log 46). -/
def State.sessOpen (s : State) (part : Nat) (r : SessReq) : Word × List Session :=
  let mine := (r.streams, r.n)
  if s.sessions.any fun x => x.waits part r.peer then (0x100#64, s.sessions)
  else
    match s.sessions.find? fun x => x.joins part r.peer && x.role part == r.role && x.nonce == r.nonce &&
        x.frac == r.frac && x.reveal == r.reveal with
    | some x => (BitVec.ofNat 64 (x.sid + 1), s.sessions)
    | none =>
      match s.sessions.find? fun x => x.waits r.peer part with
      | some x =>
        let other := if x.part0.isSome then 0 else 1
        if other ≠ r.role ∧ x.nonce = r.nonce ∧ x.frac = r.frac ∧ x.reveal = r.reveal then
          let y := if r.role = 0 then { x with part0 := some part, streams0 := mine, opened := true }
            else { x with part1 := some part, streams1 := mine, opened := true }
          (BitVec.ofNat 64 (x.sid + 1), mapIf (fun z => z.sid == x.sid) (fun _ => y) s.sessions)
        else (0x200#64, s.sessions.filter fun z => z.sid != x.sid)
      | none =>
        match (List.range 32).find? fun i => !s.sessions.any fun x => x.sid == i with
        | none => (0#64, s.sessions)
        | some i =>
          let z : Word × Nat := (0#64, 0)
          (0x100#64, s.sessions ++ [Session.mk r.peer i (if r.role = 0 then some part else none)
            (if r.role = 1 then some part else none) r.nonce r.frac r.reveal false false
            (if r.role = 0 then mine else z) (if r.role = 1 then mine else z)])

/-- A read of a stream is held behind a write that the group issued before the drawing word (R230, R233, R258). -/
def State.readHeld (s : State) (g : Group) (before : Nat) (ea : Word) (pas : List Nat) : Bool :=
  let r : Request := ⟨before, .load, pas.length, true, 0, [], false, 8, 0#64, 0#64, none, 0, (g.core, g.slot)⟩
  (s.settled g).blocks r ⟨0, ea, pas, [], false, 0#64, 0#64, 0#64, .waiting, false⟩

/-- Read a stream for the word numbered `before`, sector by sector, with its pointer's tag (R330), as a load of the group (R258). -/
def State.gateRead (s : State) (g : Group) (before : Nat) (ea : Word) (n : Nat) : Except Stop (List Byte) × State :=
  (List.range ((n + 31) / 32)).foldl (fun (a : Except Stop (List Byte) × State) i =>
    match a with
    | (.error e, t) => (.error e, t)
    | (.ok bs, t) =>
      match pieceAccess t g before .load (ea + BitVec.ofNat 64 (32 * i)) (min 32 (n - 32 * i)) with
      | (.error e, t) => (.error e, t)
      | (.ok (pas, _, ext), t) =>
        if t.readHeld g before (ea + BitVec.ofNat 64 (32 * i)) pas then (.error .wait, t)
        else let (b, t) := readPas t pas ext; (.ok (bs ++ b), t)) (Except.ok [], s)

/-- The fields of a record header. -/
def headerSeq (h : List Byte) : Word := BitVec.ofNat 64 (leValue (h.take 8))
/-- KIND of a header. -/
def headerKind (h : List Byte) : Nat := leValue (h.drop 8 |>.take 1)
/-- The shape n (0 TCA, 1 TCB, 2 TCC) of a KIND 4 header. -/
def headerShape (h : List Byte) (n : Nat) : TileShape := shapeOf32 (leValue (h.drop (16 + 4 * n) |>.take 4))

/-- A reserved byte of a header is nonzero (R329). -/
def headerReserved (h : List Byte) : Bool :=
  (h.drop 9 |>.take 7).any (· != 0#8) || (h.drop 28).any (· != 0#8) || (headerKind h != 4 && (h.drop 16 |>.take 12).any (· != 0#8))

/-- The shapes of a KIND 4 header break R330. -/
def headerShapesBad (h : List Byte) : Bool :=
  let a := headerShape h 0
  let b := headerShape h 1
  let c := headerShape h 2
  a.ew != 3#2 || b.ew != 3#2 || c.ew != 3#2 || a.cols != b.cols || decide (a.cols > 64) ||
    decide (a.rows > 64) || decide (b.rows > 64) || decide (c.rows > 64) || c.rows != a.rows || c.cols != b.rows

/-- A header that a skip cannot take a size from (R344 step 4). -/
def headerMalformed (h : List Byte) (q : Word) : Bool :=
  headerSeq h != q || headerKind h == 0 || decide (headerKind h > 6) || headerReserved h || (headerKind h == 4 && headerShapesBad h)

/-- The cursor of a group, its stream entry read at the first draw (R328): `none` when there is no entry. -/
def State.loadCursor (s : State) (g : Group) (before : Nat) : Except Stop (Option (Word × Word × Word × Word)) × State :=
  match g.cursor with
  | some c => (.ok (some c), s)
  | none =>
    match s.entryAddr g with
    | none => (.ok none, s)
    | some a =>
      match s.gateRead g before a 32 with
      | (.error e, t) => (.error e, t)
      | (.ok bs, t) =>
        let w := fun (i : Nat) => (BitVec.ofNat 64 (leValue ((bs.drop i).take 8)) : Word)
        (.ok (some (w 0, w 8, w 16, w 24)), t)

/-- The destinations of a cancelled gate word that are pending (R344 step 1): those it has still to write, and the slots of a `gmask` or a
`gmaskt` that are not ready yet (R318). -/
def Group.pendingOf (g : Group) (now : Nat) (w : GateWord) : List Nat × List Nat :=
  let busy := fun (r : Reg) => g.flying.any fun p => p.early now && p.isX r
  match w.op with
  | .gmask t => ((if t = 2 then (List.range 4).map (w.d + 6 + ·) else (List.range 2).map (w.d + 3 + ·)).filter fun n =>
      busy (.v (BitVec.ofNat 6 n)), [])
  | .gmaskt => ([], [w.d + 3, w.d + 4].filter fun n => busy (.t (BitVec.ofNat 3 n)))
  | _ => (w.vregs, w.tregs)

/-- Write zero to the pending destinations of a gate word (R344 step 1). -/
def Group.cancelGate (g : Group) (now : Nat) (w : GateWord) : Group :=
  let z : Lanes := Vector.replicate 64 0#32
  let (vs, ts) := g.pendingOf now w
  let g1 := vs.foldl (fun (g : Group) n => g.wrV (BitVec.ofNat 6 n) (BitVec.allOnes 64) z) g
  ts.foldl (fun g n => g.setTile n []) g1

/-- The sequence numbers of a group's records that are drawn and not spent. -/
def Group.unspent (g : Group) : List Word :=
  (List.range 64).filterMap (fun i => (g.vmark i).seq) ++ (List.range 8).filterMap (fun i => (g.tmark i).seq) ++
    (g.gates.filter (fun w => w.drawn && (w.op == .gmsb || w.op == .gb2a))).map (·.q)

/-- A record of a write-back of a stream entry that a cause other than PAGE stops, at the entry's address, and the stream of the pair's
side closes (R328). -/
def State.closeStream (s : State) (g : Group) (c : Cause) (addr pc : Word) : State :=
  let f := g.liveFrags.headD 0
  let m := (g.frag f).mask
  let t := s.enqueue (dieOf g.core) (s.mkRec g f c addr m m pc)
  match t.pair? g with
  | some p => t.setPair (p.setBad (t.roleOf g))
  | none => t

/-- The write-back of a stream entry as a request of no fragment: two words of 8 bytes. -/
def State.cursorStore (s : State) (g : Group) (a seq off : Word) (m : Mask) (pc : Word) (st : LaneSt) : Request :=
  let waits := st == .faulted
  ⟨s.nextReq, .store, 8, true, 0,
    [⟨0, a + 16#64, [], [], false, seq, 0#64, 0#64, st, waits⟩, ⟨1, a + 24#64, [], [], false, off, 0#64, 0#64, st, waits⟩],
    false, 8, m, pc, none, if waits then (s.freeEntry g.core false).getD 0 else 0, (g.core, g.slot)⟩

/-- A group's write-back of its stream entry (R328), with the PC of its last drawing word: at once when its page passes; a page that
faults waits as a hamper entry does; any other cause is recorded and closes the stream of the pair's side. It takes the place of one that still
waits. -/
def State.writeCursor (s : State) (core slot : Nat) : State :=
  match s.group? core slot with
  | none => s
  | some g =>
    match g.cursor, s.entryAddr g with
    | some (_, _, seq, off), some a =>
      let pc := (g.drawn.getLast?.map (·.2)).getD 0#64
      let old := g.reqs.find? fun r => r.frag == 8
      let s := if old.isNone then s else s.modGroup core slot fun g => { g with reqs := g.reqs.filter fun r => r.frag != 8 }
      let send := fun (t : State) (r : Request) =>
        { t with nextReq := s.nextReq + 1 }.modGroup core slot fun g => { g with reqs := g.reqs ++ [r] }
      match laneCheck s g.part (.ofCore core) ⟨true, false, false, false, false⟩ false (a + 16#64) 16 with
      | (.ok pas _ _, t) => writePas t g.part pas (leBytes 8 seq.toNat ++ leBytes 8 off.toNat)
      | (.fault .page v, t) =>
        let m := (g.frag (g.liveFrags.headD 0)).mask
        let r := t.cursorStore g a seq off m pc .faulted
        match old.bind fun o => o.ticket.map fun k => (o.entry, k) with
        | some (entry, k) => send t { r with ticket := some k, entry := entry }
        | none =>
          let (ticket, t1) := t.raisePage core slot r v m
          send t1 { r with ticket := ticket }
      | (.fault c _, t) => t.closeStream g c a pc
      | (.wait, t) => send t (t.cursorStore g a seq off 0#64 pc .draining)
    | _, _ => s

/-- What a fault of a write-back or of its replay leaves (R328): the request is gone, the entry as it was. -/
def State.cursorFails (s : State) (core slot req : Nat) : State :=
  match s.group? core slot with
  | none => s
  | some g =>
    match g.req? req with
    | none => s
    | some r =>
      if r.frag ≠ 8 then s
      else
        match r.lanes.findSome? fun l => match l.st with
          | .failed c => some c
          | _ => none with
        | some c => (s.setGroup (g.dropReq req)).closeStream g c ((s.entryAddr g).getD 0#64) r.pc
        | none => s

/-- The write-back of a group that is gone is tried again once its PAGE record is resolved (R233, R328). -/
def State.replayBack (s : State) (b : Back) : State :=
  if !(b.req.ticket.elim true (s.resolved b.g.part)) then s
  else
    let a := (b.req.lanes.headD ⟨0, 0, [], [], false, 0, 0, 0, .waiting, false⟩).ea
    let gone := fun (t : State) => { t with backs := t.backs.filter fun x => x.req.id != b.req.id }
    match laneCheck s b.g.part (.ofCore b.g.core) ⟨true, false, false, false, false⟩ false a 16 with
    | (.ok pas _ _, t) => gone (writePas t b.g.part pas (b.req.lanes.flatMap fun l => leBytes 8 l.data.toNat))
    | (.fault .page v, t) =>
      let r := { t.mkRec b.g 0 .page v 0#64 0#64 b.req.pc with info := BitVec.ofNat 64 (b.req.entry * 256 + 1) }
      let (k, t1) := t.raiseReplay (dieOf b.g.core) r
      { t1 with backs := mapIf (fun x => x.req.id == b.req.id) (fun x => { x with req := { x.req with ticket := some k } }) t1.backs }
    | (.fault c _, t) => gone (t.closeStream b.g c (a - 16#64) b.req.pc)
    | (.wait, _) => s

/-- A group that goes leaves the write-backs of its stream entry that still wait (R328, R333). -/
def State.keepBacks (s : State) (g : Group) : State :=
  { s with backs := s.backs ++ (g.reqs.filter fun r => r.frag == 8).map fun r =>
      ⟨{ g with reqs := [], cursor := none }, (s.sessionOf g).map (·.sid), r⟩ }

/-- HAMPER_REPLAY (R233, R328). -/
def execHamperReplay (core slot req : Nat) (s : State) : Out :=
  match if s.mgmt.devState = .frozen then none else s.backs.find? fun b => b.req.id == req with
  | some b => .next (s.replayBack b)
  | none => onGroup s core slot fun _ => (s.replay core slot false req).cursorFails core slot req

/-- STORE_ACK (R223, R230, R328): the lanes whose tag failed raise one deferred TAG, and a store that is done leaves the core's
list. -/
def execStoreAck (core slot req : Nat) (s : State) : Out :=
  onGroup s core slot fun _ => (s.cursorFails core slot req).storeAck core slot req

/-- The stops of aborts (R344 step 6). -/
def Group.abortStops (g : Group) (stops : List (Word × Word)) : Group :=
  { g with deferred := g.deferred ++ stops.map fun x => Deferred.mk .gateAbort x.1 none x.2 false }

/-- One side's abort of a pair as its group sees it, steps 1, 2, 4 and 6 of R344, `larger` being the larger NEXTSEQ: the skip of a stream
that must move is carried out by GATE_DRAW_PERFORMED, and the stop follows it. -/
def State.abortGroup (s : State) (g : Group) (larger : Word) : Group :=
  let live := g.unspent
  let oldest := g.drawn.find? fun d => live.contains d.1
  let addr := (oldest.map (·.1)).getD (BitVec.allOnes 64)
  let pc := match oldest with
    | some d => d.2
    | none => (g.gates.head?.map (·.pc)).getD (g.frag (g.liveFrags.headD 0)).pc
  let (_, _, seq, _) := s.cursorOf g
  let g1 := g.gates.foldl (fun g w => g.cancelGate s.clock w) g
  let g2 : Group := { g1 with
    gates := [], lost := [], vmarks := Vector.replicate 64 .none, tmarks := Vector.replicate 8 .none, drawn := g.drawn.getLast?.toList }
  match g.skip with
  | some k => { g2 with skip := some { k with target := if k.target.ult larger then larger else k.target, stops := k.stops ++ [(addr, pc)] } }
  | none => if seq.ult larger then { g2 with skip := some ⟨larger, none, [(addr, pc)]⟩ } else g2.abortStops [(addr, pc)]

/-- One side's abort of a pair for a resident group: unless its stream must skip first, its entry is written back and its class-g batches
complete (R344 steps 4 and 5). -/
def State.abortSide (s : State) (core slot : Nat) (larger : Word) : State :=
  match s.group? core slot with
  | none => s
  | some g =>
    let g1 := s.abortGroup g larger
    if g1.skip.isSome then s.setGroup g1
    else ((s.setGroup g1).writeCursor core slot).completeReady core slot 2 (fun _ => true) Config.maxBatches

/-- Raise a role's abort count, and drop the pair's crossings that carry an older one (R344 step 3, R350). -/
def Pair.abort (p : Pair) (role : Nat) : Pair :=
  let n := p.aborts role + 1
  let p1 := (p.setBuf role []).setSent (1 - role) ((p.sent (1 - role)).filter fun c => decide (c.aborts ≥ n))
  let p2 := p1.setSent role ((p1.sent role).filter fun c => decide (c.aborts ≥ n))
  if role = 0 then { p2 with aborts0 := n } else { p2 with aborts1 := n }

/-- A group whose side of a pair is left without it: its stream as memory shows it. -/
def Group.gone (g : Group) : Group := { g with cursor := none, drawn := [], skip := none, reqs := [], gates := [], staged := [] }

/-- The other side of a group's pair as its stream shows it when no group of it stands: a group of the other partition without work. -/
def State.farSide (s : State) (g : Group) : Group := { g.gone with part := (s.sessionOf g).elim g.part fun x => x.other g.part }

/-- The write-back of a stream entry, a request of no fragment, that waits: of a group of a pair's side, or of one that is gone (R328). -/
def State.waitingBack (s : State) (g : Group) : Option Request :=
  let mine := fun (h : Group) (sid : Option Nat) => h.part == g.part && h.team.index == g.team.index && h.team.origin == g.team.origin &&
    h.gidx == g.gidx && sid == (s.sessionOf g).map (·.sid)
  ((s.groups.filter fun h => mine h ((s.sessionOf h).map (·.sid))).findSome? fun h => h.reqs.find? fun r => r.frag == 8).or
    ((s.backs.filter fun b => mine b.g b.sid).head?.map (·.req))

/-- A write-back of the stream entry waits (R328). -/
def State.writingBack (s : State) (g : Group) : Bool := (s.waitingBack g).isSome

/-- NEXTSEQ of a group's stream: what an abort has it skip to, or a write-back has still to write, counts. -/
def State.seqOf (s : State) (g : Group) : Word :=
  let (_, _, a, _) := s.cursorOf g
  match g.skip, g.cursor, s.waitingBack g with
  | some k, _, _ => if a.ult k.target then k.target else a
  | none, none, some r => (r.lanes.headD ⟨0, 0, [], [], false, a, 0, 0, .waiting, false⟩).data
  | none, _, _ => a

/-- The larger NEXTSEQ of both sides of a group's pair, that of a side without a group as its stream entry has it (R344 step 4). -/
def State.largerSeq (s : State) (g : Group) : Word :=
  let a := s.seqOf g
  let b := s.seqOf ((s.peerAny g).getD (s.farSide g))
  if a.ult b then b else a

/-- A stream moves past records, whose headers give their sizes (R344 step 4): the cursor it reaches, and whether it goes no further; it
waits at a page that faults. -/
def State.farSkip (s : State) (h : Group) (target : Word) : Nat → Word × Word × Word × Word → (Word × Word × Word × Word) × Bool × State
  | 0, c => (c, true, s)
  | n + 1, (base, len, seq, off) =>
    if !seq.ult target then ((base, len, seq, off), true, s)
    else
      match s.gateRead h 0 (base + off) 64 with
      | (.ok hd, t) =>
        if headerMalformed hd seq then ((base, len, seq, off), true, t)
        else t.farSkip h target n (base, len, seq + 1#64, off + BitVec.ofNat 64 (recordBytes hd))
      | (.error (.stop ..), t) => ((base, len, seq, off), true, t)
      | (.error _, _) => ((base, len, seq, off), false, s)

/-- The side of a pair that no group stands for, as `h` shows it, moves its stream entry in memory (R344 step 4); what must wait for a page
is left to the next group of that side, and a record of a fault of its stream entry names PC 0. (DESIGN CHOICE, log 42) -/
def State.moveStream (s : State) (h : Group) (target : Word) : State :=
  let later := match s.pair? h with
    | some p => s.setPair (p.setLate (s.roleOf h) (some target))
    | none => s
  if s.writingBack h then later
  else
    match s.loadCursor h 0, s.entryAddr h with
    | (.ok (some (base, len, seq, off)), t), some a =>
      let (c, fin, t1) := t.farSkip h target (target - seq).toNat (base, len, seq, off)
      if c.2.2.1 = seq then (if fin then t1 else later)
      else
        match laneCheck t1 h.part (.ofCore h.core) ⟨true, false, false, false, false⟩ false (a + 16#64) 16 with
        | (.ok pas _ _, u) =>
          let u1 := writePas u h.part pas (leBytes 8 c.2.2.1.toNat ++ leBytes 8 c.2.2.2.toNat)
          match fin, u1.pair? h with
          | false, some p => u1.setPair (p.setLate (u1.roleOf h) (some target))
          | _, _ => u1
        | (.fault .page _, _) => later
        | (.fault cause _, u) => u.closeStream h cause a 0#64
        | (.wait, _) => later
    | (.error (.stop ..), t), _ => t
    | (.error _, _), _ => later
    | _, _ => s

/-- The far side of a group's pair aborts where no group stands for it. -/
def State.farAbort (s : State) (g : Group) (target : Word) : State := s.moveStream (s.farSide g) target

/-- A gate detects a fault of its pair: its side aborts, and a notice goes to the other side, or to its stream when no group of that side
stands (R344). -/
def State.abortPair (s : State) (core slot : Nat) : State :=
  match s.group? core slot with
  | none => s
  | some g =>
    match s.pair? g with
    | none => s
    | some p =>
      let role := s.roleOf g
      let larger := s.largerSeq g
      let p1 := p.abort role
      let far := 1 - role
      match s.peerAny g with
      | some _ => (s.setPair (p1.setNotice far (p1.notice far ++ [larger]))).abortSide core slot larger
      | none => ((s.setPair (p1.abort far)).farAbort g larger).abortSide core slot larger

/-- A pair has gate work outstanding (R323). -/
def State.pairBusy (s : State) (p : Pair) : Bool :=
  !p.sent0.isEmpty || !p.sent1.isEmpty || !p.buf0.isEmpty || !p.buf1.isEmpty ||
    (s.groups ++ s.savedGroups).any fun g => !g.gates.isEmpty && (s.sessionOf g).elim false fun x => x.sid == p.sid && g.team.index == p.team &&
      !g.team.origin && g.gidx == p.gidx

/-- A revoked session whose launches have both completed frees its SID (R323). -/
def State.freeSessions (s : State) : State :=
  let used := fun (x : Session) => s.launches.any fun l => !l.done && l.record.sess && l.record.sid == x.sid &&
    (x.part0 == some l.part || x.part1 == some l.part)
  let gone := s.sessions.filter fun x => x.revoked && !used x
  { s with
    sessions := s.sessions.filter fun x => !gone.any fun y => y.sid == x.sid
    pairs := s.pairs.filter fun p => !gone.any fun y => y.sid == p.sid }

/-- Revoke a session (R323): the pairs at work abort on both sides, wherever their groups are, %gsess.VALID becomes 0, the SID is freed
in time. -/
def State.revoke (s : State) (sid : Nat) : State :=
  let mine := fun (t : State) (g : Group) => (t.sessionOf g).elim false fun x => x.sid == sid
  let busy := (s.pairs.filter fun p => p.sid == sid && s.pairBusy p)
  let s1 : State := { s with sessions := mapIf (fun x => x.sid == sid) (fun x => { x with revoked := true }) s.sessions }
  let s2 := busy.foldl (fun t p =>
    let hit := fun (g : Group) => mine t g && g.team.index == p.team && !g.team.origin && g.gidx == p.gidx
    let larger := ((t.groups ++ t.savedGroups).filter hit).foldl (fun (m : Word) g => let n := t.largerSeq g; if m.ult n then n else m) 0#64
    let t1 := t.setPair ((p.abort 0).abort 1)
    let alone := ((t.groups ++ t.savedGroups).filter hit).filter fun g => (t.peerAny g).isNone
    let t1 := alone.foldl (fun t g => t.farAbort g larger) t1
    let t2 := (t.groups.filter hit).foldl (fun t g => t.abortSide g.core g.slot larger) t1
    t2.modSaved hit fun g => t2.abortGroup g larger) s1
  let off := fun (g : Group) => { g with sessValid := false }
  ({ s2 with groups := mapIf (mine s2) off s2.groups }.modSaved (mine s2) off).freeSessions

/-- What a valid request block does (R322): sD and the state after. -/
def State.sessDo (s : State) (part : Nat) (r : SessReq) : Word × State :=
  if r.op = 1 then
    let (v, l) := s.sessOpen part r
    (v, { s with sessions := l })
  else
    match s.sessions.find? fun x => x.sid == r.sid && x.opened && !x.revoked && (x.part0 == some part || x.part1 == some part) with
    | some x => (BitVec.ofNat 64 (x.sid + 1), s.revoke x.sid)
    | none => (0x200#64, s)

/-- The request of a `gsess` word (R321): a 64-byte aligned load of its block. -/
def Ctx.sessSpec (x : Ctx) (i : Instr) (d a : BitVec 6) : MemSpec :=
  ⟨.gsess, .load, true, 64, true, d.toNat, false, false, [⟨0, x.s a, wordOf i, 0#64⟩]⟩

/-- gsess (R321, R322): a block on a page that faults waits in the operand log, and acts when LOAD_RESPONSE returns it. -/
def execGsess (st : BitVec 3) (d a : BitVec 6) (s : State) : Out :=
  let i := Instr.gsess st d a
  issue i s (fun x t =>
      let m := x.sessSpec i d a
      if x.behindWrite t m then .hold else x.memPre t m 0) fun x t =>
    let m := x.sessSpec i d a
    let (p, t1) := x.plan t m
    match p.fault with
    | some (c, v, _) => .trap c v none
    | none =>
      match p.lanes with
      | [l] =>
        if l.st = .waiting then
          let (bs, t2) := readPas t1 l.pas l.ext
          match sessReq x.g.part bs with
          | none => .trap .illegal (wordOf i) none
          | some r =>
            let (v, t3) := t2.sessDo x.g.part r
            x.upd t3 fun g => g.putS x d 0 v
        else x.sendRequest t1 m (x.request t1 m p.lanes) p.page
      | _ => .done t1

/-- LOAD_RESPONSE (R232, R238, R239, R251): waiting lanes that nothing older holds read memory, those that the response names, an unaligned one
the bytes that it names; the lanes performed are written. -/
def execLoadResponse (core slot : Nat) (req : LoadPart) (s : State) : Out :=
  onGroup s core slot fun g =>
    match g.req? req.req with
    | none => s
    | some r =>
      match r.kind with
      | .load | .tagld =>
        let (r1, s1) := s.performLoad g (s.isDet g) r (fun l => req.lanes.getLsbD l.lane && !s.blocks g r l) (req.bytes.setWidth 64)
        s1.setGroup (g.respond r1)
      | .window | .peerLoad _ => s.setGroup (g.respond r)
      | .gsess =>
        match r.lanes with
        | [l] =>
          if l.st ≠ .waiting then (if r.performed then s.setGroup (g.respond r) else s)
          else if s.blocks g r l then s
          else
            let (bs, s1) := readPas s l.pas l.ext
            match sessReq g.part bs with
            | none => s1.setGroup ((g.dropReq req.req).deferLanes r .illegal [(l.data, l.lane)])
            | some q =>
              let (v, s2) := s1.sessDo g.part q
              s2.modGroup core slot fun g => g.respond { r with lanes := [{ l with st := .performed, res := v }] }
        | _ => s
      | _ => s

end Sys2Proof.Machine
end

