-- ==== Sys2Proof/Machine/Placement.lean ====
section
/-! DEFINITION. Machine/Placement.lean: launch records and their checks (R355, R356), room on cores (R20, R362, R364,
R386), the start of a group and of a team (R72, R73, R79, R372). -/

namespace Sys2Proof.Machine

/-- A little-endian field of a block of bytes. -/
def fieldAt (bs : List Byte) (at' n : Nat) : Nat := leValue ((bs.drop at').take n)

/-- The cluster shape of a code (R355); code 3 names none. -/
def shapeOfCode (c : Nat) : Nat := if c = 1 then 2 else if c = 2 then 4 else 1

/-- Read the fields of a launch record (R355). -/
def readRecord (bs : List Byte) : LaunchRec :=
  let u := fieldAt bs
  let flags := u 55 1
  let tok := fun (i : Nat) => ((BitVec.ofNat 64 (u (176 + 16 * i) 8), BitVec.ofNat 64 (u (184 + 16 * i) 8)) : Word × Word)
  { lid := BitVec.ofNat 32 (u 0 4), entry := BitVec.ofNat 64 (u 8 8), args := BitVec.ofNat 64 (u 16 8),
    land := BitVec.ofNat 64 (u 24 8), save := BitVec.ofNat 64 (u 32 8), gx := u 40 2, gy := u 42 2, gz := u 44 2,
    groups := u 46 1 % 32 + 1, shape := shapeOfCode (u 46 1 / 32 % 4), vregs := u 47 1, pool := BitVec.ofNat 32 (u 48 4),
    accs := u 52 1 % 16, tiles := u 52 1 / 16 * 16384, prod := u 53 1 % 32, prio := u 54 1 % 4, idem := natBit flags 0,
    det := natBit flags 1, cores := natBit flags 2, sess := natBit flags 3, inj := natBit flags 4, qlog := u 56 1 % 32,
    sid := u 57 1 % 32, waits := (List.range (min 4 (u 58 1 % 8))).map tok,
    signal := if natBit (u 58 1) 3 then some (tok 4) else none, scratch := u 60 4, ibud := u 64 6, mbud := u 72 6,
    ires := u 80 2, mres := u 82 2, topr := natBit (u 84 1) 0, ipool := u 88 4, mpool := u 92 4,
    roles := BitVec.ofNat 128 (u 96 16), etab := (List.range 16).map fun i => BitVec.ofNat 32 (u (112 + 4 * i) 4) }

/-- Granules of each region (R78): register, scratchpad, accumulator. -/
def LaunchRec.regions (r : LaunchRec) : Nat × Nat × Nat :=
  (r.pool.toNat % 32, r.pool.toNat / 32 % 32, r.pool.toNat / 1024 % 32)

/-- A team's granules (R20, R78). -/
def LaunchRec.granules (r : LaunchRec) : Nat := r.regions.1 + r.regions.2.1 + r.regions.2.2

/-- The pool partition word is valid (R79). -/
def LaunchRec.poolOk (r : LaunchRec) : Bool :=
  let (reg, scr, acc) := r.regions
  decide (r.pool.toNat < 2 ^ 15) && decide (reg ≥ 1) && decide (r.granules ≤ 16) &&
    decide (reg * 65536 ≥ r.groups * (r.vregs * 256 + r.tiles)) && decide (scr * 65536 ≥ r.scratch) &&
    decide (acc * 65536 ≥ r.groups * r.accs * 16384)

/-- Entry i of a record is present (R355). -/
def LaunchRec.hasEntry (r : LaunchRec) (i : Nat) : Bool := r.etab.getD i 0xFFFFFFFF#32 != 0xFFFFFFFF#32

/-- The address of entry i (R355). -/
def LaunchRec.entryAddr (r : LaunchRec) (i : Nat) : Word := r.entry + 4#64 * (r.etab.getD i 0#32).setWidth 64

/-- The grant of a launch (R368): units and sectors. -/
def LaunchRec.grant (r : LaunchRec) : Nat × Nat :=
  (r.teams * (r.groups * r.ibud + r.ipool), r.teams * (r.groups * r.mbud + r.mpool))

/-- A used token address is valid (R356). -/
def tokenOk (t : Word × Word) : Bool := t.1.toNat % 8 == 0 && field t.1 59 55 == 0

/-- The bits of a record that must be 0 are 0 (R355). -/
def zeroFields (bs : List Byte) : Bool :=
  let u := fieldAt bs
  u 4 4 == 0 && u 46 1 / 128 == 0 && u 53 1 / 32 == 0 && u 54 1 / 4 == 0 && u 55 1 / 32 == 0 && u 56 1 / 32 == 0 &&
    u 57 1 / 32 == 0 && u 58 1 / 16 == 0 && u 59 1 == 0 && u 70 2 == 0 && u 78 2 == 0 && u 84 1 / 2 == 0 && u 85 3 == 0

/-- The fields of a record lie in their ranges (R71, R97, R355). -/
def LaunchRec.inRange (bs : List Byte) (r : LaunchRec) : Bool :=
  let u := fieldAt bs
  decide (1 ≤ r.gx) && decide (1 ≤ r.gy) && decide (1 ≤ r.gz) && decide (u 46 1 / 32 % 4 ≠ 3) && decide (r.teams % r.shape = 0) &&
    decide (16 ≤ r.vregs) && decide (r.vregs ≤ 64) && decide (r.vregs % 8 = 0) && decide (r.accs ≤ 8) && decide (r.tiles ≤ 131072) &&
    decide (r.prod < r.groups) && (if r.det then decide (6 ≤ r.qlog) && decide (r.qlog ≤ 16) else r.qlog == 0) &&
    (r.sess || r.sid == 0) && decide (u 58 1 % 8 ≤ 4) && decide (r.scratch % 16 = 0) && decide (r.scratch ≤ 1048576) &&
    decide (16 ≤ r.ires) && decide (r.ires ≤ 1024) && decide (16 ≤ r.mres) && decide (r.mres ≤ 1024) &&
    decide (r.roles.toNat < 2 ^ (4 * r.groups)) && decide (r.teams ≤ 2 ^ 32 - 1)

/-- The cores of a partition on a die (R16, R435). -/
def Partition.coresOn (p : Partition) (die : Nat) : List Nat :=
  (p.clusters.filter fun k => k / 60 == die).flatMap fun k => (List.range 4).map (4 * k + ·)

/-- Teams of a record that an empty core takes, with the pegs a deterministic one keeps (R362, R386). -/
def LaunchRec.perCore (r : LaunchRec) : Nat :=
  min (min Config.teamSlots (Config.groupSlots / r.groups)) (min (Config.granules / max 1 r.granules) (Config.teamPegs / 8))

/-- The grid of a deterministic launch fits the empty cores of a partition on a die (R386). -/
def Partition.detFits (p : Partition) (r : LaunchRec) (die : Nat) : Bool :=
  let n := (p.clusters.filter fun k => k / 60 == die).length
  if r.shape = 1 then decide (r.teams ≤ 4 * n * r.perCore) else decide (r.teams / r.shape ≤ n * r.perCore)

/-- Free granules of a core (R20). -/
def State.freeGranules (s : State) (core : Nat) : Nat :=
  (s.teams.filter fun t => t.core == core).foldl (fun n t => n - t.granules) Config.granules

/-- Free granules of a partition's cores on a die. -/
def State.dieGranules (s : State) (p : Partition) (die : Nat) : Nat :=
  ((p.coresOn die).map s.freeGranules).foldl (· + ·) 0

/-- The compute dies of a partition. -/
def Partition.dies (p : Partition) : List Nat := (List.range 4).filter fun d => p.clusters.any fun k => k / 60 == d

/-- The die with the most free granules among some, the lowest of equals (R364). -/
def State.roomiest (s : State) (p : Partition) (dies : List Nat) : Nat :=
  dies.foldl (fun b d => if s.dieGranules p d > s.dieGranules p b then d else b) (dies.headD 0)

/-- The home die of a launch accepted now (R364). -/
def State.homeDie (s : State) (p : Partition) : Nat := s.roomiest p p.dies

/-- A partition is in an open session (R327). -/
def State.inSession (s : State) (part sid : Nat) : Bool :=
  s.sessions.any fun x => x.sid == sid && x.opened && !x.revoked && (x.part0 == some part || x.part1 == some part)

/-- The checks of a record (R356). -/
def State.recordOk (s : State) (part : Nat) (bs : List Byte) : Bool :=
  let r := readRecord bs
  let (u, m) := r.grant
  zeroFields bs && r.inRange bs && r.poolOk && r.hasEntry 0 &&
    ((List.range 16).all fun i => !r.hasEntry i || decide (r.entry.toNat + 4 * (r.etab.getD i 0#32).toNat < 2 ^ 55)) &&
    !(r.det && r.sess) && (!r.sess || s.inSession part r.sid) && r.waits.all tokenOk && r.signal.all tokenOk &&
    decide (u < 2 ^ 48) && decide (m < 2 ^ 48) &&
    (!r.det || (s.part? part).elim false fun p => p.detFits r (s.homeDie p))

/-- The free group slots of a core (R18), in increasing order. -/
def State.freeSlots (s : State) (core : Nat) : List Nat :=
  (List.range Config.groupSlots).filter fun k => (s.group? core k).isNone

/-- A core in service has room for a team (R362): slots for its groups, a team slot, granules. -/
def State.fitsCore (s : State) (core groups granules : Nat) : Bool :=
  !s.frozen.contains core && decide (groups ≤ (s.freeSlots core).length) &&
    decide ((s.teams.filter fun t => t.core == core).length < Config.teamSlots) && decide (granules ≤ s.freeGranules core)

/-- A fragment that is free. -/
def blankFrag : Frag :=
  { mask := 0#64, pc := 0#64, state := .free, seam := none, s := Vector.replicate 64 0#64, hints := [], pend := [], nextIssue := 0,
    lastIssue := 0, parkedAt := 0, wait := .none, fetchRec := none, heldTrap := none, heldLand := false, paid := none }

/-- No batch (R171). -/
def blankBatches : Batches := ⟨0#32, 0#32, [], 0, false⟩

/-- A group of which everything that R72 does not list reads zero, with the reset values of R92, R94 and R95. -/
def blankGroup : Group :=
  { part := 0, team := ⟨0, 0, false⟩, gidx := 0, core := 0, slot := 0, seq := 0#16, cuttings := 0
    frags := Vector.replicate 4 blankFrag, stack := [], seamCount := 0#8, k := Vector.replicate 16 0#64
    v := Vector.replicate 64 (Vector.replicate 64 0#32), valloc := 0, tiles := Vector.replicate 8 []
    tc := Vector.replicate 8 ⟨1, 3#2, 1⟩, accs := Vector.replicate 8 [], binds := Vector.replicate 8 []
    b := Vector.replicate 16 0#128, slots := Vector.replicate 8 none, evm := 0#8, evinfo := 0#64, mailbox := []
    ibud := 0, mbud := 0, landing := ⟨0#64, 0#64, false, false, 0#2, 0#2, false, 16, 16⟩
    trap := ⟨0#64, 0#32, 0#2, false, false, 0#8, 0#64, 0#64⟩, fflags := 0#6, flagsAt := 0, rm := 1#3, ftz := false, privl := false
    lchk := true, uchk := true, icnt := 0, retired := 0, draws := Vector.replicate 64 0#32, sessValid := false
    injArm := false, injKind := 0#2, injAfter := 0#16, injCount := 0, qround := 0#32, qcnt := 0, atRound := 0#8
    vmarks := Vector.replicate 64 .none, tmarks := Vector.replicate 8 .none, cursor := none, drawn := [], gateSeq := 0#64
    skip := none, lost := [], bc := blankBatches, bm := blankBatches, bg := blankBatches, reqs := [], copies := [], gates := [], tlds := [], orphans := []
    lastMma := 0#64, deferred := [], deferHeld := false, groupHeld := none, stopped := none, halted := false, ending := false, clampPend := false, clampAt := none
    sliceAt := 0, boost := 0, readyAt := 0, lastIssue := 0, lastCls := 0, yielded := false, stopAt := 0, haltAt := 0
    saving := false, drain := none, saves := [], parkCut := none, staged := [], commit := none, qdone := false, aside := none }

/-- The lanes of cuttings: word `i` of each (R372). -/
def payloadLanes (cuts : List Cutting) (i : Nat) : Lanes :=
  let m : SMap 32 := ssetAll [] ((List.range cuts.length).map fun l => (l, (cuts[l]?).elim 0#32 fun c => c.payload.getD i 0#32))
  Vector.ofFn fun l => sget m l.val

/-- A launch's slice timer from now (R365): 0 stands for no timer, which a supervisor group never has (R439). -/
def State.sliceEnd (s : State) (l : Launch) : Nat :=
  match s.part? l.part with
  | some p => if p.slice = 0 ∨ l.super then 0 else s.clock + p.slice
  | none => 0

/-- A group at its start (R72, R90, R126 to R129, R372, R399, R439). -/
def State.newGroup (s : State) (l : Launch) (key : TeamKey) (cuts : List Cutting) (gidx core slot : Nat) : Group :=
  let r := l.record
  let grid := !key.origin
  let ent := if grid then 0 else (cuts.head?).elim 0 (·.ent)
  let mask : Mask := if grid then BitVec.allOnes 64 else maskOf (List.range (min 64 cuts.length))
  let f : Frag := { blankFrag with
    mask := mask, pc := r.entryAddr ent, state := .ready, s := blankFrag.s.set 1 r.args, nextIssue := s.clock }
  let sum := fun (f : Cutting → Nat) => (cuts.map f).foldl (· + ·) 0
  { blankGroup with
    part := l.part, team := key, gidx := gidx, core := core, slot := slot, seq := s.nextSeq, cuttings := if grid then 1 else cuts.length
    frags := blankGroup.frags.set 0 f
    v := if grid then blankGroup.v else Vector.ofFn fun n => if n.val < 12 then payloadLanes cuts n.val else Vector.replicate 64 0#32
    valloc := r.vregs
    ibud := if grid then r.ibud else sum (·.igrant)
    mbud := if grid then r.mbud else sum (·.mgrant)
    landing := ⟨r.land &&& 0x007FFFFFFFFFFFFC#64, 0#64, false, false, 0#2, 0#2, r.topr, r.mres, r.ires⟩
    trap := { blankGroup.trap with tdeliver := ((s.part? l.part).elim 0#32 (·.tdef)) &&& inGroupMask }
    privl := l.super
    sessValid := r.sess && s.inSession l.part r.sid
    qround := BitVec.ofNat 32 l.round
    sliceAt := s.sliceEnd l
    readyAt := s.clock }

/-- The number that a role's stream still has to move to (R344). -/
def Pair.late (p : Pair) (role : Nat) : Option Word := if role = 0 then p.late0 else p.late1

/-- A group of the role starts, and its stream takes the move over. -/
def Pair.takeLate (p : Pair) (role : Nat) : Pair := if role = 0 then { p with late0 := none } else { p with late1 := none }

/-- A group that starts takes over a move of its stream that an abort has left (R344 step 4). -/
def State.withSkip (s : State) (g : Group) (late : Option Word) : State :=
  s.modGroup g.core g.slot fun h => { h with skip := late.map fun n => ⟨n, none, []⟩ }

/-- A group of a bound launch joins its pair (R327, R332): a pair of two ended groups gives way to a fresh one,
which keeps a stream entry that could not be written (R328) and a move of its stream that waits (R344). (DEDUCED, log 46) -/
def State.joinPair (s : State) (g : Group) : State :=
  match s.sessionOf g with
  | none => s
  | some x =>
    let role := x.role g.part
    let same := fun (p : Pair) => p.sid == x.sid && p.team == g.team.index && p.gidx == g.gidx
    match s.pairs.find? same with
    | some p =>
      if p.ended0 ∧ p.ended1 then
        let q : Pair := ⟨x.sid, g.team.index, g.gidx, [], [], [], [], 0, 0, [], [], p.late0, p.late1, p.bad0, p.bad1, false, false⟩
        { s with pairs := (s.pairs.filter fun q => !same q) ++ [q.takeLate role] }.withSkip g (q.late role)
      else { s with pairs := mapIf same (fun q => (q.setEnded role false).takeLate role) s.pairs }.withSkip g (p.late role)
    | none => { s with pairs := s.pairs ++ [⟨x.sid, g.team.index, g.gidx, [], [], [], [], 0, 0, [], [], none, none, false, false, false, false⟩] }

/-- Start a group of a team in the lowest free slot of its core. -/
def State.startGroup (s : State) (l : Launch) (key : TeamKey) (cuts : List Cutting) (core gidx : Nat) : State :=
  let g := s.newGroup l key cuts gidx core ((s.freeSlots core).headD 0)
  let s1 : State := { s with groups := s.groups ++ [g], nextSeq := s.nextSeq + 1#16 }
  if l.record.sess ∧ !key.origin then s1.joinPair g else s1

/-- Start a fresh team on a core (R72, R73, R362): its window and its groups' registers are zero, its groups take the
slots in increasing index order (R381). -/
def State.startTeam (s : State) (l : Launch) (key : TeamKey) (cuts : List Cutting) (relaunch : Bool) (core pos : Nat) : State :=
  let r := l.record
  let n := if key.origin then 1 else r.groups
  let t : Team :=
    { key := key, part := l.part, core := core, pos := pos, shape := if key.origin then 1 else r.shape, groups := n, ended := 0,
      scratch := r.scratch, window := [], ltags := [], ipool := if key.origin then 0 else r.ipool,
      mpool := if key.origin then 0 else r.mpool, vfree := 0, granules := r.granules, relaunched := relaunch,
      migrating := false, saving := none, saveRec := none, saveBad := false }
  (List.range n).foldl (fun s i => s.startGroup l key cuts core i) { s with teams := s.teams ++ [t] }

/-- A cutting forms a group of its own launch: the serial number goes up (R192, R372). -/
def State.takeSerial (s : State) (uid : Nat) : TeamKey × State :=
  let n := (s.launch? uid).elim 0 (·.serial)
  (⟨uid, n, true⟩, s.modLaunch uid fun l => { l with serial := l.serial + 1 })

/-- The nursery of a die forms a group from cuttings (R371): it waits for room at its launch's rank. -/
def State.formGroup (s : State) (die uid : Nat) (cuts : List Cutting) : State :=
  let (key, s1) := s.takeSerial uid
  s1.modLaunch uid fun l => { l with waiting := l.waiting ++ [⟨key, cuts, s.clock, false, false, some die, none, none, false⟩] }

/-- A nursery has room for a cutting (R371). (DEDUCED, log 44) -/
def State.nurseryRoom (s : State) (die uid : Nat) (c : Cutting) : Bool :=
  let mine := s.bins.filter fun b => b.die == die
  let held := mine.foldl (fun (n : Nat) b => n + b.cuts.length) 0
  decide (held < 4096) && (c.solo || (mine.any fun b => b.uid == uid && b.entry == c.ent) || decide (mine.length < 64))

/-- A cutting enters a nursery (R371): a bin of 64 forms a group at once, and so does a SOLO cutting. -/
def State.nurseryAdd (s : State) (die uid : Nat) (c : Cutting) : State :=
  let mine := fun (b : Bin) => b.die == die && b.uid == uid && b.entry == c.ent
  if c.solo then s.formGroup die uid [c]
  else
    let cuts := ((s.bins.find? mine).elim [] (·.cuts)) ++ [c]
    let rest := s.bins.filter fun b => !mine b
    if cuts.length ≥ 64 then { s with bins := rest }.formGroup die uid cuts
    else { s with bins := rest ++ [⟨die, uid, c.ent, cuts, s.clock⟩] }

/-- A launch's job counter goes up by an accepted cutting, and its counts of requests sent and received (R374, R375). -/
def State.countJob (s : State) (uid : Nat) : State :=
  s.modLaunch uid fun l => { l with jobs := l.jobs + 1, sent := l.sent + 1, received := l.received + 1 }

/-- A core has room for the team of one group that `spawn` starts (R373). -/
def State.spawnRoom (s : State) (core : Nat) (r : LaunchRec) : Bool := s.fitsCore core 1 r.granules

/-- `spawn` starts a group of one lane on the same core (R373). -/
def State.spawnGroup (s : State) (core uid : Nat) (c : Cutting) : State :=
  let (key, s1) := s.takeSerial uid
  match s1.launch? uid with
  | some l => s1.startTeam l key [c] false core 0
  | none => s1

end Sys2Proof.Machine
end

