-- ==== Sys2Proof/Machine/DispatchWords.lean ====
section
/-! DEFINITION. Machine/DispatchWords.lean: launch, emit, spawn and yield (R142 to R145, R367 to R373, R385). -/

namespace Sys2Proof.Machine

/-- What a dispatcher word finds where it reads a record or a cutting. -/
inductive Block where
  | ok (bs : List Byte) (sectors : Nat)
  | trap (c : Cause) (addr : Word)
  | page (addr : Word)
  | hold
  deriving DecidableEq, Repr

/-- Read global bytes as a load of the group before the word is charged (R218, R368), behind the group's own older writes (R230,
R258); a word that has waited as a release has read them. (DEDUCED, log 45) -/
def Ctx.readGlobal (x : Ctx) (s : State) (ea : Word) (n : Nat) : Block × State :=
  let m := plainSpec .load .load n true 0 [⟨0, ea, 0#64, 0#64⟩]
  match x.f.paid with
  | some (_, _, bs) => (.ok bs 0, s)
  | none =>
    let (p, t) := x.plan s m
    match p.fault, p.page, p.lanes with
    | some (c, a, _), _, _ => (.trap c a, t)
    | none, some (a, _), _ => (.page a, t)
    | none, none, l :: _ =>
      if l.st ≠ .waiting ∨ x.behindWrite s m then (.hold, t)
      else
        let (bs, t1) := readPas t l.pas l.ext
        let bs := if t1.isDet x.g then x.g.overlay t1.nextReq t1.mem ea l.pas bs else bs
        (.ok bs (sectorsOf false n [⟨0, ea, 0#64, 0#64⟩]), t1)
    | none, none, [] => (.hold, t)

/-- The group is held at the word until the PAGE record of its read is resolved (R368, R407). -/
def Ctx.pageHold (x : Ctx) (s : State) (a : Word) : State :=
  let entry := (s.freeEntry x.core true).getD 0
  let r := { s.mkRec x.g x.fid .page a x.f.mask x.f.mask x.unit with info := BitVec.ofNat 64 (entry * 256) }
  let (t, s1) := s.raiseReplay (dieOf x.core) r
  s1.modGroup x.core x.slot fun g => g.mapFrags fun _ f => if f.live then { f with fetchRec := some t } else f

/-- A word that has read its block pays, and waits as a release for its group's older accesses (R253, R368, R370, R373). -/
def Ctx.releasePre (x : Ctx) (s : State) (block : List Byte) (units sectors : Nat) : Pre :=
  match s.group? x.core x.slot with
  | none => .hold
  | some g => x.stagePre s [] 1 (if g.quiet then .go units sectors else .pay units sectors block)

/-- The same of a `yield`, which waits uncharged (R142). -/
def Pre.unpaid : Pre → Pre
  | .pay .. => .hold
  | p => p

/-- Younger memory words wait for an acquire (R253). -/
def Ctx.acquiring (x : Ctx) (s : State) : Bool := (s.group? x.core x.slot).elim true fun g => g.orderHeld false

/-- Give a grant back (R145). -/
def Group.refund (g : Group) (units sectors : Nat) : Group := { g with ibud := g.ibud + units, mbud := g.mbud + sectors }

/-- The class of a child launch (R368). -/
def State.childClass (s : State) (g : Group) (r : LaunchRec) : Nat := min r.prio ((s.launch? g.team.uid).elim 0 (·.cls))

/-- launch (R368, R385). -/
def execLaunch (st : BitVec 3) (d a : BitVec 6) (s : State) : Out :=
  issue (.launch st d a) s
    (fun x t =>
      let ea := x.s a
      if x.acquiring t then .hold
      else if ea.toNat % 8 ≠ 0 then .trap .align ea none
      else
        match x.readGlobal t ea 256 with
        | (.trap c v, _) => .trap c v none
        | (.hold, _) => .hold
        | (.page v, t1) => .stop (x.pageHold t1 v)
        | (.ok bs n, _) =>
          if x.f.paid.isSome || t.recordOk x.g.part bs then
            let (u, m) := (readRecord bs).grant
            x.releasePre t bs u (n + m)
          else .go 0 n)
    fun x t =>
      match x.readGlobal t (x.s a) 256 with
      | (.ok bs _, t1) =>
        let r := readRecord bs
        let (u, m) := r.grant
        let cls := t1.childClass x.g r
        if !(x.f.paid.isSome || t1.recordOk x.g.part bs) then x.upd t1 fun g => g.putS x d 0 2#64
        else if t1.isDet x.g then x.upd t1 fun g => { g with staged := g.staged ++ [Staged.record r cls] }.putS x d 0 1#64
        else
          match t1.part? x.g.part with
          | none => .done t1
          | some p =>
            if p.devQ.length ≥ Config.deviceQueue then x.upd t1 fun g => (g.refund u m).putS x d 0 0#64
            else
              let t2 := t1.modPart x.g.part fun p => { p with devQ := p.devQ ++ [(r, cls)] }
              x.upd t2 fun g => g.putS x d 0 1#64
      | (_, t1) => .done t1

/-- Read a cutting operand (R369): its block, in the window or in global memory. -/
def Ctx.readCutting (x : Ctx) (s : State) (v : Word) : Block × State :=
  let window := field v 63 60 = 0 ∧ v.getLsbD 59 ∧ field v 58 32 = 0
  let off := field v 31 0
  if ¬window ∧ field v 59 55 ≠ 0 then (.trap .addr v, s)
  else if v.toNat % 8 ≠ 0 then (.trap .align (if window then BitVec.ofNat 64 off else v), s)
  else if window then
    match s.team? x.g.team with
    | some t =>
      match x.f.paid with
      | some (_, _, bs) => (.ok bs 0, s)
      | none => if off + 64 > t.scratch then (.trap .scratch (BitVec.ofNat 64 off), s) else (.ok (readBytes t.window off 64) 0, s)
    | none => (.hold, s)
  else x.readGlobal s v 64

/-- The cutting of a block (R369), its entry replaced (R373); none for a reserved bit or an absent entry. -/
def cuttingOf (r : LaunchRec) (bs : List Byte) (entry : Option Nat) : Option Cutting :=
  let u := fieldAt bs
  let e := entry.getD (u 0 1 % 16)
  if u 0 1 / 32 ≠ 0 ∨ u 1 7 ≠ 0 ∨ !r.hasEntry e then none
  else some ⟨e, natBit (u 0 1) 4, u 8 4, u 12 4, (List.range 12).map fun i => BitVec.ofNat 32 (u (16 + 4 * i) 4)⟩

/-- A cutting in the window is read after the group's reads of tile images under way (R258, R298). -/
def Ctx.cuttingWaits (x : Ctx) (v : Word) : Bool := field v 63 60 == 0 && v.getLsbD 59 && !x.g.tlds.isEmpty

/-- Before a word that sends a cutting is charged (R370, R373). -/
def Ctx.cuttingPre (x : Ctx) (s : State) (v w : Word) (entry : Option Nat)
    (pre : Cutting → List Byte → Nat → Pre) : Pre :=
  if x.acquiring s ∨ x.cuttingWaits v then .hold
  else
    match x.readCutting s v with
    | (.trap c a, _) => .trap c a none
    | (.hold, _) => .hold
    | (.page a, t) => .stop (x.pageHold t a)
    | (.ok bs n, _) =>
      match (s.recordOf x.g).bind fun r => cuttingOf r bs entry with
      | none => .trap .illegal w none
      | some c => pre c bs n

/-- The effect of a word that sends a cutting: read it again, in the state after the charge. -/
def Ctx.withCutting (x : Ctx) (s : State) (v : Word) (entry : Option Nat) (eff : Cutting → State → Res) : Res :=
  match x.readCutting s v with
  | (.ok bs _, t) =>
    match (t.recordOf x.g).bind fun r => cuttingOf r bs entry with
    | some c => eff c t
    | none => .done t
  | (_, t) => .done t

/-- emit (R370, R385). -/
def execEmit (st : BitVec 3) (d a : BitVec 6) (s : State) : Out :=
  let i := Instr.emit st d a
  issue i s
    (fun x t => x.cuttingPre t (x.s a) (wordOf i) none fun c bs n => x.releasePre t bs c.igrant (n + c.mgrant))
    fun x t => x.withCutting t (x.s a) none fun c t =>
      let uid := x.g.team.uid
      if t.isDet x.g then x.upd (t.countJob uid) fun g => { g with staged := g.staged ++ [Staged.cutting c false] }.putS x d 0 1#64
      else if !t.nurseryRoom (dieOf x.core) uid c then x.upd t fun g => (g.refund c.igrant c.mgrant).putS x d 0 0#64
      else x.upd ((t.countJob uid).nurseryAdd (dieOf x.core) uid c) fun g => g.putS x d 0 1#64

/-- spawn (R373, R385). -/
def execSpawn (st : BitVec 3) (d a b : BitVec 6) (s : State) : Out :=
  let i := Instr.spawn st d a b
  issue i s
    (fun x t => x.cuttingPre t (x.s b) (wordOf i) (some (field (x.s a) 3 0)) fun c bs n =>
      if field (x.s a) 63 4 ≠ 0 then .trap .illegal (wordOf i) none else x.releasePre t bs c.igrant (n + c.mgrant))
    fun x t => x.withCutting t (x.s b) (some (field (x.s a) 3 0)) fun c t =>
      let uid := x.g.team.uid
      if t.isDet x.g then x.upd (t.countJob uid) fun g => { g with staged := g.staged ++ [Staged.cutting c true] }.putS x d 0 1#64
      else if !((t.recordOf x.g).elim false fun r => t.spawnRoom x.core r) then
        x.upd t fun g => (g.refund c.igrant c.mgrant).putS x d 0 0#64
      else x.upd ((t.countJob uid).spawnGroup x.core uid c) fun g => g.putS x d 0 1#64

/-- The grant of a cutting limited to the budgets left after the `yield` charge (R142). -/
def Cutting.clip (c : Cutting) (units sectors : Nat) : Cutting := { c with igrant := min c.igrant units, mgrant := min c.mgrant sectors }

/-- A cutting that `yield` sends finds room in the nursery or, at its entry, on the same core (R142). -/
def State.yieldRoom (s : State) (core uid : Nat) (c : Cutting) : Bool :=
  s.nurseryRoom (dieOf core) uid c || (s.launch? uid).elim false fun l => s.spawnRoom core l.record

/-- Send the cutting of a `yield` (R142, R374). -/
def State.yieldSend (s : State) (core uid : Nat) (c : Cutting) : State :=
  let s1 := s.countJob uid
  if s.nurseryRoom (dieOf core) uid c then s1.nurseryAdd (dieOf core) uid c else s1.spawnGroup core uid c

/-- Every fragment of a group ends, the parked ones with their references to pegs (R142, R165). -/
def State.endGroup (s : State) (core slot : Nat) : State :=
  ((List.range 4).foldl (fun s f => s.leaveWait core slot f) s).modGroup core slot Group.endAll

/-- yield (R142): the group ends once its cutting is accepted; until then it parks at the word, uncharged. -/
def execYield (st : BitVec 3) (a : BitVec 6) (s : State) : Out :=
  let i := Instr.yield st a
  issue i s
    (fun x t =>
      if x.s a = 0#64 then .go 0 0
      else x.cuttingPre t (x.s a) (wordOf i) none fun c bs n =>
        match (x.releasePre t bs 0 n).unpaid with
        | .go _ _ =>
          if t.isDet x.g ∨ x.g.ibud < 1 ∨ x.g.mbud < n ∨ t.yieldRoom x.core x.g.team.uid c then .go 0 n
          else .stop (t.modGroup x.core x.slot fun g => { g with parkCut := some (x.fid, c, n) })
        | p => p)
    fun x t =>
      if x.s a = 0#64 then .done (t.endGroup x.core x.slot)
      else x.withCutting t (x.s a) none fun c t =>
        match t.group? x.core x.slot with
        | none => .done t
        | some g =>
          let c1 := c.clip g.ibud g.mbud
          let uid := x.g.team.uid
          let t1 := t.modGroup x.core x.slot fun g => { g with ibud := g.ibud - c1.igrant, mbud := g.mbud - c1.mgrant }
          if t.isDet x.g then .done (((t1.countJob uid).modGroup x.core x.slot fun g =>
            { g with staged := g.staged ++ [Staged.yielded c1] }).endGroup x.core x.slot)
          else .done ((t1.yieldSend x.core uid c1).endGroup x.core x.slot)

end Sys2Proof.Machine
end

