-- ==== Sys2Proof/Machine/Save.lean ====
section
/-! DEFINITION. Machine/Save.lean: team images (R412 to R414), the end of a group and of a team (R115, R163, R374, R411),
saving a team (R410) and restoring it (R411). -/

namespace Sys2Proof.Machine

/-- STATE of a split-table entry (R80). -/
def FState.code : FState → Nat
  | .free => 0
  | .ready => 1
  | .atJoin => 2
  | .inWany => 3
  | .inPegwait => 4
  | .held => 5
  | .inWaitb => 6

/-- A split-table entry (R80). -/
def Frag.entryBytes (f : Frag) : List Byte :=
  let seam := match f.seam with
    | some p => 8 + p % 8
    | none => 0
  leBytes 8 (f.pc.toNat % 2 ^ 55 * 2 ^ 9 + f.state.code * 2 ^ 6 + seam) ++ leBytes 8 f.mask.toNat

/-- A join-stack entry (R85). -/
def StackEntry.bytes (e : StackEntry) : List Byte :=
  leBytes 8 ((if e.isTrap then 2 else 1) * 2 ^ 62 + e.frag % 4 * 2 ^ 60 + e.id.toNat * 2 ^ 48) ++
    leBytes 8 e.addr.toNat ++ leBytes 8 e.mask.toNat

/-- A context in which a group's special registers are read for its image at a cycle (R91, R413). -/
def Group.imageCtx (g : Group) (now : Nat) : Ctx := ⟨g.core, g.slot, 0, g, g.frag 0, [], 0#64, 0#64, 0#64, now⟩

/-- The bytes of a group image whose layout R413 states: offset and bytes. The words of a tile and of an accumulator stand
in the order of R293 and R294 (DESIGN CHOICE, log 10). -/
def State.groupImage (s : State) (g : Group) (r : LaunchRec) : List (Nat × List Byte) :=
  [(0x0040, (List.range 4).flatMap fun i => (g.frag i).entryBytes),
   (0x0080, g.stack.flatMap StackEntry.bytes ++ List.replicate (192 - 24 * g.stack.length) 0#8),
   (0x0140, ((List.range 15).flatMap fun i => leBytes 8 (g.k[(i + 1) % 16]'(Nat.mod_lt _ (by decide))).toNat) ++ List.replicate 8 0#8),
   (0x01C0, (List.range 64).flatMap fun n => leBytes 8 (s.special (g.imageCtx s.clock) g (BitVec.ofNat 6 n)).toNat),
   (0x03C0, (List.range 16).flatMap fun i => leBytes 16 (g.b[i % 16]'(Nat.mod_lt _ (by decide))).toNat),
   (0x0600, (List.range 64).flatMap fun i => leBytes 4 (g.draws[i % 64]'(Nat.mod_lt _ (by decide))).toNat),
   (0x2000, (List.range 4).flatMap fun f => (List.range 64).flatMap fun n => leBytes 8 ((g.frag f).rd (BitVec.ofNat 6 n)).toNat),
   (0x2800, (List.range 64).flatMap fun n => (List.range 64).flatMap fun l => leBytes 4 (laneAt (g.rdV (BitVec.ofNat 6 n)) l).toNat),
   (0x6800, ((List.range (r.tiles / 16384)).flatMap fun n => readBytes (g.tile n) 0 16384)),
   (0x6800 + r.tiles, (List.range r.accs).flatMap fun n => (List.range 4096).flatMap fun i => leBytes 4 (sget (g.acc n) i).toNat)]

/-- The used parts of a group image whose layout R413 does not state: offset and length. -/
def Group.openParts (g : Group) (r : LaunchRec) : List (Nat × Nat) :=
  let base := 0x6800 + r.tiles + 16384 * r.accs
  [(0x0000, 64), (0x04C0, 320), (0x0700, 576), (0x0940, 512), (0x0B40, 3264), (0x1800, 128)] ++
    ((g.reqs.filter fun q => q.parked && q.logged).map fun q => (base + 640 * (q.entry % 32), 640)) ++
    ((g.reqs.filter fun q => q.parked && !q.logged).map fun q => (base + 20480 + 1088 * (q.entry % 64), 1088)) ++
    ((List.range (min 32 g.copies.length)).map fun i => (base + 90112 + 128 * i, 128)) ++
    (if r.det then [(base + 94208, 6144)] else [])

/-- The team key of an image (R412): the linear index, or T + the serial number. -/
def LaunchRec.imageKey (r : LaunchRec) (k : TeamKey) : Nat := if k.origin then r.teams + k.index else k.index

/-- The team block and the window (R413); the pegs' bytes are left to the open parts. -/
def Team.blockImage (t : Team) (r : LaunchRec) : List (Nat × List Byte) :=
  let cts := if t.shape = 2 then 1 else if t.shape = 4 then 2 else 0
  [(0, leBytes 4 r.lid.toNat ++ leBytes 4 (r.imageKey t.key) ++ leBytes 1 (t.pos % 4 + 4 * cts) ++ leBytes 1 (t.groups % 64) ++
      leBytes 2 0 ++ leBytes 4 t.scratch ++ leBytes 4 t.ipool ++ leBytes 4 t.mpool ++ leBytes 2 t.vfree ++ List.replicate 38 0#8),
   (1600, List.replicate 2496 0#8),
   (4096, (List.range 4096).map fun i => (sget t.ltags i).setWidth 8),
   (8192, readBytes t.window 0 t.scratch)]

/-- The offset of group `i`'s image in a save slot (R412, R413). -/
def LaunchRec.groupOffset (r : LaunchRec) (i : Nat) : Nat := 8192 + (r.scratch + 63) / 64 * 64 + i * r.imageSize

/-- Write parts of an image through the partition's tables (R410, R411). -/
def writeParts (s : State) (part die : Nat) (base : Word) (ps : List (Nat × List Byte)) : Except DevStop State :=
  ps.foldl (fun r p => match r with
    | .error e => .error e
    | .ok t => devWrite t part die (base + BitVec.ofNat 64 p.1) p.2) (.ok s)

/-- Bytes of unstated layout: free (R413). -/
def freeParts (s : State) (ps : List (Nat × Nat)) : List (Nat × List Byte) × State :=
  ps.foldl (fun (a : List (Nat × List Byte) × State) p =>
    let (out, t) := a
    (out ++ [(p.1, (List.range p.2).map fun i => Config.imageByte (t.draws + i))], { t with draws := t.draws + p.2 })) ([], s)

/-- A copy as an image holds it: from its restart point it continues at the restore, whatever stopped it (R287, R288). -/
def Copy.forImage (c : Copy) : Copy := { c with st := .running, out := none }

/-- A group as its image holds it: no pending write, clamp or slice; the hint words of a unit that has begun, and what a word has paid
that waits as a release, stand (R390: DEDUCED, log 70). A group in its clamp landing of a deterministic launch holds the budgets kept aside,
INRES 0, the earlier %lcause, the PC %lret, and the rotation from before the landing (R53, R389, R390, R408); a TIMER slot holds what
remains of its count (R160). -/
def Group.forImage (g : Group) (det : Bool) (clock : Nat) : Group :=
  let g1 : Group := { g.settle with
    clampPend := false, clampAt := none, saving := false, yielded := false
    groupHeld := none, deferHeld := false, tlds := [], orphans := [], copies := g.copies.map Copy.forImage, reqs := g.reqs.filter fun r => !r.isPiece }
  let g2 := match g.aside with
    | none => g1
    | some (u, m, l, turn) =>
      let lret := g.landing.lret
      let h := (g1.endLanding.modFrag g.landing.frag.toNat fun f => { f with pc := lret, hints := [], paid := none }).mapFrags fun i (f : Frag) =>
        { f with lastIssue := turn.getD i f.lastIssue }
      { h with ibud := u, mbud := m, landing := { g.landing with inres := false, clampp := false, cause := l.cause, frag := l.frag }, aside := none }
  let g3 := g2.mapFrags fun _ (f : Frag) => { f with fetchRec := none }
  if det then g3
  else { g3 with slots := g3.slots |> vmap fun (o : Option Binding) => o.map fun b => { b with timerAt := b.timerAt - clock } }

/-- The pegs of a team, and of its cluster team when it stands at position 0 (R413): a cluster team whose position 0 has ended loses its
cluster-scope pegs at a save (DESIGN CHOICE, log 71). -/
def State.teamPegs (s : State) (t : Team) : List Peg :=
  s.pegs.filter fun p => p.live && (if p.cluster then
      t.pos == 0 && t.shape > 1 && !t.key.origin && p.owner.uid == t.key.uid && p.owner.index / t.shape == t.key.index / t.shape
    else p.owner == t.key)

/-- Pegs return to their pools, whatever their references (R163). -/
def State.freePegs (s : State) (ps : List Peg) : State :=
  { s with pegs := s.pegs.map fun p => if ps.any fun q => q.same p then { p with live := false, gen := p.gen + 1#8, explicit := 0, implicit := 0 } else p }

/-- A team leaves its core: its granules, team slot and pegs are free (R115, R163, R410). The cluster-scope pegs go with
the last team of the cluster team. -/
def State.removeTeam (s : State) (t : Team) (saved : Bool) : State :=
  let mates := fun (k : TeamKey) => t.shape > 1 && !t.key.origin && !k.origin && k.uid == t.key.uid &&
    k.index / t.shape == t.key.index / t.shape && k != t.key
  let others := s.teams.any (fun x => mates x.key) || s.saved.any fun x => mates x.team.key
  let team := s.pegs.filter fun p => p.live && !p.cluster && p.owner == t.key
  let cluster := if (others && !saved) || t.shape ≤ 1 || t.key.origin then [] else
    s.pegs.filter fun p => p.live && p.cluster && p.owner.uid == t.key.uid && p.owner.index / t.shape == t.key.index / t.shape
  ({ s with teams := s.teams.filter fun x => x.key != t.key }).freePegs (team ++ cluster)

/-- The peg references of a group's slots and sealed batches end with it (R165). -/
def State.dropRefs (s : State) (g : Group) : State :=
  let s1 := (List.range 8).foldl (fun s e => s.unbind g.core g.slot e) s
  let s2 := (g.bc.seals ++ g.bm.seals ++ g.bg.seals).foldl (fun s b => match b.peg with
    | some h => s.drop g h
    | none => s) s1
  (List.range 4).foldl (fun s i => match (g.frag i).state, (g.frag i).wait with
    | .inPegwait, .peg h _ _ => s.drop g h
    | _, _ => s) s2

/-- The job counter falls with a group (R374). -/
def State.subJobs (s : State) (uid n : Nat) : State := s.modLaunch uid fun l => { l with jobs := l.jobs - n }

/-- A paired group has ended: its side of the pair says so (R327). The gate takes the notices on their way to that side without it: its
abort count rises, crossings that are older go, and its stream moves (R344, R350: DESIGN CHOICE, log 42). -/
def State.endPair (s : State) (g : Group) : State :=
  match s.pair? g with
  | some p =>
    let role := s.roleOf g
    let ns := p.notice role
    let q := ns.foldl (fun p _ => p.abort role) p
    ns.foldl (fun s n => s.moveStream g.gone n) (s.setPair ((q.setNotice role []).setEnded role true))
  | none => s

/-- Groups leave their slots in a cycle in which their last word may have issued (R19). -/
def State.leave (s : State) (gs : List Group) : State :=
  { s with left := s.left.filter (fun x => x.2.2 == s.clock + 1) ++
      (gs.filter fun g => g.lastIssue == s.clock + 1).map fun g => (g.core, g.lastCls, g.lastIssue) }

/-- A group leaves its slot (R115, R374): its team goes with its last group. -/
def State.removeGroup (s : State) (g : Group) : State :=
  let s1 := (((s.dropRefs g).endPair g).subJobs g.team.uid g.cuttings).leave [g]
  let s2 : State := { s1 with groups := s1.groups.filter fun h => !(h.core == g.core && h.slot == g.slot) }
  let s3 := s2.modTeam g.team fun t => { t with ended := t.ended + 1 }
  match s3.team? g.team with
  | some t => if t.ended ≥ t.groups then s3.removeTeam t false else s3
  | none => s3

/-- A group's work goes with it (R411): log and hamper entries, copies, matrix operations, gate words and staged work; not the write-back of
its stream entry (R328). -/
def Group.cleared (g : Group) : Group :=
  { g with
    reqs := g.reqs.filter fun r => r.frag == 8
    copies := [], gates := [], tlds := [], orphans := [], staged := [], commit := none, drain := none, deferred := [], stopped := none
    skip := none, bc := { g.bc with seals := [] }, bm := { g.bm with seals := [] }, bg := { g.bg with seals := [] } }

/-- What a group that goes leaves of its stream (R328, R344): the write-backs that wait, and the move that an abort has asked for. -/
def State.keepStream (s : State) (g : Group) : State :=
  let s1 := s.keepBacks g
  match g.skip, s1.pair? g with
  | some k, some p => s1.setPair (p.setLate (s1.roleOf g) (some k.target))
  | _, _ => s1

/-- A group ends without drain (R411). Its stream cursor is written back (R328); a write-back that waits goes on without the group. -/
def State.discardGroup (s : State) (core slot : Nat) : State :=
  match s.group? core slot with
  | none => s
  | some g =>
    let s1 : State := { s with engines := s.engines.map fun e =>
      if e.core = core then { e with queue := e.queue.filter fun q => q.slot != slot } else e }
    let s2 := ((s1.dropRefs g).modGroup core slot fun h => h.cleared.endAll).writeCursor core slot
    match s2.group? core slot with
    | none => s2
    | some h => (s2.keepStream { h with skip := g.skip }).removeGroup { h with reqs := [] }

/-- End a team without drain (R411, R418). -/
def State.discardTeam (s : State) (k : TeamKey) : State :=
  (s.groupsOfTeam k).foldl (fun s g => s.discardGroup g.core g.slot) s

/-- A saved team is discarded (R411): its groups count as ended; the write-backs of their stream entries go on (R328). -/
def State.discardSaved (s : State) (x : Saved) : State :=
  let s1 : State := { s with saved := s.saved.filter fun y => y.team.key != x.team.key }
  let s2 := x.groups.foldl (fun s g => ((s.keepStream g).endPair g).subJobs g.team.uid g.cuttings) s1
  s2.modLaunch x.team.key.uid fun l => { l with waiting := l.waiting.filter fun w => w.key != x.team.key }

/-- A peer access that waits for a frozen core is kept in the saved context (R226, R261). -/
def State.keptPeer (s : State) (g : Group) (r : Request) : Bool :=
  match r.kind with
  | .peerLoad p => (s.peerTeam g p).elim false s.peerHeld
  | .peerStore p => (s.peerTeam g p).elim false s.peerHeld
  | _ => false

/-- The work of a group that a save waits for is done (R314, R410, R432): accesses are performed or wait as entries,
matrix operations are complete, records are drawn and crossings posted, no `tlbconf` runs, no piece of a copy is on its way (R288). -/
def State.drainedForSave (s : State) (g : Group) : Bool :=
  (g.reqs.all fun r => s.keptPeer g r || (r.parked && r.lanes.all fun l => l.st != .waiting && l.st != .draining)) &&
    !((s.engine g.core).queue.any fun q => q.slot == g.slot) && g.drain.isNone &&
    (g.copies.all fun c => c.out.isNone) && g.gates.all fun w => (w.drawn || w.ticket.isSome) && w.post.isEmpty

/-- A team and its mates stand ready to be saved. -/
def State.readyToSave (s : State) (t : Team) : Bool :=
  s.stoodForSave t && (s.saveMates t).all fun x => (s.groupsOfTeam x.key).all s.drainedForSave

/-- Write a team's images, each group's and then the team block (R410 step 4, R413). -/
def State.writeTeam (s : State) (t : Team) (base : Word) : Except DevStop State :=
  match s.launch? t.key.uid with
  | none => .ok s
  | some l =>
    let r := l.record
    let groups := (s.groupsOfTeam t.key).foldl (fun a g => match a with
      | .error e => .error e
      | .ok u =>
        let g1 := g.forImage r.det u.clock
        let at' := base + BitVec.ofNat 64 (r.groupOffset g.gidx)
        let (parts, u1) := freeParts u (g1.openParts r)
        writeParts u1 t.part (dieOf t.core) at' (u1.groupImage g1 r ++ parts)) (Except.ok s : Except DevStop State)
    match groups with
    | .error e => .error e
    | .ok u =>
      let pegs := if t.pos = 0 ∧ t.shape > 1 then [(64, 1024), (1088, 512)] else [(64, 1024)]
      let (open', s1) := freeParts u pegs
      let fill := if t.pos = 0 ∧ t.shape > 1 then [] else [(1088, List.replicate 512 0#8)]
      writeParts s1 t.part (dieOf t.core) base (t.blockImage r ++ open' ++ fill)

/-- The header of a group's image as it stands in a save slot (R413, R414). -/
def State.imageHead (s : State) (t : Team) (g : Group) (base : Word) : List Byte :=
  match (s.recordOf g).map fun r => (devRead s t.part (dieOf t.core) (base + BitVec.ofNat 64 (r.groupOffset g.gidx)) 64).1 with
  | some (.ok bs) => bs
  | _ => []

/-- Take a saved team off its core (R410): the object holds what no stated layout holds. -/
def State.storeTeam (s : State) (t : Team) (base : Word) : State :=
  let gs := s.groupsOfTeam t.key
  let x : Saved := ⟨base, t.part, { t with saving := none, saveRec := none, saveBad := false, migrating := false },
    gs.map (fun g => g.forImage (s.isDet g) s.clock), s.teamPegs t, gs.map fun g => (g.gidx, s.imageHead t g base)⟩
  let s1 : State := { s with
    saved := s.saved ++ [x]
    groups := s.groups.filter fun g => g.team != t.key }
  (s1.leave gs).removeTeam t true

/-- Saves a team and its mates (R410): the images, then the release of what they held; the stream cursors of paired groups
are written back first (R328). The first fault answers the team and the cause; a draining entry none (R433). -/
def State.saveTeams (s : State) (ts : List Team) : Except (Team × DevStop) State :=
  let s0 := ts.foldl (fun s t => (s.groupsOfTeam t.key).foldl (fun s g => s.writeCursor g.core g.slot) s) s
  ts.foldl (fun a t => match a with
    | .error e => .error e
    | .ok u =>
      match t.saving with
      | none => .ok u
      | some base =>
        match u.writeTeam t base with
        | .error e => .error (t, e)
        | .ok u1 => .ok (u1.storeTeam t base)) (.ok s0)

/-- The launch id and the team key of the block at a base name a saved team (R412, R413). -/
def State.blockNames (s : State) (part : Nat) (base : Word) (x : Saved) : Bool :=
  match devRead s part 0 base 8, s.launch? x.team.key.uid with
  | (.ok bs, _), some l =>
    x.part == part && l.record.lid.toNat == fieldAt bs 0 4 && l.record.imageKey x.team.key == fieldAt bs 4 4
  | _, _ => false

/-- Bytes from the first slot of a saved team's cluster team to its own (R412). -/
def State.slotOffset (s : State) (x : Saved) : Word :=
  BitVec.ofNat 64 (x.team.savePos * (s.launch? x.team.key.uid).elim 0 (·.record.slotSize))

/-- The saved team whose image stands at an address (R411), one that was saved there first. -/
def State.savedAt (s : State) (part : Nat) (base : Word) : Option Saved :=
  let named := s.blockNames part base
  (s.saved.find? fun x => x.addr == base && named x).or (s.saved.find? named)

/-- The saved team, or one of the cluster team, whose images a restore reads from a base: the base names position 0, and
position j stands j slots above it (R411, R412). -/
def State.restoredAt (s : State) (part : Nat) (base : Word) : Option Saved :=
  let named := fun (x : Saved) => s.blockNames part (base + s.slotOffset x) x
  (s.saved.find? fun x => x.addr == base + s.slotOffset x && named x).or (s.saved.find? named)

/-- The saved teams restored with one (R411): its whole cluster team. -/
def State.savedMates (s : State) (x : Saved) : List Saved :=
  if x.team.shape > 1 ∧ !x.team.key.origin then
    s.saved.filter fun y => y.team.key.uid == x.team.key.uid && !y.team.key.origin &&
      y.team.key.index / x.team.shape == x.team.key.index / x.team.shape
  else [x]

/-- A split table as an image holds it: PC and MASK of each fragment (R80, R414). -/
def splitTable (bs : List Byte) : List (Word × Mask) :=
  (List.range 4).map fun i => (BitVec.ofNat 64 (fieldAt bs (16 * i) 8 / 2 ^ 9), BitVec.ofNat 64 (fieldAt bs (16 * i + 8) 8))

/-- An edited split table keeps R81: the live fragments' masks are disjoint, none is empty, and their union is the set of
live lanes. -/
def Group.splitOk (g : Group) (e : List (Word × Mask)) : Bool :=
  let mask := fun (i : Nat) => (e.getD i (0#64, 0#64)).2
  let union := g.liveFrags.foldl (fun m i => m ||| mask i) 0#64
  let was := g.liveFrags.foldl (fun m i => m ||| (g.frag i).mask) 0#64
  (g.liveFrags.all fun i => mask i != 0#64 && g.liveFrags.all fun j => decide (i = j) || mask i &&& mask j == 0#64) && union == was

/-- The special registers of the group whose fields a supervisor may edit in an image (R90, R326, R414); %tpool is the team's. -/
def editable : List Nat :=
  [0x08, 0x09, 0x0A, 0x0B, 0x0C, 0x0D, 0x10, 0x11, 0x12, 0x15, 0x16, 0x17, 0x18, 0x19, 0x20, 0x21, 0x22] ++
    (List.range 8).map (0x28 + ·) ++ [0x32, 0x38]

/-- A group with the edits of its image's special registers. -/
def State.editSpecials (s : State) (g : Group) (r : LaunchRec) (bs : List Byte) : Group :=
  editable.foldl (fun g n =>
    let v : Word := BitVec.ofNat 64 (fieldAt bs (8 * n) 8)
    if v = s.special (g.imageCtx s.clock) g (BitVec.ofNat 6 n) then g
    else match setSpecial r.det g (BitVec.ofNat 6 n) v 0#64 with
      | .group h => h
      | _ => g) g

/-- A group read back from its image (R413, R414): a fragment whose PC has been edited begins the unit there. -/
def State.readGroup (s : State) (die : Nat) (g : Group) (r : LaunchRec) (at' : Word) : Option Group :=
  let rd := fun (o n : Nat) => match (devRead s g.part die (at' + BitVec.ofNat 64 o) n).1 with
    | .ok bs => some bs
    | .error _ => none
  match rd 0x40 64, rd 0x140 120, rd 0x1C0 512, rd 0x3C0 256, rd 0x2000 2048, rd 0x2800 16384, rd 0x6800 (r.tiles + 16384 * r.accs) with
  | some sp, some ks, some xs, some bs, some ss, some vs, some ts =>
    let e := splitTable sp
    let g1 := g.mapFrags fun i (f : Frag) =>
      { f with
        pc := if f.live then (e.getD i (0#64, 0#64)).1 else f.pc
        hints := if (e.getD i (0#64, 0#64)).1 = f.pc then f.hints else []
        paid := if (e.getD i (0#64, 0#64)).1 = f.pc then f.paid else none
        mask := if f.live then (e.getD i (0#64, 0#64)).2 else f.mask
        s := Vector.ofFn fun n => BitVec.ofNat 64 (fieldAt ss (512 * i + 8 * n.val) 8) }
    let tile := fun (n : Nat) => writeBytes [] 0 ((ts.drop (16384 * n)).take 16384)
    let acc := fun (n : Nat) => ssetAll ([] : SMap 32) ((List.range 4096).map fun i =>
      (i, BitVec.ofNat 32 (fieldAt ts (r.tiles + 16384 * n + 4 * i) 4)))
    let g2 : Group := { g1 with
      k := Vector.ofFn fun n => if n.val = 0 then g.k[n.val] else BitVec.ofNat 64 (fieldAt ks (8 * (n.val - 1)) 8)
      b := Vector.ofFn fun n => BitVec.ofNat 128 (fieldAt bs (16 * n.val) 16)
      v := Vector.ofFn fun n => Vector.ofFn fun l => BitVec.ofNat 32 (fieldAt vs (256 * n.val + 4 * l.val) 4)
      tiles := Vector.ofFn fun n => if n.val < r.tiles / 16384 then tile n.val else g.tiles[n.val]
      accs := Vector.ofFn fun n => if n.val < r.accs then acc n.val else g.accs[n.val] }
    some (s.editSpecials g2 r xs)
  | _, _, _, _, _, _, _ => none

/-- The checks of a restore of one team (R411, R414): an edit of a group image's header, whose fields have no stated place, counts as one
that does not match. (DESIGN CHOICE, log 68) -/
def State.restoreOk (s : State) (x : Saved) (base : Word) : Bool :=
  match s.launch? x.team.key.uid with
  | none => false
  | some l =>
    !l.done && (s.team? x.team.key).isNone && !(l.waiting.any fun w => w.key == x.team.key) &&
      (match (devRead s x.part 0 base 16).1 with
      | .ok bs => bs == ((x.team.blockImage l.record).headD (0, [])).2.take 16
      | .error _ => false) &&
      x.groups.all fun g =>
        match (devRead s x.part 0 (base + BitVec.ofNat 64 (l.record.groupOffset g.gidx)) 128).1 with
        | .ok bs => x.heads.contains (g.gidx, bs.take 64) && g.splitOk (splitTable (bs.drop 64))
        | .error _ => false

/-- The pegs of a saved team are free on a core and its cluster (R411). -/
def State.pegsFree (s : State) (x : Saved) (core : Nat) : Bool :=
  x.pegs.all fun p => !(s.pegs.any fun q => q.live && q.cluster == p.cluster && q.index == p.index &&
    q.pool == (if p.cluster then clusterOf core else core))

/-- %tpool of a restored team (R413, R414): what the block holds, unless a group image's %tpool has been edited. -/
def State.editPool (s : State) (x : Saved) (r : LaunchRec) (die : Nat) (base : Word) (pool : Nat × Nat) : Nat × Nat :=
  x.groups.foldl (fun p g =>
    match (devRead s x.part die (base + BitVec.ofNat 64 (r.groupOffset g.gidx + 0x01C0 + 8 * 0x0E)) 8).1 with
    | .ok bs => if (fieldAt bs 0 4, fieldAt bs 4 4) = (x.team.ipool, x.team.mpool) then p else (fieldAt bs 0 4, fieldAt bs 4 4)
    | .error _ => p) pool

/-- Put a saved team back on a core (R411): its groups take new handles and fresh slices, and issue in a later cycle (R19); its pegs keep
INDEX and GEN. None when a byte of the image cannot be read. Entries of the operand log and the hamper keep their numbers and come beside
those in use (R233: DESIGN CHOICE, log 71). -/
def State.restoreTeam (s : State) (x : Saved) (base : Word) (core : Nat) : Option State :=
  match s.launch? x.team.key.uid with
  | none => none
  | some l =>
    let r := l.record
    let die := dieOf core
    let rd := fun (o n : Nat) => match (devRead s x.part die (base + BitVec.ofNat 64 o) n).1 with
      | .ok bs => some bs
      | .error _ => none
    match rd 4096 4096, rd 8192 x.team.scratch, rd 16 8 with
    | some tags, some win, some pool =>
      let (ip, mp) := s.editPool x r die base (fieldAt pool 0 4, fieldAt pool 4 4)
      let t : Team := { x.team with
        core := core
        ipool := ip
        mpool := mp
        window := writeBytes [] 0 win
        ltags := ssetAll [] ((List.range 4096).map fun i => (i, (tags.getD i 0#8).setWidth 3)) }
      let pegs := x.pegs.map fun p => { p with pool := if p.cluster then clusterOf core else core }
      let s1 : State := { s with
        teams := s.teams ++ [t]
        saved := s.saved.filter fun y => y.team.key != x.team.key
        pegs := (s.pegs.filter fun p => !pegs.any fun q => q.same p) ++ pegs }
      x.groups.foldl (fun a g => a.bind fun u =>
        (u.readGroup die g r (base + BitVec.ofNat 64 (r.groupOffset g.gidx))).map fun h =>
          let slot := (u.freeSlots core).headD 0
          let h1 : Group := { h with
            core := core, slot := slot, seq := u.nextSeq, sliceAt := u.sliceEnd l, readyAt := u.clock, lastIssue := 0
            stopAt := u.clock, haltAt := u.clock
            slots := if r.det then h.slots else h.slots |> vmap fun (o : Option Binding) => o.map fun b => { b with timerAt := b.timerAt + u.clock } }
          let h2 := h1.mapFrags fun _ (f : Frag) => { f with nextIssue := u.clock + 1 }
          { u with groups := u.groups ++ [h2], nextSeq := u.nextSeq + 1#16 }) (some s1)
    | _, _, _ => none

end Sys2Proof.Machine
end

