-- ==== Sys2Proof/Machine/Place.lean ====
section
/-! DEFINITION. Machine/Place.lean: the choice of a core for a waiting team (R98, R362 to R364, R386, R411). -/

namespace Sys2Proof.Machine

/-- The teams that are placed together with a waiting one (R98, R363, R386, R411): all fresh grid teams of a co-resident or a
deterministic launch, the cluster team, or itself. -/
def Launch.unitOf (l : Launch) (w : Waiting) : List Waiting :=
  let fresh := fun (x : Waiting) => !x.key.origin && x.image.isNone && !x.relaunch
  if (l.record.cores || l.record.det) && fresh w then l.waiting.filter fresh
  else if l.record.shape > 1 ∧ !w.key.origin then
    l.waiting.filter fun x => !x.key.origin && x.key.index / l.record.shape == w.key.index / l.record.shape
  else [w]

/-- The cluster shape a waiting team is placed with. -/
def Launch.shapeFor (l : Launch) (w : Waiting) : Nat := if w.key.origin then 1 else l.record.shape

/-- The position of a waiting team in its cluster team (R71), which %cid.POS reads (R91); 0 for a team without one (DESIGN CHOICE,
log 66). -/
def Launch.posFor (l : Launch) (w : Waiting) : Nat := w.key.index % l.shapeFor w

/-- The groups a waiting team has still to start: those of its launch, one, or those its image holds. -/
def State.groupsFor (s : State) (l : Launch) (w : Waiting) : Nat :=
  match w.image, s.saved.find? fun x => x.team.key == w.key with
  | some _, some x => x.groups.length
  | _, _ => if w.key.origin then 1 else l.record.groups

/-- The die a waiting team may not leave (R364, R371, R390). -/
def Launch.boundTo (l : Launch) (w : Waiting) : Option Nat := if l.record.det then some l.home else w.die

/-- A core, or the cluster of a core, is one where a waiting team may go, whatever stands there: of its partition, of its
die, in its position, and the core that a restore names (R71, R364, R411). -/
def State.mayGo (s : State) (p : Partition) (l : Launch) (w : Waiting) (core : Nat) : Bool :=
  p.clusters.contains (clusterOf core) && !s.frozen.contains core &&
    (l.boundTo w).all (fun d => dieOf core == d) && (l.shapeFor w ≤ 1 || core % 4 == l.posFor w) &&
    w.core.all fun c => if l.shapeFor w ≤ 1 then core == c else clusterOf core == clusterOf c

/-- Another team of a waiting team's cluster team stands for its allotment of cluster-scope pegs: a resident one, or one of a lower position
that is placed with it (R386). -/
def Launch.clusterKept (l : Launch) (s : State) (w : Waiting) : Bool :=
  let mate := fun (k : TeamKey) => !k.origin && k.uid == w.key.uid && k.index / l.shapeFor w == w.key.index / l.shapeFor w
  (s.teams.any fun x => mate x.key) || l.waiting.any fun v => mate v.key && decide (l.posFor v < l.posFor w)

/-- The pegs a deterministic team keeps are free (R385, R386), and a saved team's own are (R411). -/
def State.pegsFit (s : State) (l : Launch) (w : Waiting) (core : Nat) : Bool :=
  let room := fun (cluster : Bool) (pool quota size : Nat) =>
    decide (s.pegsOf cluster pool (fun _ => true) + s.allotted cluster pool + quota ≤ size)
  (!l.record.det || (room false core 8 Config.teamPegs &&
    (l.shapeFor w ≤ 1 || l.clusterKept s w || room true (clusterOf core) 4 Config.clusterPegs))) &&
  match w.image, s.saved.find? fun x => x.team.key == w.key with
  | some _, some x => s.pegsFree x core
  | some _, none => false
  | none, _ => true

/-- A rank (R363, R411, R439): the supervisor launch, class, acceptance, a restore at the head, then grid teams by index
and groups of cuttings by serial number. -/
def Launch.rank (l : Launch) (w : Waiting) : List Nat :=
  [(!l.super).toNat, 3 - min l.cls 3, l.uid, (!w.head).toNat, w.key.origin.toNat, w.key.index]

/-- Order of lists of numbers, the first that differs deciding. -/
def listLe : List Nat → List Nat → Bool
  | x :: r, y :: t => if x = y then listLe r t else decide (x < y)
  | _, _ => true

/-- The teams of a partition that wait for room, the highest-ranked first (R363). -/
def State.waitingOf (s : State) (part : Nat) : List (Launch × Waiting) :=
  sortBy (fun a b => listLe (a.1.rank a.2) (b.1.rank b.2))
    ((s.launches.filter fun l => l.part == part && l.started && !l.done).flatMap fun l => l.waiting.map fun w => (l, w))

/-- A team that has waited too long keeps a core from a lower-ranked one (R363). -/
def State.blocked (s : State) (p : Partition) (l : Launch) (w : Waiting) (core : Nat) : Bool :=
  (s.waitingOf p.num).any fun (m, x) =>
    x.blocking && x.key != w.key && listLe (m.rank x) (l.rank w) && s.mayGo p m x core

/-- The streamer of a core has room for the copies that a saved team brings (R274). -/
def State.copiesFit (s : State) (w : Waiting) (core : Nat) : Bool :=
  match w.image, s.saved.find? fun x => x.team.key == w.key with
  | some _, some x => decide (s.copiesOn core + (x.groups.map fun g => g.copies.length).foldl (· + ·) 0 ≤ Config.copySlots)
  | _, _ => true

/-- A core takes a waiting team now (R274, R362). -/
def State.takes (s : State) (p : Partition) (l : Launch) (w : Waiting) (core : Nat) : Bool :=
  s.mayGo p l w core && s.copiesFit w core && s.fitsCore core (s.groupsFor l w) l.record.granules && s.pegsFit l w core && !s.blocked p l w core

/-- The first cores of the places on a die that take a team, or a cluster team: those cores, or clusters from their core 0. -/
def State.places (s : State) (p : Partition) (l : Launch) (ws : List Waiting) (die : Nat) : List Nat :=
  match ws with
  | [] => []
  | w :: _ =>
    if l.shapeFor w ≤ 1 then (p.coresOn die).filter fun c => s.takes p l w c
    else ((p.clusters.filter fun k => k / 60 == die).map (4 * ·)).filter fun c => ws.all fun x => s.takes p l x (c + l.posFor x)

/-- Free granules of a place: a core's, or a cluster's. -/
def State.placeGranules (s : State) (shape core : Nat) : Nat :=
  if shape ≤ 1 then s.freeGranules core else ((List.range 4).map fun j => s.freeGranules (core + j)).foldl (· + ·) 0

/-- The place with the fewest free granules, the lowest of equals (R364). -/
def State.tightest (s : State) (shape : Nat) (cs : List Nat) : Option Nat :=
  cs.foldl (fun b c => match b with
    | none => some c
    | some d =>
      if s.placeGranules shape c < s.placeGranules shape d ∨ (s.placeGranules shape c = s.placeGranules shape d ∧ c < d) then some c
      else b) none

/-- The die and the place of a team or a cluster team (R364): its home die, else the roomiest die that has a place. -/
def State.choose (s : State) (p : Partition) (l : Launch) (ws : List Waiting) : Option Nat :=
  match ws with
  | [] => none
  | w :: _ =>
    let on := fun (d : Nat) => s.tightest (l.shapeFor w) (s.places p l ws d)
    match l.boundTo w with
    | some d => on d
    | none =>
      match on l.home with
      | some c => some c
      | none =>
        match p.dies.filter fun d => d != l.home && (on d).isSome with
        | [] => none
        | ds => on (s.roomiest p ds)

/-- Put one waiting team on a core: a fresh start, or a restore (R362, R411). -/
def State.putTeam (s : State) (l : Launch) (w : Waiting) (core : Nat) : Option State :=
  let s1 := s.modLaunch l.uid fun m => { m with waiting := m.waiting.filter fun x => x.key != w.key }
  match w.image with
  | none => some (s1.startTeam l w.key w.lanes w.relaunch core (l.posFor w))
  | some base =>
    match s.saved.find? fun x => x.team.key == w.key with
    | some x => s1.restoreTeam x base core
    | none => none

/-- Place teams that go together on one place. -/
def State.putTogether (s : State) (p : Partition) (l : Launch) (ws : List Waiting) : Option State :=
  (s.choose p l ws).bind fun c => ws.foldl (fun a w => a.bind fun t =>
    t.putTeam l w (if l.shapeFor w ≤ 1 then c else c + l.posFor w)) (some s)

/-- The teams of a unit by cluster team. -/
def Launch.clustersOf (l : Launch) (ws : List Waiting) : List (List Waiting) :=
  match ws with
  | [] => []
  | w :: _ =>
    let n := l.shapeFor w
    if n ≤ 1 then ws.map fun x => [x]
    else ((ws.map fun x => x.key.index / n).dedup).map fun k => ws.filter fun x => x.key.index / n == k

/-- Place all the teams of a unit, or none (R98, R363). (DESIGN CHOICE, log 47) -/
def State.placeUnit (s : State) (p : Partition) (l : Launch) (ws : List Waiting) : Option State :=
  (l.clustersOf ws).foldl (fun a c => a.bind fun t => t.putTogether p l c) (some s)

/-- The highest-ranked unit that fits is placed (R363); none when no unit does. -/
def State.placeNext (s : State) (part : Nat) : Option State :=
  match s.part? part with
  | none => none
  | some p =>
    if p.halted then none
    else (s.waitingOf part).findSome? fun (l, w) => s.placeUnit p l (l.unitOf w)

/-- The state once a group's team, or cluster team, has left its core (R365). -/
def State.without (s : State) (g : Group) : State :=
  match s.team? g.team with
  | none => s
  | some t => (s.saveMates t).foldl (fun s x =>
      { s with groups := s.groups.filter fun h => h.team != x.key }.removeTeam x true) s

/-- A waiting team that lets a group's expired slice clamp it (R365). -/
def State.clampsFor (s : State) (p : Partition) (g : Group) (l : Launch) (w : Waiting) : Bool :=
  let cls := (s.launch? g.team.uid).elim 0 (·.cls)
  let t := s.without g
  let unit := l.unitOf w
  let mates := if l.shapeFor w ≤ 1 then [w] else unit.filter fun x => x.key.index / l.record.shape == w.key.index / l.record.shape
  let base := if l.shapeFor w ≤ 1 then g.core else g.core - l.posFor w
  let homeFits := (l.boundTo w).isNone && dieOf g.core != l.home && !(t.places p l mates l.home).isEmpty
  decide (l.cls ≥ cls) && g.core % 4 ≥ (if l.shapeFor w ≤ 1 then 0 else l.posFor w) && !homeFits &&
    (mates.all fun x => t.takes p l x (if l.shapeFor w ≤ 1 then base else base + l.posFor x)) &&
    (decide (unit.length = mates.length) || (t.placeUnit p l unit).isSome)

/-- Some waiting team of the group's partition lets its slice clamp it (R365). -/
def State.sliceClamps (s : State) (g : Group) : Bool :=
  match s.part? g.part with
  | none => false
  | some p => (s.waitingOf g.part).any fun (l, w) => s.clampsFor p g l w

end Sys2Proof.Machine
end

