-- ==== Sys2Proof/Machine/System.lean ====
section
/-! DEFINITION. Machine/System.lean: two-phase invalidation (R429 to R433) and the context words (R409 to R411, R414). -/

namespace Sys2Proof.Machine

/-- A descriptor of `tlbdrain` and `tlbconf` breaks its fields (R430). -/
def drainBad (d : Word) : Bool :=
  let kind := field d 63 62
  kind == 3 || field d 61 55 != 0 || field d 15 0 != 0 || (kind == 1 && field d 28 16 != 0) || (kind == 2 && field d 54 16 != 0)

/-- Open a drain and mark what it covers (R431). -/
def State.openDrain (s : State) (part : Nat) (d : Word) : State :=
  let s1 := s.modPart part fun p => { p with drains := p.drains ++ [d] }
  { s1 with tlb := mapIf (fun t => t.part == part && t.drained d) (fun t => { t with draining := true }) s1.tlb }

/-- tlbdrain (R431): a release at .dev; a seventeenth drain waits. -/
def execTlbdrain (st : BitVec 3) (a : BitVec 6) (s : State) : Out :=
  let i := Instr.tlbdrain st a
  issue i s
    (fun x t =>
      if drainBad (x.s a) then .go 0 0
      else
        match t.group? x.core x.slot with
        | none => .hold
        | some g =>
          if !g.quiet ∨ ((t.part? x.g.part).elim true fun p => decide (p.drains.length ≥ Config.maxDrains)) then .hold else .go 0 0)
    fun x t => if drainBad (x.s a) then .trap .illegal (wordOf i) none else .done (t.openDrain x.g.part (x.s a))

/-- tlbconf (R432): 0 when no open drain has the descriptor; else it ends by TLBCONF_COMPLETE. -/
def execTlbconf (st : BitVec 3) (d a : BitVec 6) (s : State) : Out :=
  let i := Instr.tlbconf st d a
  issue i s
    (fun x t => if (t.group? x.core x.slot).elim true (·.drain.isSome) then .hold else .go 0 0)
    fun x t =>
      if drainBad (x.s a) then .trap .illegal (wordOf i) none
      else if (t.part? x.g.part).elim false fun p => p.drains.contains (x.s a) then
        x.upd t fun g => { g with drain := some (x.s a, d, x.fid) }
      else x.upd t fun g => g.putS x d 0 0#64

/-- An access at a virtual address went through an entry that a drain covers (R432): for a page, also through the leaf of its 512 MiB block,
which may stand in no TLB any more: where that leaf translates, an address and its byte agree in their low 29 bits (DEDUCED, log 74). -/
def State.throughDrain (s : State) (part : Nat) (d : Word) (va pa : Nat) : Bool :=
  drainCovers d va false || (field d 63 62 == 0 && drainCovers d va true && pa % 2 ^ 29 == va % 2 ^ 29) ||
    s.tlb.any fun t => t.part == part && t.draining && t.drained d && t.covers va

/-- A lane's access is translated and not yet performed. -/
def LaneAcc.open' (l : LaneAcc) : Bool := l.st == .waiting && !l.pas.isEmpty

/-- An access of a group that `tlbconf` waits for (R432), on the page of its first byte or of its last (R217). -/
def State.openAccess (s : State) (d : Word) (g : Group) : Bool :=
  let through := fun (ea : Word) (pas : List Nat) => [0, pas.length - 1].any fun i =>
    s.throughDrain g.part d ((ea.toNat + i) % 2 ^ 55) (pas.getD i 0)
  let hit := fun (r : Request) => r.kind.global && r.lanes.any fun l => l.open' && through l.ea l.pas
  g.reqs.any hit ||
    g.staged.any (fun e => match e with
      | .write r => hit r
      | .copy _ _ ps _ => ps.any fun p => !p.pas.isEmpty && through p.ea p.pas
      | _ => false) ||
    (match g.commit with
    | some (.access r) => hit r
    | _ => false)

/-- The resident group of a partition that a handle names, whatever its ACTION (R409). -/
def State.handleGroup (s : State) (part : Nat) (h : Word) : Option Group :=
  if field h 61 48 ≠ 0 ∨ field h 31 22 ≠ 0 ∨ field h 11 5 ≠ 0 then none
  else s.groups.find? fun g => g.part == part && g.core == field h 21 12 && g.slot == field h 4 0 && g.seq.toNat == field h 47 32

/-- A request is the one that the `ctxsv` of a fragment at a unit made for a handle and a base. -/
def SaveReq.of (r : SaveReq) (fid : Nat) (unit h base : Word) : Bool :=
  r.frag == fid && r.unit == unit && r.handle == h && r.base == base

/-- What a `ctxsv` finds (R411): it has asked for its save already, or it names a team. -/
inductive SaveStage where
  | trap (c : Cause) (addr : Word)
  | wait
  | done
  | ask (k : TeamKey)
  deriving DecidableEq, Repr

/-- The stage of a `ctxsv` (R411). -/
def Ctx.saveStage (x : Ctx) (s : State) (w h base : Word) : SaveStage :=
  match (s.group? x.core x.slot).bind fun g => g.saves.find? (·.of x.fid x.unit h base) with
  | some r =>
    match r.bad with
    | some (c, a) => .trap c a
    | none => if (s.team? r.key).elim false fun t => t.saving.isSome then .wait else .done
  | none =>
    match s.handleGroup x.g.part h with
    | none => .trap .illegal w
    | some g =>
      if field h 63 62 ≠ 0 ∨ g.team = x.g.team then .trap .illegal w
      else if base.toNat % 64 ≠ 0 then .trap .align base
      else .ask g.team

/-- A `ctxsv` is over: its request goes. -/
def State.clearSave (s : State) (x : Ctx) (h base : Word) : State :=
  s.modGroup x.core x.slot fun g => { g with saves := g.saves.filter fun r => !r.of x.fid x.unit h base }

/-- ctxsv (R411): held until the team save it asks for is performed; its traps come after its charge (R68). -/
def execCtxsv (st : BitVec 3) (a b : BitVec 6) (s : State) : Out :=
  let i := Instr.ctxsv st a b
  issue i s
    (fun x t =>
      match x.saveStage t (wordOf i) (x.s a) (x.s b) with
      | .trap .. => .go 0 0
      | .wait => .hold
      | .done => .go 0 0
      | .ask k => .stop ((t.askSave k (some (x.s b))).modGroup x.core x.slot fun g =>
          { g with saves := g.saves ++ [⟨x.fid, x.unit, x.s a, x.s b, k, none⟩] }))
    fun x t =>
      match x.saveStage t (wordOf i) (x.s a) (x.s b) with
      | .trap c v => .done ((t.clearSave x (x.s a) (x.s b)).takeTrap x.core x.slot x.fid (.precise c v x.unit))
      | _ => .done (t.clearSave x (x.s a) (x.s b))

/-- A save that a fault has stopped is over once a group of the teams goes on (R411). -/
def State.dropSave (s : State) (k : TeamKey) : State :=
  match s.team? k with
  | some t => if t.saveBad then (s.saveMates t).foldl (fun s x => s.modTeam x.key fun y => { y with saving := none, saveBad := false }) s else s
  | none => s

/-- What a `ctxld` does (R411): its trap, or the state after (DEDUCED, log 48); a group that continues takes its stopped copies on from
their restart points (DESIGN CHOICE, log 68). -/
def State.loadContext (s : State) (part : Nat) (w h v : Word) : Except (Cause × Word) State :=
  match field h 63 62 with
  | 0 =>
    if v.toNat % 64 ≠ 0 then .error (.align, v)
    else
      match s.restoredAt part v with
      | none => .error (.illegal, w)
      | some x =>
        match s.launch? x.team.key.uid with
        | none => .error (.illegal, w)
        | some l =>
          let mates := s.savedMates x
          let base := fun (y : Saved) => v + s.slotOffset y
          if !(mates.all fun y => s.restoreOk y (base y)) then .error (.illegal, w)
          else
            let core := if field h 21 12 = 0x3FF then none else some (field h 21 12)
            let die := if l.record.det then some l.home else none
            .ok (s.modLaunch l.uid fun l => { l with waiting := l.waiting ++ mates.map fun y =>
              ⟨y.team.key, [], s.clock, false, true, die, core, some (base y), false⟩ })
  | 1 =>
    match s.handleGroup part h with
    | none => .error (.illegal, w)
    | some g =>
      match g.stopped with
      | none => .error (.illegal, w)
      | some f =>
        if v.toNat % 4 ≠ 0 ∨ v.toNat / 2 ^ 55 ≠ 0 then .error (.illegal, w)
        else
          let g1 := { g with saves := g.saves.filter (·.frag != f) }.gateHandled.modFrag f fun x =>
            { x with pc := v, hints := [], paid := none, fetchRec := none }
          let s := s.dropSave g.team
          .ok (s.setGroup { g1 with
            stopped := none
            copies := mapIf (fun c => c.st == .stopped) (fun c => { c with st := .running }) g.copies
            sliceAt := if g.sliceAt = 0 then 0 else g.sliceAt + ((if g.halted then g.haltAt else s.clock) - g.stopAt) })
  | 2 =>
    if field h 21 12 < 960 then
      match s.handleGroup part h with
      | none => .error (.illegal, w)
      | some g => if g.stopped.isSome then .ok (s.discardGroup g.core g.slot) else .error (.illegal, w)
    else
      match s.savedAt part v with
      | some x => .ok (s.discardSaved x)
      | none => .error (.illegal, w)
  | _ => .error (.illegal, w)

/-- A `ctxld` reads the team block at its base through an entry that drains (R411, R433): a restore, or a discard of a saved team. -/
def State.blockDrains (s : State) (part : Nat) (h v : Word) : Bool :=
  (field h 63 62 == 0 && v.toNat % 64 == 0 || field h 63 62 == 2 && decide (960 ≤ field h 21 12)) &&
    match (devRead s part 0 v 8).1 with
    | .error none => true
    | _ => false

/-- A restore reads its images through an entry that drains (R411, R433). -/
def State.imagesDrain (s : State) (part : Nat) (h v : Word) : Bool :=
  s.blockDrains part h v || field h 63 62 == 0 && (s.restoredAt part v).elim false fun x => (s.savedMates x).any fun y =>
    let n := (s.launch? y.team.key.uid).elim 0 (·.record.slotSize)
    (pagesOf (v + s.slotOffset y) n).any fun pg => s.tlb.any fun t => t.part == part && t.draining && t.covers (pg * 2 ^ 16)

/-- ctxld (R411, R414): its reads of the images wait behind a draining entry (R433), before its charge (DEDUCED, log 45). -/
def execCtxld (st : BitVec 3) (a b : BitVec 6) (s : State) : Out :=
  let i := Instr.ctxld st a b
  issue i s (fun x t => if t.imagesDrain x.g.part (x.s a) (x.s b) then .hold else .go 0 0) fun x t =>
    match t.loadContext x.g.part (wordOf i) (x.s a) (x.s b) with
    | .error (c, v) => .trap c v none
    | .ok t1 => .done t1

end Sys2Proof.Machine
end

