-- ==== Sys2Proof/Machine/TrapEvents.lean ====
section
/-! DEFINITION. Machine/TrapEvents.lean: slices, clamps and deadlines (R137, R365, R389, R408, R415), promotion (R99), deferred
traps (R400, R403), the trap queue's HEAD (R404, R407), timers and deliveries (R151, R158, R159), the end of a group (R115),
team saves (R410), soft errors, core faults and migration (R418 to R421). -/

namespace Sys2Proof.Machine

/-- The team of a group is being saved (R410). -/
def State.savingTeam (s : State) (g : Group) : Bool := (s.team? g.team).elim false fun t => t.saving.isSome

/-- A save of its team or the halt of its partition lets a group only finish the units it has begun (R406, R410). -/
def State.finishing (s : State) (g : Group) : Bool := s.savingTeam g || ((s.part? g.part).elim true (·.halted))

/-- A group issues nothing: it is stopped or halted, its core is frozen, or it has come to the unit boundary at which a save of its
team or the halt of its partition stops it (R402, R406, R408, R410, R420). -/
def State.standing (s : State) (g : Group) : Bool :=
  g.stopped.isSome || g.halted || s.frozen.contains g.core ||
    (g.atBoundary && s.finishing g)

/-- SLICE_TIMER_EXPIRY (R365): the timer has expired and a waiting team qualifies; the group is clamped and its timer starts
again. A deterministic launch is clamped whole, at its next round boundary (R389). -/
def execSliceTimerExpiry (core slot : Nat) (s : State) : Out :=
  onGroup s core slot fun g =>
    if g.sliceAt = 0 ∨ g.sliceAt > s.clock ∨ g.halted ∨ g.stopped.isSome ∨ g.ending ∨ s.frozen.contains core then s
    else if !s.sliceClamps g then s
    else
      let len := (s.part? g.part).elim 0 (·.slice)
      let again := if len = 0 then 0 else s.clock + len
      if s.isDet g then
        (s.modGroup core slot fun g => { g with sliceAt := again }).modLaunch g.team.uid fun l => { l with clampAll := true }
      else s.modGroup core slot fun g => { g with sliceAt := again, clampPend := true, clampAt := g.clampAt.or (some s.clock) }

/-- A pending clamp meets a group of a deterministic launch at a round boundary (R389): a group in its landing keeps it to a
later one; one that lands keeps its budgets aside. -/
def State.clampDet (s : State) (core slot : Nat) : State :=
  match s.group? core slot with
  | none => s
  | some g =>
    if g.landing.inres then s
    else if g.landing.land = 0#64 then s.clampNow core slot
    else
      let t := s.clampNow core slot
      let turn := (List.range 4).map fun i => (g.frag i).lastIssue
      t.modGroup core slot fun h => if h.landing.inres then { h with aside := some (g.ibud, g.mbud, g.landing, turn) } else h

/-- CLAMP (R137, R408): a pending clamp meets its group at a unit boundary, after a deferred trap that is due. -/
def execClamp (core slot : Nat) (s : State) : Out :=
  onGroup s core slot fun g =>
    if !g.clampPend ∨ g.ending ∨ s.isDet g ∨ s.standing g ∨ !s.boundary g ∨ g.deferDue then s else s.clampNow core slot

/-- PREEMPTION_DEADLINE (R415): at once, whatever its landing or its wait; a group of a deterministic launch finishes the unit it has begun
(R390, R410). A save that a fault has stopped has not saved the group (R411). A deferred trap that is due comes first (R408). -/
def execPreemptionDeadline (core slot : Nat) (s : State) : Out :=
  onGroup s core slot fun g =>
    match g.clampAt with
    | none => s
    | some t =>
      if t + 65536 > s.clock ∨ g.halted ∨ s.frozen.contains core ∨ (s.isDet g ∧ !g.atBoundary) ∨
          ((s.team? g.team).elim true fun t => t.saving.isSome && !t.saveBad) then s
      else if s.deferNow g then s.deliverDeferred core slot
      else
        let f := (g.nextFrag (s.isDet g)).getD (g.waitingFrag.getD (g.liveFrags.headD 0))
        (s.setGroup { g with clampAt := none, clampPend := false }).hardPreempt core slot f 3#2 (g.frag f).pc

/-- The fetch of a fragment has a PAGE record that is not resolved (R397, R407). -/
def State.fetchHeld (s : State) (g : Group) (f : Frag) : Bool := f.fetchRec.elim false fun t => !s.resolved g.part t

/-- A group has a fragment that may issue, which no fetch holds (R366, R397): the one whose word holds the whole group, where one does
(R232, R233). One whose quantum has ended waits for its commit (R377). What the scoreboard or an order holds shows when its word is
tried, which `State.idle` does: such a group starts its count of R99 again. -/
def State.isReady (s : State) (g : Group) : Bool :=
  !s.standing g && !g.ending && g.parkCut.isNone && !(s.isDet g && (g.qdone || g.commit.isSome)) &&
    (List.range 4).any fun i =>
      g.groupHeld.elim true (· == i) && (g.frag i).state == .ready && decide ((g.frag i).nextIssue ≤ s.clock) && !s.fetchHeld g (g.frag i)

/-- ISSUE_AGEING_PROMOTION (R99): a class for each 4,096 cycles, up to class 3. -/
def execIssueAgeingPromotion (core slot : Nat) (s : State) : Out :=
  onGroup s core slot fun g =>
    let cls := (s.launch? g.team.uid).elim 0 (·.cls)
    if s.isReady g ∧ g.readyAt + 4096 * (g.boost + 1) < s.clock ∧ cls + g.boost < 3 then
      s.modGroup core slot fun g => { g with boost := g.boost + 1 }
    else s

/-- DEFERRED_TRAP_DELIVERY (R400, R403). -/
def execDeferredTrapDelivery (core slot : Nat) (s : State) : Out :=
  onGroup s core slot fun g =>
    if s.deferNow g then s.deliverDeferred core slot else s

/-- A value of HEAD is taken over (R404), and the records it passes are resolved (R407). -/
def Partition.takeHead (p : Partition) (h : BitVec 32) : Partition :=
  let left := p.tqTail - h
  if left.toNat > (p.tqTail - p.tqHead).toNat then p
  else { p with
    tqHead := h
    recs := p.recs.filter fun r => match r.admitted with
      | some q => decide ((q - h).toNat < 2 ^ 31)
      | none => true }

/-- TRAP_QUEUE_HEAD_WRITE (R404, R406, R407): the device sees HEAD; records that wait enter the slots it frees. -/
def execTrapQueueHeadWrite (part : Nat) (s : State) : Out :=
  if s.mgmt.devState = .frozen then .next s
  else match s.part? part with
    | none => .next s
    | some p =>
      if p.prep then .next s
      else
        match devRead s part 0 (p.tqcb + 24#64) 4 with
        | (.error _, _) => .next s
        | (.ok bs, t) =>
          let t1 := t.modPart part fun p => p.takeHead (BitVec.ofNat 32 (leValue bs))
          .next (t1.admitWaiting part 0 p.recs.length)

/-- EVENT_TIMER_EXPIRY (R151, R152): a count elapses, of core cycles, or of retired words in a deterministic launch. -/
def execEventTimerExpiry (core slot e : Nat) (s : State) : Out :=
  onGroup s core slot fun g =>
    match g.slotAt e with
    | none => s
    | some b =>
      let count := field b.desc 47 0
      let now := if s.isDet g then g.retired else s.clock
      if srcKind b.desc ≠ 5 ∨ count = 0 ∨ b.timerAt > now ∨ (!b.pers ∧ b.expiries ≠ 0) then s
      else
        let b1 := { b with pend := true, expiries := b.expiries + 1, timerAt := if b.pers then b.timerAt + count else b.timerAt }
        s.setGroup (g.setSlot e (some b1))

/-- The fragment parked in `wany` that has waited longest, the lowest of equals (R159). -/
def Group.longestParked (g : Group) : Option Nat :=
  (List.range 4).foldl (fun b i =>
    if (g.frag i).state = .inWany then
      match b with
      | none => some i
      | some j => if (g.frag i).parkedAt < (g.frag j).parkedAt then some i else some j
    else b) none

/-- A wanted slot is delivered to a parked fragment at a unit boundary; its handler issues 2 cycles later at the earliest (R158,
R159). -/
def State.deliverParked (s : State) (core slot : Nat) : State :=
  match s.group? core slot with
  | none => s
  | some g =>
    if g.landing.inres ∨ g.traps > 0 ∨ g.wanted = 0#8 ∨ !s.boundary g then s
    else
      match g.longestParked with
      | none => s
      | some f =>
        (s.deliverEvent core slot (lowBit g.wanted) f).modGroup core slot fun h =>
          h.modFrag f fun x => { x with nextIssue := max x.nextIssue (s.clock + 2) }

/-- WANY_DELIVERY (R158, R159); a deterministic group's is decided at its round's start (R379). -/
def execWanyDelivery (core slot : Nat) (s : State) : Out :=
  onGroup s core slot fun g => if s.isDet g ∨ s.standing g then s else s.deliverParked core slot

/-- The work of a group that has ended is drained (R115). -/
def State.workDone (s : State) (g : Group) : Bool :=
  g.ending && g.reqs == [] && g.copies == [] && g.gates == [] && g.bc.seals == [] && g.bm.seals == [] && g.bg.seals == [] &&
    g.staged == [] && g.commit.isNone && g.drain.isNone && g.deferred == [] && g.stopped.isNone && g.skip.isNone &&
    !((s.engine g.core).queue.any fun q => q.slot == g.slot)

/-- The cutting of a parked `yield` finds room: the word issues, and the group ends (R142). -/
def State.yieldNow (s : State) (g : Group) (cut : Cutting) (sectors : Nat) : State :=
  let units := g.ibud - 1
  let left := g.mbud - sectors
  let c := cut.clip units left
  let g1 : Group := { g with
    ibud := units - c.igrant, mbud := left - c.mgrant, icnt := g.icnt + 1, parkCut := none, lastIssue := s.clock + 1, lastCls := 0 }
  ((s.setGroup g1).endGroup g.core g.slot).yieldSend g.core g.team.uid c

/-- A group that has ended leaves its slot once its stream cursor is written back (R115, R328). -/
def State.freeSlot (s : State) (core slot : Nat) : State :=
  let s1 := (s.writeCursor core slot).modGroup core slot fun h => { h with cursor := none }
  match s1.group? core slot with
  | some h => if h.reqs = [] then s1.removeGroup h else s1
  | none => s1

/-- GROUP_END (R115, R142, R328); a group of a deterministic launch keeps its slot until the commit of its round ends (R393). -/
def execGroupEnd (core slot : Nat) (s : State) : Out :=
  onGroup s core slot fun g =>
    match g.parkCut with
    | some (_, cut, sectors) =>
      if !s.standing g ∧ g.lastIssue ≠ s.clock + 1 ∧ s.classFree core 0 ∧ s.yieldRoom core g.team.uid cut then s.yieldNow g cut sectors
      else s
    | none =>
      if s.isDet g ∨ !s.workDone g ∨ g.halted ∨ s.frozen.contains core ∨ s.savingTeam g then s
      else s.freeSlot core slot

/-- DEBUGGER_HALT (R408): at a unit boundary, after a deferred trap that is due there; the slice timer and the deadline freeze. -/
def execDebuggerHalt (core slot : Nat) (s : State) : Out :=
  onGroup s core slot fun g =>
    if g.halted ∨ !s.boundary g then s
    else (if s.deferNow g then s.deliverDeferred core slot else s).modGroup core slot fun h => { h with halted := true, haltAt := s.clock }

/-- A halt ends: what froze goes on (R408); the slice timer of a group that is stopped stays frozen (R402). -/
def Group.unhalt (g : Group) (clock : Nat) : Group :=
  let n := clock - g.haltAt
  { g with
    halted := false
    sliceAt := if g.sliceAt = 0 ∨ g.stopped.isSome then g.sliceAt else g.sliceAt + n
    clampAt := g.clampAt.map (· + n) }

/-- DEBUGGER_HALT_END (R408). -/
def execDebuggerHaltEnd (core slot : Nat) (s : State) : Out :=
  onGroup s core slot fun g => if g.halted then s.setGroup (g.unhalt s.clock) else s

/-- The group of a team that a record about the team names: group 0, or the first that is left (R418, R421). -/
def State.firstGroup (s : State) (k : TeamKey) : Option Group :=
  ((s.groupsOfTeam k).find? fun g => g.gidx == 0).or (s.groupsOfTeam k).head?

/-- A record about a team's group 0. (DESIGN CHOICE, log 24) -/
def State.teamRec (s : State) (k : TeamKey) (cause : Cause) (addr : Word) : Option TrapRec :=
  (s.firstGroup k).map fun g =>
    let f := g.liveFrags.headD 0
    { s.mkRec g f cause addr (g.frag f).mask (g.frag f).mask (g.frag f).pc with gidx := 0 }

/-- The records of a save that is done: BUDGET_HARD for the group that caused it (R136, R398), MIGRATE for a team that a
core fault moves (R421), which then waits for room on any core. -/
def State.afterSave (before : State) (s : State) (t : Team) : State :=
  let die := dieOf t.core
  let s1 := (before.groupsOfTeam t.key).foldl (fun s g =>
    if g.saving then
      let f := g.landing.frag.toNat
      let m := (g.frag f).mask
      (s.raiseReplay die { before.mkRec g f .budgetHard g.landing.value m m (g.frag f).pc with saved := true }).2
    else s) s
  if !t.migrating then s1
  else
    let old := (before.phys.find? fun x => x.1 == t.core).elim (t.core % 240) (·.2)
    let new := (Config.unstatedByte s1.draws).toNat
    let s2 : State := { s1 with draws := s1.draws + 1 }
    let s3 := match before.teamRec t.key .migrate (BitVec.ofNat 64 (new * 2 ^ 24 + old % 256 * 2 ^ 16 + t.core)) with
      | some r => s2.admitMigrate die { r with saved := true, info := 1#64 }
      | none => s2
    s3.modLaunch t.key.uid fun l => { l with
      waiting := l.waiting ++ [⟨t.key, [], s3.clock, false, false, none, none, t.saving, false⟩] }

/-- A save that a fault stops (R411): PAGE waits for its record; any other cause stops the groups of the teams in place, and is the trap of the
`ctxsv` that asked, or halts the partition. The fragment that such a stop names, which took no trap, is the lowest live one. (DEDUCED,
log 48) -/
def State.saveFault (s : State) (ts : List Team) (t : Team) (c : Cause) (v : Word) : State :=
  let mine := fun (k : TeamKey) => ts.any fun x => x.key == k
  if c = .page then
    match s.teamRec t.key .page v with
    | some r =>
      let (n, s1) := s.raiseReplay (dieOf t.core) { r with info := 1#64 }
      ts.foldl (fun s x => s.modTeam x.key fun y => { y with saveRec := some n }) s1
    | none => s
  else
    let asked := s.groups.any fun g => g.saves.any fun r => mine r.key
    let s0 := ts.foldl (fun s x => s.modTeam x.key fun y => { y with saveBad := true }) s
    let s1 : State := { s0 with groups := mapIf (fun g => mine g.team) (fun g => if g.stopped.isSome then { g with saving := false }
      else { g with saving := false, stopped := some (g.liveFrags.headD 0), stopAt := s.clock }) s0.groups }
    if !asked then s1.haltPart t.part 7
    else { s1 with groups := s1.groups.map fun g =>
      { g with saves := mapIf (fun r => mine r.key) (fun r => { r with bad := some (c, v) }) g.saves } }

/-- TEAM_SAVE (R410, R411): a deferred trap that is due in a group of the teams comes first (R408). -/
def execTeamSave (core slot : Nat) (s : State) : Out :=
  onGroup s core slot fun g =>
    match s.team? g.team with
    | none => s
    | some t =>
      let ts := s.saveMates t
      if t.saving.isNone ∨ t.saveBad ∨ !(t.saveRec.elim true (s.resolved t.part)) then s
      else match (ts.flatMap fun x => s.groupsOfTeam x.key).find? s.deferNow with
      | some h => s.deliverDeferred h.core h.slot
      | none =>
      if !s.readyToSave t then s
      else
        match s.saveTeams ts with
        | .ok s1 => ts.foldl (fun u x => s.afterSave u x) s1
        | .error (x, some (c, v)) => s.saveFault ts x c v
        | .error (_, none) => s

/-- The teams of a core, in the order they were placed. -/
def State.teamsOn (s : State) (core : Nat) : List Team := s.teams.filter fun t => t.core == core

/-- The team that holds the `n`-th of the granules a core's teams hold. -/
def holderOf : List Team → Nat → Option Team
  | [], _ => none
  | t :: r, n => if n < t.granules then some t else holderOf r (n - t.granules)

/-- The grid teams that start again with a team: its whole cluster team, or itself (R418). -/
def Team.unitKeys (t : Team) : List TeamKey :=
  if t.shape > 1 then (List.range t.shape).map fun j => { t.key with index := t.key.index / t.shape * t.shape + j } else [t.key]

/-- Queue ended grid teams of an idempotent launch to start again (R418). -/
def State.relaunchTeams (s : State) (ks : List TeamKey) : State :=
  ks.foldl (fun s k => s.modLaunch k.uid fun l => { l with
    waiting := l.waiting ++ [⟨k, [], s.clock, false, false, none, none, none, true⟩] }) s

/-- An uncorrectable pool error ends a team, or its cluster team (R418, R440). -/
def State.poolError (s : State) (t : Team) (offset : Nat) : State :=
  let ts := s.saveMates t
  let l := s.launch? t.key.uid
  let again := (l.elim false (·.record.idem)) && !t.key.origin && !(ts.any (·.relaunched))
  let n := t.unitKeys.length * l.elim 0 (·.record.groups)
  let r := s.teamRec t.key .scrub (BitVec.ofNat 64 offset)
  let s1 := if again then s.modLaunch t.key.uid fun l => { l with jobs := l.jobs + n } else s
  let s2 := ts.foldl (fun s x => s.discardTeam x.key) s1
  let s3 := if again then s2.relaunchTeams t.unitKeys else s2
  if l.elim false (·.super) then s3.haltPart t.part 5
  else match r with
    | some r => s3.enqueue (dieOf t.core) { r with relaunch := again }
    | none => s3

/-- POOL_UNCORRECTABLE_ERROR (R418): no rule says which granules a team holds, so the holder is free among the teams of the
core and its free granules. -/
def execPoolUncorrectableError (core offset : Nat) (s : State) : Out :=
  if s.mgmt.devState = .frozen then .next s
  else
    let s1 : State := { s with draws := s.draws + 1 }
    match holderOf (s.teamsOn core) (Config.heldGranule s.draws % Config.granules) with
    | some t => .next (s1.poolError t offset)
    | none => .next s1

/-- SLICE_UNCORRECTABLE_ERROR (R419): the sector is poisoned. -/
def execSliceUncorrectableError (sector : Nat) (s : State) : Out :=
  if s.mgmt.devState = .frozen ∨ s.poison.contains sector then .next s else .next { s with poison := s.poison ++ [sector] }

/-- A core is frozen (R420). -/
def State.freezeCore (s : State) (core : Nat) : State :=
  if s.frozen.contains core then s else { s with frozen := s.frozen ++ [core] }

/-- CORE_SELF_CHECK_ERROR (R420). -/
def execCoreSelfCheckError (core : Nat) (s : State) : Out :=
  if s.mgmt.devState = .frozen ∨ core ≥ Config.coresPerDie * s.variant.dies then .next s else .next (s.freezeCore core)

/-- CORE_ISSUE_WATCHDOG (R420): a ready group has issued nothing for 1,048,576 cycles. -/
def execCoreIssueWatchdog (core slot : Nat) (s : State) : Out :=
  onGroup s core slot fun g => if s.isReady g ∧ g.readyAt + 1048576 ≤ s.clock then s.freezeCore core else s

/-- The lowest standby core of a die (R421). -/
def State.nextStandby (s : State) (die : Nat) : Option Nat :=
  (s.standby.filter fun x => x.1 == die).foldl (fun b x => some (b.elim x.2 fun n => min n x.2)) none

/-- A frozen core's state moves to a standby core: its number and slots stand (R421), and every pending write completes (R53). -/
def State.migrate (s : State) (core new : Nat) : State :=
  let die := dieOf core
  let old := s.physOf core
  let s1 : State := { s with
    frozen := s.frozen.filter fun c => c != core
    standby := s.standby.filter fun x => !(x.1 == die && x.2 == new)
    phys := (s.phys.filter fun x => x.1 != core) ++ [(core, new)]
    groups := mapIf (fun g => g.core == core) Group.settle s.groups }
  let s2 := s1.blackBox die 0x07#8 0xFF [old, new, core]
  (s.teamsOn core).foldl (fun u t =>
    match s.teamRec t.key .migrate (BitVec.ofNat 64 (new % 256 * 2 ^ 24 + old % 256 * 2 ^ 16 + core)) with
    | some r => u.admitMigrate die r
    | none => u) s2

/-- The teams of a frozen core without a standby core are saved (R421), with their cluster teams, whose cores that are not frozen go on
serving peer accesses (R422). -/
def State.evacuate (s : State) (core : Nat) : State :=
  let old := s.physOf core
  let s1 : State := { s.blackBox (dieOf core) 0x07#8 0xFF [old, (Config.unstatedByte s.draws).toNat, core] with
    draws := s.draws + 1, dead := s.dead ++ [core] }
  (s.teamsOn core).foldl (fun u t => (s.saveMates t).foldl (fun u x => u.modTeam x.key fun y => { y with migrating := true })
    (u.askSave t.key none)) s1

/-- MIGRATION_COMPLETE (R421): after the matrix operations of the core are complete (R314); once for a core that has no standby core to
move to. -/
def execMigrationComplete (core : Nat) (s : State) : Out :=
  if s.mgmt.devState = .frozen ∨ !s.frozen.contains core then .next s
  else match s.nextStandby (dieOf core) with
    | some new => if (s.engine core).queue = [] ∧ !s.dead.contains core then .next (s.migrate core new) else .next s
    | none => if s.dead.contains core then .next s else .next (s.evacuate core)

end Sys2Proof.Machine
end

