-- ==== Sys2Proof/Machine/DispatchEvents.lean ====
section
/-! DEFINITION. Machine/DispatchEvents.lean: host queues (R352, R353), acceptance, start and completion of launches (R354 to
R361, R374, R375), placement (R363), the nurseries (R371), and the rounds of deterministic launches (R377 to R390). -/

namespace Sys2Proof.Machine

/-- A host queue of a partition; one the host has not written is at its reset (R352). -/
def Partition.queueAt (p : Partition) (n : Nat) : Queue := (p.queues.find? fun x => x.1 == n).elim ⟨0#64, false, false, 0#8, 0, 0#32, 0#32⟩ (·.2)

/-- Put back a host queue. -/
def Partition.setQueue (p : Partition) (n : Nat) (q : Queue) : Partition :=
  { p with queues := (p.queues.filter fun x => x.1 != n) ++ [(n, q)] }

/-- Change a host queue of a partition. -/
def State.modQueue (s : State) (part n : Nat) (f : Queue → Queue) : State :=
  s.modPart part fun p => p.setQueue n (f (p.queueAt n))

/-- A host write of QCTL (R352): LOG2N while EN is 0 and in range, EN, ERR by a 1. -/
def Queue.writeCtl (q : Queue) (v : Word) : Queue :=
  let n := field v 4 0
  { q with
    en := v.getLsbD 31
    err := q.err && !v.getLsbD 30
    log2n := if q.en ∨ n > 16 then q.log2n else n }

/-- A host write of QBASE: ignored while EN is 1 (R352). -/
def Queue.writeBase (q : Queue) (v : Word) : Queue := if q.en then q else { q with qbase := v &&& 0x007FFFFFFFFFFF00#64 }

/-- A host write of QTAIL (R353). -/
def Queue.writeTail (q : Queue) (v : Word) : Queue := { q with tail := v.setWidth 32 }

/-- The wait tokens of launches are to be read again (R358). -/
def State.lookAgain (s : State) (p : Launch → Bool) : State := { s with launches := mapIf p (fun l => { l with look := true }) s.launches }

/-- A host queue stops on an error (R353, R450, R462). -/
def State.queueError (s : State) (part n code : Nat) : State :=
  ((s.modQueue part n fun q => { q with err := true, ecode := BitVec.ofNat 8 code }).irq (some part) 0).blackBox 0 0x0B#8 part [n, code]

/-- The black box's payload for a launch: LID, and the queue, or 64 for a device or a supervisor launch (R462). -/
def Launch.boxed (l : Launch) : List Nat := [l.record.lid.toNat, l.queue.getD 64]

/-- A launch is accepted (R357, R364, R374). -/
def State.accept (s : State) (p : Partition) (r : LaunchRec) (cls : Nat) (queue : Option Nat) (super : Bool) : State :=
  let home := s.homeDie p
  let l : Launch :=
    { uid := s.nextUid, part := p.num, record := r, seed := p.seed, super := super, cls := cls, home := home, queue := queue,
      started := false, jobs := r.teams * r.groups, sent := 0, received := 0, sample := none, serial := 0, round := 0,
      tokenRec := none, look := true, clampAll := false, commits := false, waiting := [], done := false }
  ({ s with launches := s.launches ++ [l], nextUid := s.nextUid + 1 }).blackBox home 0x05#8 p.num l.boxed

/-- Another launch of the partition is bound to the session of a record (R327). -/
def State.sessionTaken (s : State) (part : Nat) (r : LaunchRec) : Bool :=
  r.sess && s.launches.any fun l => l.part == part && !l.done && l.record.sess && l.record.sid == r.sid

/-- The queue processor takes the record at HEAD of a host queue (R353). -/
def State.acceptHost (s : State) (p : Partition) (n : Nat) : State :=
  let q := p.queueAt n
  if !q.en ∨ q.err ∨ q.head = q.tail ∨ q.log2n = 0 then s
  else if (q.tail - q.head).toNat > 2 ^ q.log2n then s.queueError p.num n 2
  else
    match devRead s p.num (s.homeDie p) (q.qbase + BitVec.ofNat 64 (256 * (q.head.toNat % 2 ^ q.log2n))) 256 with
    | (.error none, _) => s
    | (.error (some _), t) => t.queueError p.num n 3
    | (.ok bs, t) =>
      let r := readRecord bs
      if !t.recordOk p.num bs then t.queueError p.num n 1
      else if t.sessionTaken p.num r then s
      else (t.modQueue p.num n fun q => { q with head := q.head + 1#32 }).accept p r r.prio (some n) false

/-- The oldest record of the device queue is taken (R368). -/
def State.acceptDevice (s : State) (p : Partition) : State :=
  match p.devQ with
  | [] => s
  | (r, cls) :: rest =>
    if s.sessionTaken p.num r then s
    else (s.modPart p.num fun p => { p with devQ := rest }).accept p r cls none false

/-- LAUNCH_RECORD_ACCEPT (R353, R368): host queues 0 to 63, and 64 for the device queue. (DESIGN CHOICE, log 51) -/
def execLaunchRecordAccept (part queue : Nat) (s : State) : Out :=
  if s.mgmt.devState = .frozen then .next s
  else match s.part? part with
    | none => .next s
    | some p => if p.halted then .next s else .next (if queue < 64 then s.acceptHost p queue else s.acceptDevice p)

/-- A launch of the same host queue that was accepted earlier has not started (R354). -/
def State.earlierWaits (s : State) (l : Launch) : Bool :=
  l.queue.isSome && s.launches.any fun m => m.part == l.part && m.queue == l.queue && decide (m.uid < l.uid) && !m.started

/-- What the wait tokens of a launch answer (R358): every threshold reached, one not reached, one whose read waits behind a draining
entry (R433), or one that faults. -/
inductive Tokens where
  | reached
  | wait
  | held
  | fault (n : Nat) (addr : Word)
  deriving DecidableEq, Repr

/-- Read the wait tokens of a launch, all of them, in order up to one that faults (R358). -/
def State.readTokens (s : State) (l : Launch) : Tokens × State :=
  (List.range l.record.waits.length).foldl (fun (a : Tokens × State) i =>
    match a.1, l.record.waits[i]? with
    | .fault .., _ => a
    | .held, _ => a
    | _, none => a
    | was, some (addr, threshold) =>
      match devRead a.2 l.part l.home addr 8 with
      | (.error (some _), t) => (.fault i addr, t)
      | (.error none, t) => (.held, t)
      | (.ok bs, t) => (if leValue bs ≥ threshold.toNat then was else .wait, t)) (.reached, s)

/-- The PAGE record of a token read (R359). -/
def Launch.tokenPage (l : Launch) (n : Nat) (addr : Word) : TrapRec :=
  { pc := 0#64, addr := addr, fmask := 0#64, lmask := 0#64, lid := l.record.lid, tidx := 0xFFFFFFFF#32, cause := .page,
    replay := true, defer := false, origin := false, saved := false, relaunch := false, part := l.part, gidx := 0, frag := 0,
    handle := 0#64, info := BitVec.ofNat 64 (2 ^ 16 + n * 2 ^ 8), ticket := 0 }

/-- A launch starts: its grid teams wait for room (R358, R363). -/
def Launch.start (l : Launch) (clock : Nat) : Launch :=
  { l with
    started := true
    waiting := (List.range l.record.teams).map fun i => ⟨⟨l.uid, i, false⟩, [], clock, false, false, none, none, none, false⟩ }

/-- The dispatcher reads the tokens of a launch now (R358, R359): after its acceptance, a signal add of its partition or a write of a
QTAIL, and once the record of a read that faulted is resolved. -/
def State.readsTokens (s : State) (l : Launch) : Bool := l.tokenRec.elim l.look (s.resolved l.part)

/-- LAUNCH_START (R354, R358, R359). -/
def execLaunchStart (uid : Nat) (s : State) : Out :=
  if s.mgmt.devState = .frozen then .next s
  else match s.launch? uid with
    | none => .next s
    | some l =>
      if l.started ∨ l.done ∨ ((s.part? l.part).elim true (·.halted)) ∨ s.earlierWaits l ∨
          !s.readsTokens l then .next s
      else
        match s.readTokens l with
        | (.held, _) => .next s
        | (.wait, t) => .next (t.modLaunch uid fun l => { l with tokenRec := none, look := false })
        | (.reached, t) => .next (t.modLaunch uid fun l => { l with tokenRec := none, look := false }.start t.clock)
        | (.fault n addr, t) =>
          let (k, t1) := t.raiseReplay l.home (l.tokenPage n addr)
          let t2 := t1.modLaunch uid fun l => { l with tokenRec := some k }
          match l.queue with
          | some q => .next (t2.queueError l.part q 3)
          | none => .next t2

/-- TEAM_PLACEMENT (R362 to R364, R385): one unit, the highest-ranked that fits. A group that a nursery forms in a commit waits
for the round after it. -/
def execTeamPlacement (part : Nat) (s : State) : Out :=
  if s.mgmt.devState = .frozen then .next s
  else match s.part? part with
    | none => .next s
    | some p =>
      if p.halted then .next s
      else
        let ws := (s.waitingOf part).filter fun (l, w) => !(w.key.origin && w.image.isNone && l.commits)
        .next ((ws.findSome? fun (l, w) => s.placeUnit p l (l.unitOf w)).getD s)

/-- PLACEMENT_WAIT_LIMIT (R363): a team has waited 1,048,576 cycles. -/
def execPlacementWaitLimit (uid key : Nat) (origin : Bool) (s : State) : Out :=
  if s.mgmt.devState = .frozen then .next s
  else
    let k : TeamKey := ⟨uid, key, origin⟩
    .next (s.modLaunch uid fun l => { l with
      waiting := mapIf (fun w => w.key == k && decide (w.since + 1048576 ≤ s.clock)) (fun w => { w with blocking := true }) l.waiting })

/-- A bin is flushed into a group (R371). -/
def State.flushBin (s : State) (b : Bin) : State :=
  ({ s with bins := s.bins.filter fun x => !(x.die == b.die && x.uid == b.uid && x.entry == b.entry) }).formGroup b.die b.uid b.cuts

/-- NURSERY_IDLE_FLUSH (R371): 2,000 cycles without a cutting; never in a deterministic launch (R385). -/
def execNurseryIdleFlush (die uid entry : Nat) (s : State) : Out :=
  if s.mgmt.devState = .frozen then .next s
  else match s.bins.find? fun b => b.die == die && b.uid == uid && b.entry == entry with
    | none => .next s
    | some b =>
      if b.lastAt + 2000 > s.clock ∨ ((s.launch? uid).elim true (·.record.det)) then .next s else .next (s.flushBin b)

/-- The signal add of a launch that completes (R360); none when its counter cannot be read or written. (DESIGN CHOICE, log 58) -/
def State.signalAdd (s : State) (l : Launch) : Option State :=
  match l.record.signal with
  | none => some s
  | some (addr, n) =>
    match devRead s l.part l.home addr 8 with
    | (.error _, _) => none
    | (.ok bs, t) =>
      match devWrite t l.part l.home addr (leBytes 8 (leValue bs + n.toNat)) with
      | .ok u => some u
      | .error _ => none

/-- A launch is complete (R375); its signal add makes the partition's launches read their tokens (R358). -/
def State.complete (s : State) (l : Launch) : State :=
  match s.signalAdd l with
  | none => s
  | some t =>
    let t1 := t.lookAgain fun m => m.part == l.part && l.record.signal.isSome
    ((t1.modLaunch l.uid fun l => { l with done := true }).blackBox l.home 0x06#8 l.part l.boxed).freeSessions

/-- The partial bins of a launch are flushed (R371, R375), the one that has gone longest without a cutting first (DESIGN CHOICE,
log 66). -/
def State.flushAll (s : State) (uid : Nat) (p : Bin → Bool) : State :=
  (s.bins.filter fun b => b.uid == uid && p b).foldl (fun s b => s.flushBin b) s

/-- QUIESCENCE_SAMPLE (R375): the first sample, or the second at least 64 fabric cycles later. -/
def execQuiescenceSample (uid : Nat) (s : State) : Out :=
  if s.mgmt.devState = .frozen then .next s
  else match s.launch? uid with
    | none => .next s
    | some l =>
      let idle := !(s.groups.any fun g => g.team.uid == uid) && l.waiting == [] && l.sent == l.received && !l.commits
      let put := fun (x : Option (Nat × Nat × Nat)) => s.modLaunch uid fun l => { l with sample := x }
      if !l.started ∨ l.done ∨ ((s.part? l.part).elim true (·.halted)) then .next s
      else if !idle then .next (put none)
      else
        match l.sample with
        | none => .next (put (some (s.fclock, l.sent, l.received)))
        | some (t, a, b) =>
          if a ≠ l.sent ∨ b ≠ l.received then .next (put (some (s.fclock, l.sent, l.received)))
          else if s.fclock < t + 64 then .next s
          else if l.jobs ≠ 0 then .next ((put none).flushAll uid fun _ => true)
          else .next ((put none).complete l)

/-- The quantum of a deterministic launch (R378). -/
def State.quantum (s : State) (g : Group) : Nat := 2 ^ ((s.recordOf g).elim 0 (·.qlog))

/-- QUANTUM_END (R378): at the first unit boundary with Q words retired. -/
def execQuantumEnd (core slot : Nat) (s : State) : Out :=
  onGroup s core slot fun g =>
    if s.isDet g ∧ g.aside.isNone ∧ s.quantum g ≤ g.qcnt ∧ s.boundary g then s.endQuantum core slot else s

/-- A group's part of the running phase is over (R377 to R379): its quantum has ended, or nothing of it is ready. -/
def State.quantumOver (s : State) (g : Group) : Bool :=
  g.qdone || (g.nextFrag true).isNone || (g.aside.isNone && decide (s.quantum g ≤ g.qcnt) && s.boundary g)

/-- A load of the round is not performed (R380), or a copy has still to read or stage global bytes of it. (DEDUCED, log 65) -/
def Group.loadsOpen (g : Group) : Bool :=
  g.reqs.any (fun r => !r.isPiece && !r.performed) || g.copies.any fun c => c.st != .stopped && c.op.onGlobal

/-- The groups of a launch in the order of the commit (R382). -/
def State.commitOrder (s : State) (uid : Nat) : List Group :=
  sortBy (fun a b => listLe [a.team.origin.toNat, a.team.index, a.gidx] [b.team.origin.toNat, b.team.index, b.gidx])
    (s.groups.filter fun g => g.team.uid == uid)

/-- The commit of a round may take place (R377, R380, R385, R389): every live group has ended its quantum and none is saved,
stopped, halted or moving, no group waits for room, and no load is unperformed. -/
def State.roundOver (s : State) (l : Launch) (gs : List Group) : Bool :=
  !(s.saved.any fun x => x.team.key.uid == l.uid) && (l.commits || l.waiting == []) &&
    gs.all fun g => !s.standing g && s.quantumOver g && (!g.loadsOpen || g.qround != BitVec.ofNat 32 l.round)

/-- A staged write applied in a commit (R382, R384): in increasing lane number; a lane whose tag fails writes nothing, and
its group takes a deferred TAG. -/
def State.applyWrite (s : State) (core slot : Nat) (r : Request) : State :=
  let part := (s.group? core slot).elim 64 (·.part)
  let one := fun (a : List LaneAcc × State) (l : LaneAcc) =>
    match r.kind with
    | .red op => let (l1, t) := l.atomicOn a.2 op r.size true; (a.1 ++ [l1], t)
    | .tagst =>
      (a.1 ++ [{ l with st := .performed }], { a.2 with tags := sset a.2.tags (granule (l.pas.headD 0)) (l.data.setWidth 4) })
    | _ =>
      match tagMiss a.2 l.ea l.pas l.tpas with
      | some i => (a.1 ++ [l.failTag i], a.2)
      | none => (a.1 ++ [{ l with st := .performed }], writePas a.2 part l.pas (leBytes r.size l.data.toNat))
  let (ls, t) := r.lanes.foldl (fun a l => if l.st = .waiting then one a l else (a.1 ++ [l], a.2)) ([], s)
  let done := ls.flatMap fun l => if l.st = .performed then l.pas else []
  (clearPoison t done).modGroup core slot fun g => g.deferLanes r .tag { r with lanes := ls }.tagFails

/-- A lane of a request at the ticket unit is not translated. -/
def Request.unready (r : Request) : Bool := r.lanes.any fun l => l.st == .faulted || l.st == .draining

/-- A request whose lanes met PAGE or a draining entry is checked again once its record is resolved (R384, R407, R433). It
answers the request and whether it may be applied. -/
def State.readyWrite (s : State) (core slot : Nat) (g : Group) (r : Request) : Request × Bool × State :=
  if !r.unready then (r, true, s)
  else if !(r.ticket.elim true (s.resolved g.part)) then (r, false, s)
  else
    let (r1, bad, page, t) := recheck s g.part g.site r fun st => st == .faulted || st == .draining
    let t1 := t.modGroup core slot fun g => g.deferBad r1 bad
    match page with
    | some a =>
      let (k, t2) := t1.raisePage core slot r1 a (r1.lanesIn .faulted)
      ({ r1 with ticket := k }, false, t2)
    | none => ({ r1 with ticket := none }, !r1.unready, t1)

/-- A group that `spawn` starts in a commit is live from the next round (R377, R385). -/
def State.spawnStaged (s : State) (core uid round : Nat) (c : Cutting) : State :=
  let seq := s.nextSeq
  let t := s.spawnGroup core uid c
  { t with groups := mapIf (fun g => g.core == core && g.seq == seq) (fun g => { g with qround := BitVec.ofNat 32 (round + 1), qdone := true }) t.groups }

/-- A core has room for a group that `spawn` starts in a commit, with its peg allotment (R385, R386). -/
def State.spawnFits (s : State) (core : Nat) (r : LaunchRec) : Bool :=
  s.spawnRoom core r && decide (s.pegsOf false core (fun _ => true) + s.allotted false core + 8 ≤ Config.teamPegs)

/-- A piece of a copy applied in a commit (R292, R382, R384): one whose tag fails writes nothing, and its group takes a deferred TAG. -/
def State.applyPiece (s : State) (core slot : Nat) (pc : Word) (p : StagedPiece) : State :=
  match p.tag.bind fun x => (List.range p.pas.length).find? fun i => sget s.tags (granule (p.pas.getD i 0)) != x with
  | some i => s.modGroup core slot fun g => { g with
      deferred := g.deferred ++ [Deferred.mk .tag (p.ea + BitVec.ofNat 64 i) none pc true] }
  | none => clearPoison (writePas s ((s.group? core slot).elim 64 (·.part)) p.pas p.data) p.pas

/-- A cutting that a commit sends to the nursery of its die, in whose bin the round counts (R385). -/
def State.nurseryStaged (s : State) (core : Nat) (l : Launch) (c : Cutting) : State :=
  let t := s.nurseryAdd (dieOf core) l.uid c
  { t with bins := mapIf (fun b => b.die == dieOf core && b.uid == l.uid && b.entry == c.ent) (fun b => { b with lastAt := l.round }) t.bins }

/-- Apply one staged entry of a group (R382, R384, R385): none when the commit waits at it. The cutting of a `yield` goes to `spawn`
when the nursery has no room, as R142 says (DESIGN CHOICE, log 66). -/
def State.applyStaged (s : State) (core slot : Nat) (g : Group) (l : Launch) (e : Staged) : Except (Option Staged × State) State :=
  match e with
  | .write r =>
    match s.readyWrite core slot g r with
    | (r1, true, t) => .ok (t.applyWrite core slot r1)
    | (r1, false, t) => .error (some (.write r1), t)
  | .peer pos r => if (s.peerTeam g pos).elim false s.peerHeld then .error (none, s) else .ok (s.peerServe core slot g r pos true)
  | .copy _ _ ps pc => .ok (ps.foldl (fun t p => t.applyPiece core slot pc p) s)
  | .arrive h k =>
    match s.peg? g h with
    | some p => .ok (s.pegArrive p k 0)
    | none => .ok s
  | .cutting c false => if s.nurseryRoom (dieOf core) l.uid c then .ok (s.nurseryStaged core l c) else .error (none, s)
  | .yielded c =>
    if s.nurseryRoom (dieOf core) l.uid c then .ok (s.nurseryStaged core l c)
    else if s.spawnFits core l.record then .ok (s.spawnStaged core l.uid l.round c)
    else .error (none, s)
  | .cutting c true => if s.spawnFits core l.record then .ok (s.spawnStaged core l.uid l.round c) else .error (none, s)
  | .record r cls =>
    match s.part? l.part with
    | none => .ok s
    | some p =>
      if p.devQ.length ≥ Config.deviceQueue then .error (none, s)
      else .ok (s.modPart l.part fun p => { p with devQ := p.devQ ++ [(r, cls)] })

/-- What is left of a staged entry that has been applied: the place of a copy that a fault has stopped (R287). -/
def Group.carried (g : Group) : Staged → List Staged
  | .copy id ls _ pc => if g.copies.any fun c => c.id == id then [.copy id ls [] pc] else []
  | _ => []

/-- A staged entry has something to apply; the place that a stopped copy keeps has not. -/
def Group.due (g : Group) (e : Staged) : Bool := !(g.carried e).contains e

/-- Apply a group's staged entries in issue order, as many as go; at most `n`. -/
def State.applyAll (s : State) (core slot : Nat) (l : Launch) : Nat → State
  | 0 => s
  | n + 1 =>
    match s.group? core slot with
    | none => s
    | some g =>
      let kept := g.staged.takeWhile fun e => !g.due e
      match g.staged.drop kept.length with
      | [] => s
      | e :: rest =>
        match s.applyStaged core slot g l e with
        | .ok t => (t.modGroup core slot fun g => { g with staged := kept ++ g.carried e ++ rest }).applyAll core slot l n
        | .error (some e1, t) => t.modGroup core slot fun g => { g with staged := kept ++ e1 :: rest }
        | .error (none, t) => t

/-- Write the result of a commit-point word: its fragment's register, unless the fragment has ended. -/
def Group.commitS (g : Group) (frag : Nat) (d : BitVec 6) (v : Word) : Group :=
  if frag < 4 then g.modFrag frag fun f => { f.wr d v with pend := f.pend.filter fun p => !p.isS d } else g

/-- An access performed at its group's turn (R379, R382). -/
def State.commitAccess (s : State) (core slot : Nat) (g : Group) (r : Request) : State :=
  match r.kind with
  | .atomic op =>
    let (ls, t) := r.lanes.foldl (fun (a : List LaneAcc × State) l =>
      if l.st = .waiting then
        let (l1, t) := l.atomicOn a.2 op r.size false
        (a.1 ++ [l1], t)
      else (a.1 ++ [l], a.2)) ([], s)
    t.modGroup core slot fun g => g.respond { r with lanes := ls }
  | .peerLoad pos =>
    match s.peerTeam g pos with
    | none => s.modGroup core slot fun g => g.deferLanes r .peergone (r.lanes.map fun l => (l.ea, l.lane))
    | some p => s.modGroup core slot fun g => g.respond { r with lanes := r.lanes.map fun l =>
        { l with st := .performed, res := BitVec.ofNat 64 (leValue (readAt p.window l.pas)) } }
  | _ =>
    let (r1, t) := s.performLoad g false r (fun _ => true) (~~~0#64)
    t.modGroup core slot fun g => g.respond r1

/-- The commit-point word of a group (R379, R382, R385), or the wait for it. -/
def State.commitWord (s : State) (core slot : Nat) (g : Group) (w : CommitWord) : State :=
  let clear := fun (t : State) => t.modGroup core slot fun g => { g with commit := none }
  match w with
  | .access r =>
    match r.kind with
    | .peerLoad pos => if (s.peerTeam g pos).elim false s.peerHeld then s else clear (s.commitAccess core slot g r)
    | _ =>
      match s.readyWrite core slot g r with
      | (r1, true, t) => clear (t.commitAccess core slot g r1)
      | (r1, false, t) => t.modGroup core slot fun g => { g with commit := some (.access r1) }
  | .post target token d f =>
    if s.postHeld g target then s
    else
      match s.postTarget g target 0#64 with
      | .ok (some (k, n)) =>
        let (v, t) := s.postToken k n token
        clear (t.modGroup core slot fun g => g.commitS f d v)
      | _ => clear (s.modGroup core slot fun g => g.commitS f d 2#64)
  | .pegget cfg d f =>
    let (h, t) := s.pegAlloc g cfg
    clear (t.modGroup core slot fun g => g.commitS f d h)

/-- The oldest batch of a group that its round is to complete (R382, R383), with its class's code. -/
def Group.dueBatch (g : Group) : Option (Nat × Sealed) :=
  ([0, 1, 2].filterMap fun code =>
    ((g.batch (.ofCode code)).seals.head?.filter fun b => decide (b.round ≤ g.qround.toNat)).map fun b => (code, b)).foldl
    (fun (o : Option (Nat × Sealed)) x => match o with
    | none => some x
    | some y => if x.2.order < y.2.order then some x else o) none

/-- Complete the batches that a group's round sealed, in the order of their seals (R382), while the oldest has nothing outstanding; at
most `n` of them. -/
def State.completeDue (s : State) (core slot : Nat) : Nat → State
  | 0 => s
  | n + 1 =>
    match s.group? core slot with
    | none => s
    | some g =>
      match g.dueBatch with
      | none => s
      | some (code, b) =>
        if s.batchHeld g (.ofCode code) b then s else (s.completeBatch core slot code).completeDue core slot n

/-- A group's turn in the commit (R382): its staged entries, its commit-point word, its batches; it is over when nothing of
them is left. -/
def State.commitTurn (s : State) (l : Launch) (g : Group) : State :=
  let core := g.core
  let slot := g.slot
  let s1 := s.applyAll core slot l (g.staged.length + 1)
  match s1.group? core slot with
  | none => s1
  | some g1 =>
    if g1.staged.any g1.due then s1
    else
      let s2 := match g1.commit with
        | some w => s1.commitWord core slot g1 w
        | none => s1
      match s2.group? core slot with
      | none => s2
      | some g2 =>
        if g2.commit.isSome then s2
        else
          let s3 := s2.completeDue core slot (3 * Config.maxBatches)
          s3.modGroup core slot fun g3 => if g3.dueBatch.isSome then g3 else { g3 with qround := BitVec.ofNat 32 (l.round + 1) }

/-- The groups of a launch that have ended (R393). -/
def State.endedOf (s : State) (uid : Nat) : List Group := s.groups.filter fun g => g.team.uid == uid && g.ending

/-- What meets a group of a deterministic launch at a round boundary (R389, R408): a deferred trap that is due, then a pending clamp, unless the
group is stopped or halted or its team is already being saved, which another group of it has caused (R410). -/
def State.roundBoundary (s : State) (core slot : Nat) : State :=
  match s.group? core slot with
  | none => s
  | some g =>
    let t := if s.deferNow g then s.deliverDeferred core slot else s
    match t.group? core slot with
    | none => t
    | some h => if !h.clampPend ∨ t.standing h ∨ t.savingTeam h then t else t.clampDet core slot

/-- The commit of a round is complete (R377, R385, R389, R393): groups that have ended leave their slots, idle bins are flushed, the next
round starts, waits are decided, and deferred traps and pending clamps meet their groups. It waits for the work of the groups that have
ended. At a round's start one parked `wany` of a group at most gets a delivery (R175, R379: DESIGN CHOICE, log 66). -/
def State.nextRound (s : State) (l : Launch) : State :=
  let mine := fun (g : Group) => g.team.uid == l.uid
  if !(s.endedOf l.uid).all s.workDone then s
  else
    let s0 := (s.endedOf l.uid).foldl (fun s g => s.freeSlot g.core g.slot) s
    if !(s0.endedOf l.uid).isEmpty then s0
    else
      let s1 := s0.flushAll l.uid fun b => b.lastAt != l.round
      let s2 : State := { s1 with groups := mapIf mine (fun g =>
        { g with
          qdone := false
          qcnt := 0
          clampPend := g.clampPend || l.clampAll
          clampAt := if l.clampAll then g.clampAt.or (some s.clock) else g.clampAt }) s1.groups }
      let s3 := s2.modLaunch l.uid fun m => { m with round := l.round + 1, clampAll := false, commits := false }
      let s4 := (s3.groups.filter mine).foldl (fun s g => s.deliverParked g.core g.slot) s3
      let s5 : State := { s4 with groups := mapIf mine (fun g => { g with atRound := g.wanted }) s4.groups }
      (s5.groups.filter mine).foldl (fun s g => s.roundBoundary g.core g.slot) s5

/-- COMMIT_PHASE (R377, R382): the turn of the next group in key order, or the step to the next round. (DESIGN CHOICE, log 62) -/
def execCommitPhase (uid : Nat) (s : State) : Out :=
  if s.mgmt.devState = .frozen then .next s
  else match s.launch? uid with
    | none => .next s
    | some l =>
      let gs := s.commitOrder uid
      if !l.record.det ∨ !l.started ∨ l.done ∨ (gs.isEmpty ∧ !l.commits) ∨ !s.roundOver l gs then .next s
      else
        let s0 : State := { s with groups := mapIf (fun g => g.team.uid == uid) (fun g => { g with qdone := true }) s.groups }
        let s1 := s0.modLaunch uid fun l => { l with commits := true }
        match gs.find? fun g => g.qround != BitVec.ofNat 32 (l.round + 1) with
        | some g => .next (s1.commitTurn l g)
        | none => .next (s1.nextRound l)

end Sys2Proof.Machine
end

