-- ==== Sys2Proof/Machine/EngineEvents.lean ====
section
/-! DEFINITION. Machine/EngineEvents.lean: what the matrix engine does after an operation was accepted (R300, R302 to
R309, R315), and the completion of batches (R173). -/

namespace Sys2Proof.Machine

/-- BATCH_COMPLETE (R173): the oldest sealed batch of a class, once nothing of it is outstanding. Those of a
deterministic launch complete at its commit (R384). -/
def execBatchComplete (core slot cls : Nat) (s : State) : Out :=
  onGroup s core slot fun g =>
    match (g.batch (.ofCode cls)).seals with
    | [] => s
    | b :: _ => if s.isDet g ∨ s.batchHeld g (.ofCode cls) b then s else s.completeBatch core slot cls

/-- An event of a core's matrix engine: nothing happens while the clocks stand (R460); the engine of a frozen core completes its
operations (R314). -/
def onEngine (s : State) (core : Nat) (f : Engine → State) : Out :=
  if s.mgmt.devState = .frozen then .next s else .next (f (s.engine core))

/-- MATRIX_OP_START (R309, R310): the first operation that has not started, once those before it have consumed their
operands. -/
def execMatrixOpStart (core : Nat) (s : State) : Out :=
  onEngine s core fun e =>
    let (before, rest) := e.queue.span fun q => q.started.isSome
    match rest with
    | q :: r => if before.all (·.consumed) then s.setEngine { e with queue := before ++ { q with started := some s.clock } :: r } else s
    | [] => s

/-- MATRIX_OPERANDS_CONSUMED (R300, R310): the tiles as the group's words left them when the operation issued. -/
def execMatrixOperandsConsumed (core : Nat) (s : State) : Out :=
  onEngine s core fun e =>
    let (before, rest) := e.queue.span (·.consumed)
    match rest with
    | q :: r =>
      match q.started, s.group? core q.slot with
      | some _, some g =>
        s.setEngine { e with queue := before ++ { q with consumed := true, dataA := g.tile q.ta, dataB := g.tile q.tb } :: r }
      | _, _ => s
    | [] => s

/-- The format of a floating-point multiply type (R301, R302). -/
def mmaFormat (ty : Nat) : Fmt := if ty = 0 then .bf16 else if ty = 1 then .f16 else .f32

/-- Round to FP32 as the engine does: to nearest even, whatever the group's mode (R304). -/
def rneF32 (v : FVal) : Nat := (Fmt.f32.round 1 false v).1

/-- An FP32 encoding as a value, subnormals honoured (R304). -/
def valF32 (x : Nat) : FVal := Fmt.f32.decode false x

/-- The FP32 sum of an accumulator word and an FP32 value, rounded once (R302, R304, R307). -/
def accAdd (acc : BitVec 32) (x : Nat) : BitVec 32 :=
  BitVec.ofNat 32 (rneF32 ((valF32 acc.toNat).add 1 (valF32 x)).1)

/-- The exact sum of products (R302): a zero sum is −0 only when every product is (R304). -/
def dot : List (FVal × FVal) → FVal
  | [] => .zero false
  | p :: r => r.foldl (fun x q => (x.add 1 (q.1.mul q.2).1).1) (p.1.mul p.2).1

/-- The indices of chunk `j` of `size` (R302, R307). -/
def chunk (k size j : Nat) : List Nat := (List.range k).filter fun i => i / size == j

/-- A word of a floating-point multiply (R302): chunks in increasing k. -/
def MatOp.fpWord (q : MatOp) (i n : Nat) (acc : BitVec 32) : BitVec 32 :=
  let f := mmaFormat q.ty
  let size := if q.ty = 4 then 4 else 16
  let k := q.shapeA.cols
  (List.range ((k + size - 1) / size)).foldl (fun acc j =>
    accAdd acc (rneF32 (dot ((chunk k size j).map fun k =>
      (f.decode false (tileElem q.dataA q.shapeA i k), f.decode false (tileElem q.dataB q.shapeB n k)))))) acc

/-- A signed element of a tile (R303). -/
def tileInt (m : SMap 8) (t : TileShape) (r j : Nat) : Int := signedElem t.width (tileElem m t r j)

/-- Limit an integer to 32 signed bits (R303). -/
def satI32 (x : Int) : BitVec 32 := BitVec.ofInt 32 (max (-(2 ^ 31)) (min x (2 ^ 31 - 1)))

/-- A word of an integer multiply (R303): .i8 and .i4 saturate, .z32 wraps. -/
def MatOp.intWord (q : MatOp) (i n : Nat) (acc : BitVec 32) : BitVec 32 :=
  if q.ty = 5 then
    acc + BitVec.ofNat 32 ((List.range q.shapeA.cols).foldl (fun x k =>
      x + tileElem q.dataA q.shapeA i k * tileElem q.dataB q.shapeB n k) 0)
  else
    satI32 (acc.toInt + (List.range q.shapeA.cols).foldl (fun x k =>
      x + tileInt q.dataA q.shapeA i k * tileInt q.dataB q.shapeB n k) 0)

/-- An integer as an exact value; 0 is +0 (R304). -/
def valInt (x : Int) : FVal := .fin (decide (x < 0)) x.natAbs 0 false

/-- A word of an asymmetric multiply (R307, R308): chains in increasing order. -/
def MatOp.quantWord (q : MatOp) (size i n : Nat) (acc : BitVec 32) : BitVec 32 :=
  let ng := q.shapeA.cols / size
  (List.range ng).foldl (fun acc j =>
    let za := q.za.getD (i * ng + j) 0
    let zb := q.zb.getD (n * ng + j) 0
    let x := (chunk q.shapeA.cols size j).foldl (fun x k =>
      x + (tileInt q.dataA q.shapeA i k - za) * (tileInt q.dataB q.shapeB n k - zb)) 0
    let scale := fun (l : List (BitVec 16)) (m : Nat) => Fmt.f16.decode false (l.getD m 0#16).toNat
    let u := ((scale q.sa (i * ng + j)).mul (scale q.sb (n * ng + j))).1
    accAdd acc (rneF32 (u.mul (valF32 (rneF32 (valInt x)))).1)) acc

/-- A word of an accumulator after an operation. -/
def MatOp.word (q : MatOp) (i n : Nat) (acc : BitVec 32) : BitVec 32 :=
  match q.quant with
  | some size => q.quantWord size i n acc
  | none => if q.ty = 0 ∨ q.ty = 1 ∨ q.ty = 4 then q.fpWord i n acc else q.intWord i n acc

/-- An accumulator after an operation: its active rows below M, their words below N (R295, R301). -/
def MatOp.apply (q : MatOp) (m : SMap 32) : SMap 32 :=
  ssetAll m (((lanesOf q.rows).filter fun i => decide (i < q.shapeA.rows)).flatMap fun i =>
    (List.range q.shapeB.rows).map fun n => (64 * i + n, q.word i n (sget m (64 * i + n))))

/-- MATRIX_OP_COMPLETE (R309): the oldest operation, once it has consumed its operands. -/
def execMatrixOpComplete (core : Nat) (s : State) : Out :=
  onEngine s core fun e =>
    match e.queue with
    | q :: r =>
      if q.consumed then
        (s.setEngine { e with queue := r }).modGroup core q.slot fun g => g.setAcc q.acc (q.apply (g.acc q.acc))
      else s
    | [] => s

/-- A group loses its work to a reset of the engine (R315): accumulators, bindings, and MXRESET pending. -/
def Group.matrixReset (g : Group) (pc : Word) (reason : Word) : Group :=
  { g with
    accs := Vector.replicate 8 []
    binds := Vector.replicate 8 []
    deferred := g.deferred ++ [Deferred.mk .mxreset reason none pc false] }

/-- The engine of a core is reset (R315): 1 for the watchdog, 2 for an error. -/
def State.matrixReset (s : State) (core : Nat) (reason : Word) : State :=
  let e := s.engine core
  let s1 := s.setEngine ⟨core, [], true⟩
  let hit := s1.groups.filter fun g => g.core == core && (e.queue.any (fun q => q.slot == g.slot) || (List.range 8).any fun n => !(g.bind n).isEmpty)
  hit.foldl (fun s g =>
    let pc := ((e.queue.find? fun q => q.slot == g.slot).map (·.pc)).getD g.lastMma
    let s1 := if s.isDet g then s else s.completeReady core g.slot 1 (fun _ => true) (g.bm.seals.length)
    s1.modGroup core g.slot fun h => h.matrixReset pc reason) s1

/-- MATRIX_WATCHDOG (R315): an operation has not completed 65,536 cycles after its start. -/
def execMatrixWatchdog (core : Nat) (s : State) : Out :=
  onEngine s core fun e =>
    if e.queue.any fun q => q.started.elim false fun t => decide (t + 65536 ≤ s.clock) then s.matrixReset core 1#64 else s

/-- MATRIX_ENGINE_ERROR (R315). -/
def execMatrixEngineError (core : Nat) (s : State) : Out := onEngine s core fun _ => s.matrixReset core 2#64

/-- MATRIX_RESET_END (R315). -/
def execMatrixResetEnd (core : Nat) (s : State) : Out :=
  onEngine s core fun e => if e.resetting then s.setEngine { e with resetting := false } else s

end Sys2Proof.Machine
end

