-- ==== Sys2Proof/Machine/Sha512.lean ====
section
/-! DEFINITION. Machine/Sha512.lean: SHA-512, which R458 names for the digest of a descriptor (PRESUMED: the algorithm is the
public standard's, not this spec's). Its constants are the first fractional bits of roots of primes. -/

namespace Sys2Proof.Machine

/-- The largest x below 2^n, added to `lo`, whose k-th power is at most y. -/
def rootFrom (k y : Nat) : Nat → Nat → Nat
  | 0, lo => lo
  | n + 1, lo => if (lo + 2 ^ n) ^ k ≤ y then rootFrom k y n (lo + 2 ^ n) else rootFrom k y n lo

/-- The first 64 bits of the fraction of the k-th root of a number. -/
def rootBits (k p : Nat) : Word := BitVec.ofNat 64 (rootFrom k (p * 2 ^ (64 * k)) 70 0)

/-- The first 80 primes. -/
def primes80 : List Nat := ((List.range 410).filter fun n => decide (2 ≤ n) && (List.range n).all fun d => decide (d < 2) || n % d != 0).take 80

/-- The schedule's first 16 words, the message words from the oldest on, as a window that moves by one. -/
def shaNext (w : List Word) : Word :=
  let at' := fun (i : Nat) => w.getD i 0#64
  let s0 := (at' 1).rotateRight 1 ^^^ (at' 1).rotateRight 8 ^^^ (at' 1 >>> 7)
  let s1 := (at' 14).rotateRight 19 ^^^ (at' 14).rotateRight 61 ^^^ (at' 14 >>> 6)
  at' 0 + s0 + at' 9 + s1

/-- One round on the eight working words. -/
def shaRound (v : List Word) (k w : Word) : List Word :=
  let at' := fun (i : Nat) => v.getD i 0#64
  let s1 := (at' 4).rotateRight 14 ^^^ (at' 4).rotateRight 18 ^^^ (at' 4).rotateRight 41
  let ch := (at' 4 &&& at' 5) ^^^ (~~~(at' 4) &&& at' 6)
  let t1 := at' 7 + s1 + ch + k + w
  let s0 := (at' 0).rotateRight 28 ^^^ (at' 0).rotateRight 34 ^^^ (at' 0).rotateRight 39
  let maj := (at' 0 &&& at' 1) ^^^ (at' 0 &&& at' 2) ^^^ (at' 1 &&& at' 2)
  [t1 + (s0 + maj), at' 0, at' 1, at' 2, at' 3 + t1, at' 4, at' 5, at' 6]

/-- One block of 16 words. -/
def shaBlock (ks h block : List Word) : List Word :=
  let (v, _) := ks.foldl (fun (a : List Word × List Word) k =>
    (shaRound a.1 k (a.2.headD 0#64), a.2.drop 1 ++ [shaNext a.2])) (h, block)
  (h.zip v).map fun x => x.1 + x.2

/-- The words of bytes, the highest byte first. -/
def shaWords (bs : List Byte) (n : Nat) : List Word :=
  (List.range n).map fun i => BitVec.ofNat 64 (leValue ((bs.drop (8 * i)).take 8).reverse)

/-- SHA-512 of bytes: 64 bytes. (PRESUMED, log 15) -/
def sha512 (bs : List Byte) : List Byte :=
  let zeros := (128 - (bs.length + 17) % 128) % 128
  let msg := bs ++ [0x80#8] ++ List.replicate zeros 0#8 ++ (leBytes 16 (8 * bs.length)).reverse
  let ks := primes80.map (rootBits 3)
  let h := (List.range (msg.length / 128)).foldl (fun h i => shaBlock ks h (shaWords ((msg.drop (128 * i)).take 128) 16))
    ((primes80.take 8).map (rootBits 2))
  h.flatMap fun w => (leBytes 8 w.toNat).reverse

end Sys2Proof.Machine
end

