-- ==== Sys2Proof/Machine/HostEvents.lean ====
section
/-! DEFINITION. Machine/HostEvents.lean: registers of the physical function (R455, R456), the management commands (R434 to R441, R456 to
R458, R460 to R463), bring-up (R14, R15, R459). -/

namespace Sys2Proof.Machine

/-- The writable bits of a peer window entry (R455). -/
def peerWinMask : Word := 0x80FFFFF80007FFFF#64

/-- A write of a peer window entry (R455): ignored where there are no peer ports. -/
def State.writePeerWin (s : State) (offset : Nat) (v : Word) : State :=
  let port := (offset - 0x4000) / 512
  let index := (offset - 0x4000) % 512 / 8
  if !s.variant.hasPeer then s
  else { s with peerWins := (s.peerWins.filter fun w => !(w.port == port && w.index == index)) ++ [⟨port, index, v &&& peerWinMask⟩] }

/-- A write of a command register (R456): OPCODE and GO; ignored while GO is set. -/
def writeCommand (old v : Word) : Word := if old.getLsbD 63 then old else v &&& 0x800000000000FFFF#64

/-- A write of PF BAR0 (R455, R456); offsets not listed and read-only registers ignore it. -/
def State.writePf (s : State) (offset : Nat) (v : Word) : State :=
  if 0x4000 ≤ offset ∧ offset < 0x5000 then s.writePeerWin offset v
  else if offset = 0x0100 then { s with mgmt := { s.mgmt with command := writeCommand s.mgmt.command v } }
  else if 0x1000 ≤ offset ∧ offset < 0x2000 ∧ !s.mgmt.command.getLsbD 63 then
    { s with mgmt := { s.mgmt with buffer := writeBytes s.mgmt.buffer (offset - 0x1000) (leBytes 8 v.toNat) } }
  else s

/-- The blocks of the attached tier-2 memory in use: at most 16 TiB, 8 TiB on the KN-480 (R1, R23, R454). -/
def tier2Blocks (v : Variant) : Nat := min Config.tier2Blocks (if v = .kn480 then 2 ^ 14 else 2 ^ 15)

/-- The capability block (R2, R23, R456). -/
def State.capBlock (s : State) : List Byte :=
  let m := s.mgmt
  let state := match m.devState with
    | .booting => 0
    | .recovery => 1
    | .ready => 2
    | .frozen => 3
  leBytes 8 (s.variant.capBits false) ++ leBytes 1 state ++ [m.pkgid] ++ leBytes 1 s.parts.length ++ leBytes 1 0 ++ leBytes 4 m.fwver ++
    leBytes 4 m.cfgver ++ leBytes 2 m.rollfw ++ leBytes 2 m.rollcfg ++ leBytes 8 (tier1Size s.variant) ++
    leBytes 8 (tier2Blocks s.variant * 2 ^ 29) ++ leBytes 8 m.cecnt.toNat ++ leBytes 4 m.power ++ leBytes 2 m.pcap ++ leBytes 2 m.tmax ++
    (List.range 4).flatMap fun d => leBytes 1 (s.standby.filter fun x => x.1 == d).length

/-- A peer window entry as it reads (R455): zero where there are no peer ports (R4). -/
def State.readPeerWin (s : State) (offset : Nat) : Word :=
  let port := (offset - 0x4000) / 512
  let index := (offset - 0x4000) % 512 / 8
  if s.variant.hasPeer then (s.peerWins.find? fun w => w.port == port && w.index == index).elim 0#64 (·.value) else 0#64

/-- A read of PF BAR0 (R455, R456); offsets not listed read 0. -/
def State.readPf (s : State) (offset : Nat) : Word :=
  if offset < 0x100 then BitVec.ofNat 64 (fieldAt s.capBlock offset 8)
  else if offset = 0x0100 then s.mgmt.command
  else if offset = 0x0108 then s.mgmt.status
  else if 0x1000 ≤ offset ∧ offset < 0x2000 then BitVec.ofNat 64 (readLE s.mgmt.buffer (offset - 0x1000) 8)
  else if 0x4000 ≤ offset ∧ offset < 0x5000 then s.readPeerWin offset
  else 0#64

/-- Something leaves the device. -/
def State.out (s : State) (x : HostOut) : State := { s with hostOut := s.hostOut ++ [x] }

/-- What a command answers: its status, its result, and the state after. -/
abbrev Answer := Nat × List Byte × State

/-- The end of a command (R450, R456): GO clears, the status and the results stand, and the physical function is told, of a command of a
mailbox too. -/
def State.answer (a : Answer) (fn : Option Nat) : State :=
  let (status, result, s) := a
  let st := BitVec.ofNat 64 status
  let s1 := match fn with
    | none => { s with mgmt := { s.mgmt with
        command := s.mgmt.command &&& 0xFFFF#64, status := st, buffer := writeBytes s.mgmt.buffer 0 result } }
    | some p => s.modPart p fun q => { q with
        command := q.command &&& 0xFFFF#64, status := st, buffer := writeBytes q.buffer 0 result }
  (if result = [] then s1 else s1.out (.data fn result)).irq none 0

/-- A command of the physical function (R456, R459): none is accepted while the device boots, and in recovery only FLASH; one that
answers none yet keeps GO at 1, and its event comes again. (DESIGN CHOICE, log 53) -/
def commandOr (s : State) (f : State → Option Answer) : Out :=
  match s.mgmt.devState with
  | .booting => .next s
  | .ready => .next ((f s).elim s fun a => State.answer a none)
  | _ => .next (State.answer (1, [], s) none)

/-- A command of the physical function that answers at once. -/
def command (s : State) (f : State → Answer) : Out := commandOr s fun s => some (f s)

/-- The controller and the secure-element die run (R460): the device is ready or frozen. -/
def State.serves (s : State) : Bool := s.mgmt.devState == .ready || s.mgmt.devState == .frozen

/-- A command that needs the controller and the secure-element die alone, for the physical function: on a frozen device too (R460). -/
def service (s : State) (f : State → Answer) : Out :=
  if s.mgmt.devState = .frozen then .next (State.answer (f s) none) else command s f

/-- Set bits of a byte string, from bit 0 of byte 0. -/
def bitsOf (bs : List Byte) : List Nat :=
  (List.range bs.length).flatMap fun i => (List.range 8).filterMap fun j => if (bs.getD i 0#8).getLsbD j then some (8 * i + j) else none

/-- A part of a block of bytes. -/
def sliceOf (bs : List Byte) (at' n : Nat) : List Byte := (bs.drop at').take n

/-- The partition of a descriptor, before its supervisor is placed (R435, R436): its registers are at their resets (R451). (DESIGN CHOICE, log 14) -/
def State.newPartition (s : State) (d : List Byte) : Partition :=
  { num := fieldAt d 0 1, desc := d, ptroot := fieldAt d 8 8, tqcb := BitVec.ofNat 64 (fieldAt d 16 8),
    suprec := BitVec.ofNat 64 (fieldAt d 24 8), tdef := BitVec.ofNat 32 (fieldAt d 32 4), slice := fieldAt d 36 4,
    clusters := bitsOf (sliceOf d 40 32), q1 := bitsOf (sliceOf d 72 512), q2 := bitsOf (sliceOf d 584 4096), key := s.keys,
    prep := true, halted := false, haltcode := 0#8, herr := false, seed := 0#64, w2base := 0#19, queues := [], devQ := [],
    tqBase := 0#64, tqLog := 0, tqTail := 0#32, tqHead := 0#32, held := [], nextTick := 0, recs := [], drains := [], command := 0#64,
    status := 0#64, buffer := [] }

/-- A creation is refused (R436): a reserved byte, a part another partition holds, PTROOT outside the quota, no cluster, more
of tier 2 than is attached, or a part that this device does not have. -/
def State.createBad (s : State) (p : Partition) (d : List Byte) : Bool :=
  let shared := fun (f : Partition → List Nat) => (f p).any fun x => s.parts.any fun q => (f q).contains x
  decide (p.num ≥ 64) || fieldAt d 1 7 != 0 || (bitsOf (sliceOf d 70 2)) != [] || (s.part? p.num).isSome ||
    shared (·.clusters) || shared (·.q1) || shared (·.q2) || p.ptroot % 65536 != 0 || !inQuota s.variant p p.ptroot ||
    p.clusters.isEmpty || (p.clusters.any fun k => decide (k / 60 ≥ s.variant.dies)) ||
    (p.q1.any fun b => decide (b * 2 ^ 29 ≥ tier1Size s.variant)) || p.q2.any fun b => decide (b ≥ tier2Blocks s.variant)

/-- The quota's memory is zero, with every tag 0 (R436 step 2). -/
def State.wipe (s : State) (p : Partition) : State :=
  { s with
    mem := s.mem.filter fun x => !inQuota s.variant p x.1
    tags := s.tags.filter fun x => !inQuota s.variant p (32 * x.1)
    poison := s.poison.filter fun g => !inQuota s.variant p (32 * g) }

/-- CREATE (R436, R437, R457): steps 1 to 4. (DESIGN CHOICE, log 27) -/
def execCreate (desc : List (BitVec 8)) (s : State) : Out :=
  command s fun s =>
    if desc.length ≠ 4680 then (2, [], s)
    else
      let p := s.newPartition desc
      if s.createBad p desc then (1, [], s)
      else
        let t := s.wipe p
        (0, [], { t with parts := t.parts ++ [p], keys := s.keys + 1 })

/-- The trap-queue control block is one that START takes (R404). -/
def controlOk (bs : List Byte) : Bool :=
  fieldAt bs 9 7 == 0 && fieldAt bs 20 4 == 0 && fieldAt bs 28 36 == 0 && fieldAt bs 0 8 % 64 == 0 &&
    decide (3 ≤ fieldAt bs 8 1) && decide (fieldAt bs 8 1 ≤ 12)

/-- The read of the supervisor's record waits behind a draining entry (R433). -/
def State.supWaits (s : State) (p : Partition) : Bool :=
  match (devRead s p.num 0 p.suprec 256).1 with
  | .error none => true
  | _ => false

/-- The supervisor launch is placed from SUPREC (R439); none when its record is refused or cannot be read. (DESIGN CHOICE, log 52) -/
def State.placeSupervisor (s : State) (p : Partition) : Option State :=
  match devRead s p.num 0 p.suprec 256 with
  | (.error _, _) => none
  | (.ok bs, t) =>
    let r := readRecord bs
    if t.recordOk p.num bs ∧ !r.det ∧ !r.sess ∧ r.cores then some (t.accept p r r.prio none true) else none

/-- START (R404, R436 step 5, R457): refused when the control block or the supervisor record is. -/
def execStart (part : Nat) (s : State) : Out :=
  commandOr s fun s =>
    match s.part? part with
    | none => some (2, [], s)
    | some p =>
      if !p.prep ∨ p.halted then some (1, [], s)
      else
        match devRead s part 0 p.tqcb 64 with
        | (.error none, _) => none
        | (.error (some _), _) => some (1, [], s)
        | (.ok bs, t) =>
          if !controlOk bs then some (1, [], s)
          else
            let p1 := { p with tqBase := BitVec.ofNat 64 (fieldAt bs 0 8), tqLog := fieldAt bs 8 1, prep := false }
            let u := t.modPart part fun _ => p1
            if u.supWaits p1 then none
            else match u.placeSupervisor p1 with
            | none => some (1, [], s)
            | some u => some (0, [], u)

/-- HALT (R406, R457): of a frozen device too (R460). -/
def execHalt (part : Nat) (s : State) : Out :=
  service s fun s => if (s.part? part).isNone then (2, [], s) else (0, [], s.haltPart part 2)

/-- The accesses of the host that wait for a partition end with it: its reads are answered as failed (R452). -/
def State.dropHost (s : State) (part : Nat) : State :=
  let reads := s.hostQ.filter fun r => r.fn.part == part && match r.op with
    | .bar2 _ _ none => true
    | .peer _ _ none => true
    | _ => false
  { s with
    hostQ := s.hostQ.filter fun r => r.fn.part != part
    hostOut := s.hostOut ++ reads.map fun r => .unsupported (match r.op with
      | .peer .. => none
      | _ => some part) }

/-- DESTROY (R323, R411, R437, R441); a core that a standby core has taken over keeps it, for only a migration rewrites a peer table
(R15): it goes with its cluster (DEDUCED, log 57). A group whose cursor write-back still waits goes with its partition. -/
def State.destroy (s : State) (part : Nat) : State :=
  let s1 := (s.saved.filter fun x => x.part == part).foldl (fun s x => s.discardSaved x) s
  let s1 := (s1.teams.filter fun t => t.part == part).foldl (fun s t => s.discardTeam t.key) s1
  let s2 := (s1.groups.filter fun g => g.part == part).foldl (fun s g => s.removeGroup g) s1
  let uids := (s2.launches.filter fun l => l.part == part).map (·.uid)
  let s3 : State := { s2 with
    launches := s2.launches.filter fun l => l.part != part
    teams := s2.teams.filter fun t => t.part != part
    bins := s2.bins.filter fun b => !uids.contains b.uid }
  let mine := s3.sessions.filter fun x => x.opened && (x.part0 == some part || x.part1 == some part)
  let s4 := (mine.foldl (fun s x => s.revoke x.sid) s3).freeSessions
  { s4.dropHost part with
    backs := s4.backs.filter fun b => b.g.part != part
    sessions := s4.sessions.filter fun x => x.opened || x.asker != some part
    tlb := s4.tlb.filter fun t => t.part != part
    parts := s4.parts.filter fun p => p.num != part }

/-- DESTROY (R441, R457). -/
def execDestroy (part : Nat) (s : State) : Out :=
  command s fun s => if (s.part? part).isNone then (2, [], s) else (0, [], s.destroy part)

/-- SLICE (R365, R457): of a frozen device too (R460). -/
def execSlice (part : Nat) (length : BitVec 32) (s : State) : Out :=
  service s fun s =>
    if (s.part? part).isNone then (2, [], s) else (0, [], s.modPart part fun p => { p with slice := length.toNat })

/-- SUPERVISOR (R440, R457): once the one placed before is complete. -/
def execSupervisor (part : Nat) (s : State) : Out :=
  commandOr s fun s =>
    match s.part? part with
    | none => some (2, [], s)
    | some p =>
      if p.prep ∨ p.halted ∨ (s.launches.any fun l => l.part == part && l.super && !l.done) then some (1, [], s)
      else if s.supWaits p then none
      else match s.placeSupervisor p with
        | none => some (1, [], s)
        | some t => some (0, [], t)

/-- The entry of an open session in a report (R458). -/
def Session.entry (x : Session) (part : Nat) : List Byte :=
  leBytes 1 x.sid ++ leBytes 1 (x.role part) ++ leBytes 1 (x.other part) ++ leBytes 1 x.frac ++ leBytes 1 x.reveal ++ leBytes 3 0 ++
    leBytes 8 x.nonce.toNat

/-- Bytes cut or filled with zeros to a length. -/
def padTo (n : Nat) (bs : List Byte) : List Byte := bs.take n ++ List.replicate (n - bs.length) 0#8

/-- An attestation report (R458). -/
def State.report (s : State) (p : Partition) (nonce : List Byte) : List Byte :=
  let open' := s.sessions.filter fun x => x.opened && !x.revoked && (x.part0 == some p.num || x.part1 == some p.num)
  let digest := fun (f : Nat → BitVec 8) => (List.range 64).map f
  leBytes 4 1 ++ leBytes 4 1424 ++ padTo 64 nonce ++ digest Config.identityDigest ++ digest (Config.imageDigest s.mgmt.fw) ++
    digest (Config.imageDigest s.mgmt.cfg) ++ sha512 p.desc ++ leBytes 2 s.mgmt.rollfw ++ leBytes 2 s.mgmt.rollcfg ++
    leBytes 1 p.num ++ leBytes 1 open'.length ++ List.replicate 66 0#8 ++ padTo 512 (open'.flatMap fun x => x.entry p.num) ++
    (List.range 512).map fun i => Config.secureByte (s.draws + i)

/-- ATTEST for a partition. -/
def State.attest (s : State) (part : Nat) (nonce : List Byte) : Answer :=
  match s.part? part with
  | none => (2, [], s)
  | some p => (0, s.report p nonce, { s with draws := s.draws + 512 })

/-- A command of a virtual function's mailbox (R456, R457, R460). -/
def vfCommand (s : State) (p : Nat) (f : State → Answer) : Out :=
  if s.serves ∧ (s.part? p).isSome then .next (State.answer (f s) (some p)) else .next s

/-- ATTEST (R457, R458): a virtual function only for its own partition. -/
def execAttest (fn : Option Nat) (part : Nat) (nonce : List (BitVec 8)) (s : State) : Out :=
  match fn with
  | none => service s fun s => s.attest part nonce
  | some p => vfCommand s p fun s => if p = part then s.attest part nonce else (3, [], s)

/-- The result of GETCERT (R457). -/
def certificate : List Byte := leBytes 4 Config.certLength ++ (List.range Config.certLength).map Config.certByte

/-- GETCERT (R457). -/
def execGetcert (fn : Option Nat) (s : State) : Out :=
  match fn with
  | none => service s fun s => (0, certificate, s)
  | some p => vfCommand s p fun s => (0, certificate, s)

/-- A black-box entry's 64 bytes (R462). -/
def BoxEntry.bytes (e : BoxEntry) : List Byte :=
  leBytes 8 e.fcycle ++ [e.ty] ++ leBytes 1 e.die ++ leBytes 1 e.part ++ [0#8] ++ leBytes 4 e.seq.toNat ++
    padTo 48 (e.payload.flatMap (leBytes 8))

/-- BBREAD (R457, R461, R462): 64 entries from a sequence number; one the ring does not hold reads 0. (DESIGN CHOICE, log 55) -/
def execBbread (die first : Nat) (s : State) : Out :=
  let f := fun (s : State) =>
    if die ≥ s.variant.dies then ((2, [], s) : Answer)
    else (0, (List.range 64).flatMap fun i =>
      (s.bbox.find? fun e => e.die == die && e.seq == BitVec.ofNat 32 (first + i)).elim (List.replicate 64 0#8) (·.bytes), s)
  service s f

/-- Every core and fabric clock stops (R460). -/
def State.freezeAll (s : State) : State := { s with mgmt := { s.mgmt with devState := .frozen } }

/-- FREEZE (R457, R460). -/
def execFreeze (s : State) : Out := command s fun s => (0, [], s.freezeAll)

/-- The status words of a core (R461): its state, the groups it holds, the code of its last trap. The order and the width of the words
are the model's (DESIGN CHOICE, log 55). -/
def State.statusWords (s : State) (core : Nat) : List Byte :=
  leBytes 8 (Config.coreStateWord (s.frozen.contains core) (s.dead.contains core)).toNat ++
    leBytes 8 (s.groups.filter fun g => g.core == core).length ++ leBytes 8 (sget s.lastTrap core).toNat

/-- The architectural state of a team as a readout shows it: its block and its groups' images as R412 and R413 lay them out in a save
slot that starts at byte `base`. -/
def State.teamReadout (s : State) (base : Nat) (t : Team) : List (Nat × List Byte) :=
  match s.launch? t.key.uid with
  | none => []
  | some l =>
    let put := fun (o : Nat) (ps : List (Nat × List Byte)) => ps.map fun p => (base + o + p.1, p.2)
    put 0 (t.blockImage l.record) ++ (s.groupsOfTeam t.key).flatMap fun g =>
      put (l.record.groupOffset g.gidx) (s.groupImage (g.forImage l.record.det s.clock) l.record)

/-- What a readout of a core shows (R461): the status words from byte 0; where DEBUG is 1 the save slots of its teams from byte 64 on,
one after another (DESIGN CHOICE, log 55). -/
def State.readoutParts (s : State) (core : Nat) : List (Nat × List Byte) :=
  let slots := (s.teamsOn core).foldl (fun (a : Nat × List (Nat × List Byte)) t =>
    (a.1 + (s.launch? t.key.uid).elim 0 (·.record.slotSize), a.2 ++ s.teamReadout a.1 t)) (64, [])
  (0, s.statusWords core) :: if s.mgmt.debug then slots.2 else []

/-- A byte of a readout: one that no part holds is free where DEBUG is 1, as is what no rule lays out, and 0 where it is 0. -/
def State.readoutByte (s : State) (parts : List (Nat × List Byte)) (i draw : Nat) : Byte :=
  match parts.findSome? fun p => if p.1 ≤ i then p.2[i - p.1]? else none with
  | some b => b
  | none => if s.mgmt.debug then Config.unstatedByte draw else 0#8

/-- READOUT (R457, R461): of a frozen device only. -/
def execReadout (core first n : Nat) (s : State) : Out :=
  if s.mgmt.devState = .frozen then
    if core < Config.coresPerDie * s.variant.dies ∧ first + n < 2 ^ 64 then
      let parts := s.readoutParts core
      .next (State.answer (0, (List.range n).map fun i => s.readoutByte parts (first + i) (s.draws + i), { s with draws := s.draws + n }) none)
    else .next (State.answer (2, [], s) none)
  else command s fun s => (1, [], s)

/-- POWERCAP (R457): of a frozen device too (R460). -/
def execPowercap (watts : Nat) (s : State) : Out :=
  service s fun s =>
    if 1200 ≤ watts ∧ watts ≤ 2400 then (0, [], { s with mgmt := { s.mgmt with pcap := watts } }) else (2, [], s)

/-- An image verifies (R459 step 2). -/
def Mgmt.verifies (m : Mgmt) (i : FlashImage) : Bool := i.signed && decide (i.version ≥ if i.firmware then m.rollfw else m.rollcfg)

/-- Write a verified image to flash; its counter advances when it carries a higher minimum version (R459). -/
def Mgmt.flash (m : Mgmt) (i : FlashImage) : Mgmt :=
  if i.firmware then { m with fw := i, rollfw := max m.rollfw i.minVersion } else { m with cfg := i, rollcfg := max m.rollcfg i.minVersion }

/-- FLASH (R457, R459): in recovery too, and of a frozen device (R460). -/
def execFlash (image : FlashImage) (s : State) : Out :=
  let f := fun (s : State) =>
    if s.mgmt.verifies image then ((0, [], { s with mgmt := s.mgmt.flash image }) : Answer) else (1, [], s)
  if s.mgmt.devState = .recovery then .next (State.answer (f s) none) else service s f

/-- FREEZE_N (R460): the pin acts whatever the state. -/
def execFreezeN (s : State) : Out := .next s.freezeAll

/-- FREEZE_N_RELEASE (R460): it does not restart the clocks. -/
def execFreezeNRelease (s : State) : Out := .next s

/-- The healthy cores of a physical cluster of a die (R14). -/
def healthy (defects : List (Nat × Nat)) (die cluster : Nat) : List Nat :=
  ((List.range 4).map (4 * cluster + ·)).filter fun c => !defects.contains (die, c)

/-- The physical cores of a die in service in order of logical core, and those left over (R14, R15): whole clusters first, then the
two lowest healthy cores of each other cluster that has two, so that every logical core shares its cluster with a mate, two clusters
to a logical one in increasing order. (DEDUCED, log 57) -/
def harvest (defects : List (Nat × Nat)) (die : Nat) : List Nat × List Nat :=
  let each := (List.range 64).map (healthy defects die)
  let pairs := (each.filter fun x => x.length == 2 || x.length == 3).flatMap (·.take 2)
  let some' := (each.filter fun x => x.length == 4).flatten ++ pairs
  let used := (some' ++ each.flatten.filter fun c => !some'.contains c).take Config.coresPerDie
  (used, each.flatten.filter fun c => !used.contains c)

/-- Bring-up (R459): what a reset does not keep starts again, the core clock's count with it (R90); flash, its counters, the black boxes
and their clock (R462) stay. -/
def State.bringUp (s : State) : State :=
  let m := s.mgmt
  let keep : State := { State.reset with
    variant := s.variant, fclock := s.fclock, agenda := s.agenda, draws := s.draws, keys := s.keys, bbox := s.bbox,
    bboxSeq := s.bboxSeq, hostOut := s.hostOut
    mgmt := { State.reset.mgmt with fw := m.fw, cfg := m.cfg, rollfw := m.rollfw, rollcfg := m.rollcfg } }
  if !(m.verifies m.fw && m.verifies m.cfg && m.fw.firmware && !m.cfg.firmware) then
    { keep with mgmt := { keep.mgmt with devState := .recovery } }
  else
    let dies := List.range s.variant.dies
    { keep with
      mgmt := { keep.mgmt with
        devState := .ready, fwver := m.fw.version, cfgver := m.cfg.version, pkgid := m.cfg.pkgid, debug := m.cfg.debug, pcap := m.cfg.pcap }
      fenced := m.cfg.fenced
      phys := dies.flatMap fun d =>
        ((List.range Config.coresPerDie).zip (harvest m.cfg.defects d).1).filterMap fun x =>
          if x.1 = x.2 then none else some (Config.coresPerDie * d + x.1, x.2)
      standby := dies.flatMap fun d => (harvest m.cfg.defects d).2.map fun c => (d, c) }

/-- RESET_RELEASE (R459). -/
def execResetRelease (s : State) : Out := .next s.bringUp

/-- POWER_ON (R462): the black boxes are cleared, and the device waits for reset release; flash and its counters keep what they
hold. -/
def execPowerOn (s : State) : Out :=
  .next { State.reset with
    variant := s.variant, agenda := s.agenda, draws := s.draws, keys := s.keys, hostOut := s.hostOut
    mgmt := { State.reset.mgmt with fw := s.mgmt.fw, cfg := s.mgmt.cfg, rollfw := s.mgmt.rollfw, rollcfg := s.mgmt.rollcfg } }

end Sys2Proof.Machine
end

