-- ==== Sys2Proof/Machine/FabricEvents.lean ====
section
/-! DEFINITION. Machine/FabricEvents.lean: link repair (R445 to R447), router failure (R448, R449), CXL ports (R454), power and
heat (R463), corrected errors (R417). -/

namespace Sys2Proof.Machine

/-- What a link joins (R12, R13, R455): two compute dies, a compute die and the I/O hub die, or a peer port and another package. -/
inductive LinkEnds where
  | dies (a b : Nat)
  | hub (die : Nat)
  | peer (port : Nat)
  deriving DecidableEq, Repr

/-- The links of a part by number (R12, R13, R455): 0 to 3 join the neighbouring compute dies of the KN-960, 4 + d leads from die d to the
I/O hub die, 8 + p from peer port p to another package; the KN-480 has none of those that would lead to dies 2 and 3. (DESIGN CHOICE,
log 30) -/
def Variant.link (v : Variant) (n : Nat) : Option LinkEnds :=
  if n < 4 then
    (([(0, 1), (0, 2), (1, 3), (2, 3)][n]?).filter fun x => decide (x.2 < v.dies)).map fun x => .dies x.1 x.2
  else if n < 8 then (if n - 4 < v.dies then some (.hub (n - 4)) else none)
  else if n < 16 ∧ v.hasPeer then some (.peer (n - 8))
  else none

/-- A lane that the part has, in one direction or the other: one of 50 in a class of its link (R443, R445). -/
def Variant.hasLane (v : Variant) (x : LinkLane) : Bool := (v.link x.link).isSome && decide (x.lane < 100) && decide (x.cls < 4)

/-- The die in whose black box an event of a link is written. (DESIGN CHOICE, log 30) -/
def Variant.linkDie (v : Variant) (n : Nat) : Nat :=
  match v.link n with
  | some (.dies a _) => a
  | some (.hub d) => d
  | _ => 0

/-- A lane as training leaves it (R446: fixed units, no rule gives the number). -/
def freshLane (link lane : Nat) : LinkState :=
  ⟨link, lane, Config.beatUnits, Vector.replicate 4 ⟨Config.beatUnits, 0#32⟩, [], 0, false, 0, false⟩

/-- The window of a class. -/
def LinkState.win (x : LinkState) (cls : Nat) : LinkWin := x.wins[cls % 4]'(Nat.mod_lt _ (by decide))

/-- Put back the window of a class. -/
def LinkState.setWin (x : LinkState) (cls : Nat) (w : LinkWin) : LinkState :=
  { x with wins := x.wins.set (cls % 4) w (Nat.mod_lt _ (by decide)) }

/-- A lane's credits and repair; one that nothing has touched is as training left it. -/
def State.laneAt (s : State) (lane : LinkLane) : LinkState :=
  (s.links.find? fun x => x.link == lane.link && x.lane == lane.lane).getD (freshLane lane.link lane.lane)

/-- Put back a lane. -/
def State.setLane (s : State) (x : LinkState) : State :=
  { s with links := (s.links.filter fun y => !(y.link == x.link && y.lane == x.lane)) ++ [x] }

/-- An event of a lane: nothing happens while the clocks stand or the lane is down, or where the part has no such lane. -/
def onLane (s : State) (lane : LinkLane) (f : LinkState → State) : Out :=
  let x := s.laneAt lane
  if s.mgmt.devState = .frozen ∨ x.down ∨ !s.variant.hasLane lane then .next s else .next (f x)

/-- LINK_BEAT_ERROR (R445): the sender resends from the expected number; each flit is delivered once, in order. -/
def execLinkBeatError (lane : LinkLane) (s : State) : Out := onLane s lane fun x => s.setLane { x with resend := x.resend + 1 }

/-- A black-box entry about a lane (R462), on a die of its link; type 04 is told to the host (R450). -/
def State.laneBox (s : State) (ty : BitVec 8) (lane : LinkLane) (d outcome : Nat) : State :=
  let t := s.blackBox (s.variant.linkDie lane.link) ty 0xFF [lane.link, lane.lane, lane.cls, d, outcome]
  if ty = 0x04#8 then t.irq none 1 else t

/-- A lane retrains (R446, R447). -/
def State.retrain (s : State) (x : LinkState) (lane : LinkLane) (d : Nat) : State :=
  (s.setLane { x with retraining := true }).laneBox 0x04#8 lane d 0

/-- A sender's window when an audit beat with FREED arrives (R446), and d: the beats and the credit fields since the audit before have moved
FREE and RET by amounts that the traffic gives; FREE and the lost units are no more than the receiver has. (DESIGN CHOICE, log 30) -/
def LinkState.audited (x : LinkState) (cls : Nat) (freed : BitVec 32) (draw : Nat) : LinkWin × Nat :=
  let w := x.win cls
  let back := Config.creditsReturned draw
  let ret := w.ret + BitVec.ofNat 32 back
  let d := (freed - ret).toNat
  (⟨Nat.min (Config.unitsLeft draw % (x.units - d + 1)) (w.free + back), ret⟩, d)

/-- LINK_AUDIT (R446): FREED against RET; a fifth mismatch of the lane within 2,000,000 fabric cycles retrains it. -/
def execLinkAudit (lane : LinkLane) (freed : BitVec 32) (s : State) : Out :=
  onLane s lane fun x =>
    if x.retraining then s
    else
      let w := (x.audited lane.cls freed s.draws).1
      let d := (x.audited lane.cls freed s.draws).2
      let s := { s with draws := s.draws + 1 }
      let put := x.setWin lane.cls
      if d = 0 then s.setLane (put w)
      else
        let recent := (x.mismatches.filter fun t => decide (s.fclock < t + 2000000)) ++ [s.fclock]
        let y : LinkState := { put (if d ≤ 8 then ⟨w.free + d, freed⟩ else w) with mismatches := recent }
        let t := (s.setLane y).laneBox 0x03#8 lane d 0
        if d > 8 ∨ recent.length ≥ 5 then t.retrain y lane d else t

/-- A partition has a cluster or a homed block on a die (R447). -/
def Partition.touches (p : Partition) (v : Variant) (die : Nat) : Bool :=
  (p.clusters.any fun k => k / 60 == die) || (p.q1 ++ p.q2).any fun b => homeDieOf v b == die

/-- Halt the partitions that satisfy a test. -/
def State.haltAll (s : State) (p : Partition → Bool) (code : Nat) : State :=
  (s.parts.filter p).foldl (fun s q => s.haltPart q.num code) s

/-- A link is down, with every lane of it; a compute die without its link to the I/O hub die is cut off (R447). -/
def State.linkDown (s : State) (lane : LinkLane) : State :=
  let lanes : List LinkLane := (List.range 100).map fun i => ⟨lane.link, i, 0⟩
  let t := (lanes.foldl (fun s l => s.setLane { s.laneAt l with down := true, retraining := false }) s).laneBox 0x04#8 lane 0 2
  match s.variant.link lane.link with
  | some (.hub die) => t.haltAll (fun p => p.touches s.variant die) 4
  | _ => t

/-- LINK_RETRAIN_COMPLETE (R447): both ends of the lane start afresh, in every class, and what was not acknowledged is sent again; after three failures in
a row the link is down. -/
def execLinkRetrainComplete (lane : LinkLane) (success : Bool) (s : State) : Out :=
  onLane s lane fun x =>
    if !x.retraining then s
    else if success then s.setLane { freshLane lane.link lane.lane with resend := x.resend + 1 }
    else if x.failures ≥ 2 then s.linkDown lane
    else s.setLane { x with failures := x.failures + 1 }

/-- Two routers of a die share a row or a column (R25, R442); router 8y + x stands in column x of row y (DESIGN CHOICE, log 31). -/
def channel (a b : Nat) : Bool := a != b && (a / 8 == b / 8 || a % 8 == b % 8)

/-- The slices of a slice router, counted on its die (R25, DESIGN CHOICE, log 31). -/
def slicesOf (router : Nat) : List Nat :=
  if router < 8 then [2 * router, 2 * router + 1] else if router ≥ 24 ∧ router < 32 then [2 * (router - 16), 2 * (router - 16) + 1] else []

/-- The physical clusters of a compute router (R25, DESIGN CHOICE, log 31). -/
def physClustersOf (router : Nat) : List Nat := if 8 ≤ router ∧ router < 24 then (List.range 4).map (4 * (router - 8) + ·) else []

/-- A partition that a router's failure halts (R448). -/
def State.needsRouter (s : State) (p : Partition) (die router : Nat) : Bool :=
  let slices := (slicesOf router).map (32 * die + ·)
  ((p.coresOn die).any fun c => (physClustersOf router).contains (s.physOf c / 4)) ||
    ((p.q1 ++ p.q2).any fun b => slices.contains (b % (32 * s.variant.dies))) ||
    ((router % 8 == 0 || router % 8 == 7) && Config.needsPorts die router p.num)

/-- A router fails (R448, R462): the entry names the partitions that it halts by a word with bit p set for partition p (DESIGN CHOICE,
log 55). -/
def State.failRouter (s : State) (die router : Nat) : State :=
  if s.failed.contains (die, router) ∨ die ≥ s.variant.dies ∨ router ≥ 32 then s
  else
    let halts := (s.parts.filter fun p => s.needsRouter p die router).foldl (fun n p => n ||| 2 ^ p.num) 0
    let t := s.blackBox die 0x09#8 0xFF [router, halts]
    { t with failed := t.failed ++ [(die, router)] }.irq none 1

/-- ROUTER_SELF_CHECK_ERROR (R448). -/
def execRouterSelfCheckError (die router : Nat) (s : State) : Out :=
  if s.mgmt.devState = .frozen then .next s else .next (s.failRouter die router)

/-- ROUTER_STALL_TIMEOUT (R448): it has accepted nothing for 65,536 fabric cycles. -/
def execRouterStallTimeout (die router : Nat) (s : State) : Out :=
  if s.mgmt.devState = .frozen then .next s else .next (s.failRouter die router)

/-- ROUTER_FENCE_COMPLETE (R448): its channels are fenced, and the partitions that need it halt. -/
def execRouterFenceComplete (die router : Nat) (s : State) : Out :=
  if s.mgmt.devState = .frozen ∨ !s.failed.contains (die, router) then .next s
  else
    let new := ((List.range 32).filter fun r => channel router r && !s.fenced.contains (die, router, r)).map fun r => (die, router, r)
    .next ({ s with fenced := s.fenced ++ new }.haltAll (fun p => s.needsRouter p die router) 3)

/-- CXL_PORT_DOWN (R454): the lines behind it count as poisoned. (DESIGN CHOICE, log 56) -/
def execCxlPortDown (port : Nat) (s : State) : Out :=
  if s.mgmt.devState = .frozen ∨ port ≥ s.variant.cxlPorts ∨ s.deadPorts.contains port then .next s
  else .next (({ s with deadPorts := s.deadPorts ++ [port] }.blackBox 0 0x04#8 0xFF [port]).irq none 1)

/-- What the power controller measures (R456). -/
def State.measure (s : State) (watts celsius : Nat) : State := { s with mgmt := { s.mgmt with power := watts, tmax := celsius } }

/-- A thermal or power event in a die's black box, which the host is told (R450, R462). -/
def State.heatBox (s : State) (die watts celsius : Nat) : State := (s.blackBox die 0x0C#8 0xFF [die, celsius, watts]).irq none 1

/-- POWER_CAP_EXCEEDED (R463): issue is withheld from every core; the entry is the die's that is hottest, or die 0's for power alone. -/
def execPowerCapExceeded (watts : Nat) (celsius : HotSpot) (s : State) : Out :=
  if s.mgmt.devState = .frozen ∨ (watts ≤ s.mgmt.pcap ∧ celsius.celsius < 105) then .next s
  else
    let t := (s.measure watts celsius.celsius).heatBox (if celsius.die < s.variant.dies then celsius.die else 0) watts celsius.celsius
    .next { t with mgmt := { t.mgmt with withheld := true } }

/-- THERMAL_TRIP (R463): at 115 °C every partition halts and the clocks stop. -/
def execThermalTrip (die celsius : Nat) (s : State) : Out :=
  if celsius < 115 then .next s
  else .next (((s.measure s.mgmt.power celsius).heatBox die s.mgmt.power celsius).haltAll (fun _ => true) 6).freezeAll

/-- CORRECTABLE_ERROR (R417): corrected in place and counted. -/
def execCorrectableError (s : State) : Out := .next { s with mgmt := { s.mgmt with cecnt := s.mgmt.cecnt + 1#64 } }

/-- WITHHELD_ISSUE_CAUSE_CLEARS (R463). -/
def execWithheldIssueCauseClears (watts celsius : Nat) (s : State) : Out :=
  if watts ≤ s.mgmt.pcap ∧ celsius < 105 then
    let t := s.measure watts celsius
    .next { t with mgmt := { t.mgmt with withheld := false } }
  else .next s

end Sys2Proof.Machine
end

