-- ==== Sys2Proof/Machine/GateEvents.lean ====
section
/-! DEFINITION. Machine/GateEvents.lean: draws of records (R328 to R330), crossings (R332, R333, R340 to R343), aborts and
their notices (R344). -/

namespace Sys2Proof.Machine

/-- Bytes as the words of 64 lanes. -/
def lanesFrom (bs : List Byte) (at' : Nat) : Lanes := Vector.ofFn fun l => BitVec.ofNat 32 (leValue ((bs.drop (at' + 4 * l.val)).take 4))

/-- Half `k` of the 64-bit words of 64 lanes (R329). -/
def halfFrom (bs : List Byte) (at' k : Nat) : Lanes :=
  Vector.ofFn fun l => BitVec.ofNat 32 (leValue ((bs.drop (at' + 8 * l.val + 4 * k)).take 4))

/-- Put back a gate word. -/
def Group.setGate (g : Group) (w : GateWord) : Group := { g with gates := mapIf (fun v => v.id == w.id) (fun _ => w) g.gates }

/-- Take a gate word out. -/
def Group.dropGate (g : Group) (id : Nat) : Group := { g with gates := g.gates.filter fun v => v.id != id }

/-- Queue a deferred trap of a gate word. -/
def Group.deferGate (g : Group) (c : Cause) (addr pc : Word) : Group :=
  { g with deferred := g.deferred ++ [Deferred.mk c addr none pc false] }

/-- A gate word ends by a fault (R330, R332, R337): a deferred trap, and its batch stays incomplete until the fault is handled (R173). -/
def Group.failGate (g : Group) (w : GateWord) (c : Cause) (addr : Word) : Group :=
  let g1 := (g.dropGate w.id).deferGate c addr w.pc
  if w.joins then { g1 with lost := g1.lost ++ [w.batch] } else g1

/-- The results of a draw (R330, R340, R341): registers and marks of a triple, or the record a word goes on with and its
first crossing. -/
def Group.takeRecord (g : Group) (w : GateWord) (q : Word) (span : Word × Nat) (h body : List Byte) : Group :=
  match w.op with
  | .gtrip t =>
    let z : Lanes := Vector.replicate 64 0#32
    let regs := if t = 2 then
        (List.range 6).map fun i => (w.d + i, halfFrom body (512 * (i / 2)) (i % 2), Mark.fresh q)
      else (List.range 3).map fun i => (w.d + i, lanesFrom body (256 * i), Mark.fresh q)
    let n := regs.length
    let slots := (List.range (2 * n / 3)).map fun i => (w.d + n + i, z, Mark.slot q)
    (g.gateWrite w.frag (regs ++ slots)).dropGate w.id
  | .gtript =>
    let sh := headerShape h
    let sizes := [imagePad (sh 0), imagePad (sh 1), imagePad (sh 2)]
    let start := fun (i : Nat) => (sizes.take i).foldl (· + ·) 0
    let g1 := (List.range 3).foldl (fun (g : Group) i =>
      let t := sh i
      ((g.setTile (w.d + i) (writeBytes (g.tile (w.d + i)) 0 ((body.drop (start i)).take (t.rows * t.rowBytes)))).setTmark
        (w.d + i) (.fresh q)).setShape (w.d + i) t) g
    let g2 := (List.range 2).foldl (fun (g : Group) i =>
      ((g.setTile (w.d + 3 + i) []).setTmark (w.d + 3 + i) (.slot q)).setShape (w.d + 3 + i) (sh i)) g1
    g2.dropGate w.id
  | .gmsb =>
    let rec' := (List.range 32).map fun i => lanesFrom body (256 * i)
    let own := vzip (fun (a b : BitVec 32) => a + b) w.x (rec'.getD 0 w.x)
    g.setGate { w with q := q, drawn := true, entry := none, span := span, record := rec', x := own, post := [(0, own)] }
  | .gb2a =>
    let sb := lanesFrom body 0
    let own := vzip (fun a b => (a ^^^ b) &&& 1#32) w.x sb
    g.setGate { w with q := q, drawn := true, entry := none, span := span, record := [sb, lanesFrom body 256], x := own, post := [(0, own)] }
  | _ => g

/-- A PAGE record for a record read (R330), of a word that waits in an entry of the operand log (R232). -/
def State.gatePage (s : State) (g : Group) (frag entry : Nat) (pc a : Word) : Nat × State :=
  let f := if frag < 4 then frag else g.liveFrags.headD 0
  let m := (g.frag f).mask
  s.raiseReplay (dieOf g.core) { s.mkRec g f .page a m m pc with info := BitVec.ofNat 64 (entry * 256) }

/-- One record of the skip that follows an abort (R344 step 4); when it is over the stream entry is written back, the class-g batches complete
and the group stops (steps 5, 6). Its PAGE records name no PC. (DESIGN CHOICE, log 42) -/
def State.skipRecord (s : State) (core slot : Nat) (g : Group) (k : Skip) : State :=
  let done := fun (t : State) (c : Option (Word × Word × Word × Word)) =>
    let t1 := (t.modGroup core slot fun g => { g with skip := none, cursor := c.or g.cursor }).writeCursor core slot
    (t1.completeReady core slot 2 (fun _ => true) Config.maxBatches).modGroup core slot fun g => g.abortStops k.stops
  match s.loadCursor g 0 with
  | (.error (.page a), t) =>
    let (n, t1) := t.gatePage g 4 0 0#64 a
    t1.modGroup core slot fun g => { g with skip := some { k with ticket := some n } }
  | (.error .wait, _) => s
  | (.error (.stop ..), t) => done t none
  | (.ok none, t) => done t none
  | (.ok (some (base, len, seq, off)), t) =>
    if !seq.ult k.target then done t (some (base, len, seq, off))
    else
      match t.gateRead g 0 (base + off) 64 with
      | (.error (.page a), t1) =>
        let (n, t2) := t1.gatePage g 4 0 0#64 a
        t2.modGroup core slot fun g => { g with skip := some { k with ticket := some n }, cursor := some (base, len, seq, off) }
      | (.error .wait, _) => s
      | (.error (.stop ..), t1) => done t1 (some (base, len, seq, off))
      | (.ok h, t1) =>
        if headerMalformed h seq then done t1 (some (base, len, seq, off))
        else t1.modGroup core slot fun g => { g with
          skip := some { k with ticket := none }, cursor := some (base, len, seq + 1#64, off + BitVec.ofNat 64 (recordBytes h)) }

/-- The draw of the oldest word that has a record to draw (R330); one whose read faults while the operand log is full waits. (DESIGN
CHOICE, log 42) -/
def State.drawRecord (s : State) (core slot : Nat) (g : Group) (w : GateWord) : State :=
  let fail := fun (t : State) (c : Cause) (a : Word) => t.modGroup core slot fun g => g.failGate w c a
  let stop := fun (t : State) (e : Stop) => match e with
    | .wait => s
    | .page a =>
      match w.entry.or (s.freeEntry core true) with
      | none => s
      | some e =>
        let (k, t1) := t.gatePage g w.frag e w.pc a
        t1.modGroup core slot fun g => g.setGate { w with ticket := some k, entry := some e }
    | .stop c a => fail t c a
  let kind := w.op.kind
  if (s.pair? g).elim true (fun p => p.bad (s.roleOf g)) then fail s .gateSession 2#64
  else
    match s.loadCursor g w.id with
    | (.error e, t) => stop t e
    | (.ok none, t) => fail t .gateSession 2#64
    | (.ok (some (base, len, seq, off)), t) =>
      let t := t.modGroup core slot fun g => { g with cursor := some (base, len, seq, off) }
      match t.gateRead g w.id (base + off) 64 with
      | (.error e, t) => stop t e
      | (.ok h, t) =>
        let size := if kind = 4 then 64 + imagePad (headerShape h 0) + imagePad (headerShape h 1) + imagePad (headerShape h 2)
          else recordSize kind
        if off.toNat + size > len.toNat then fail t .gateSession 2#64
        else if headerSeq h ≠ seq ∨ headerKind h ≠ kind ∨ headerReserved h ∨ (kind = 4 ∧ headerShapesBad h) then
          fail t .gateSession 3#64
        else
          match t.gateRead g w.id (base + off + 64#64) (size - 64) with
          | (.error e, t) => stop t e
          | (.ok body, t) =>
            t.modGroup core slot fun g =>
              let live := g.unspent
              let g1 : Group := { g with
                cursor := some (base, len, seq + 1#64, off + BitVec.ofNat 64 size)
                drawn := (g.drawn.filter fun d => live.contains d.1) ++ [(seq, w.pc)] }
              g1.takeRecord w seq (base + off, size) h body

/-- GATE_DRAW_PERFORMED (R328, R330, R344): nothing while an abort notice is on its way to this side or a write-back waits;
first the skip that an abort asks for, then the oldest word with a record to draw. -/
def execGateDrawPerformed (core slot : Nat) (s : State) : Out :=
  onGroup s core slot fun g =>
    if (s.pair? g).elim false (fun p => p.notice (s.roleOf g) != []) ∨ s.writingBack g then s
    else
      match g.skip with
      | some k => if k.ticket.elim true (s.resolved g.part) then s.skipRecord core slot g k else s
      | none =>
        match g.gates.find? fun w => !w.drawn with
        | none => s
        | some w => if w.ticket.elim true (s.resolved g.part) then s.drawRecord core slot g w else s

/-- A word has crossings still to post, now or in a later round. A younger word's crossings wait for all rounds of an older one (DESIGN
CHOICE, log 42). -/
def GateWord.posts (w : GateWord) : Bool :=
  !w.post.isEmpty || !w.drawn && (w.op == .gmsb || w.op == .gb2a) || (w.op == .gmsb && decide (w.round < 6) && w.await != 0)

/-- GATE_CROSSING_ACCEPT (R326, R332, R333): the gate takes the next crossing of the oldest word that still posts; an armed
injection counts it, or loses it and so aborts the pair. -/
def execGateCrossingAccept (core slot : Nat) (s : State) : Out :=
  onGroup s core slot fun g =>
    match s.pair? g, g.gates.find? GateWord.posts with
    | some p, some w =>
      match w.post with
      | [] => s
      | (n, data) :: rest =>
        if g.injArm && decide (g.injCount ≥ g.injAfter.toNat) then
          (s.setGroup { g with injArm := false }).abortPair core slot
        else
          let role := s.roleOf g
          let c : Crossing := ⟨w.id, w.q, n, p.aborts role, data⟩
          let g1 : Group := { g.setGate { w with post := rest, flying := w.flying + 1 } with
            injCount := if g.injArm then g.injCount + 1 else g.injCount }
          (s.setPair (p.setSent role (p.sent role ++ [c]))).setGroup g1
    | _, _ => s

/-- The peer's gate has accepted a crossing of a word (R337), wherever the word's group is. -/
def State.landed (s : State) (wid : Nat) : State :=
  let f := fun (g : Group) => { g with gates := mapIf (fun w => w.id == wid) (fun w => { w with flying := w.flying - 1 }) g.gates }.settleGates
  { s with
    groups := s.groups.map f
    saved := s.saved.map fun x => { x with groups := x.groups.map f } }

/-- Add a list of crossings to values of the word's own, lane by lane. -/
def openWith (f : BitVec 32 → BitVec 32 → BitVec 32) (own got : List Lanes) : List Lanes :=
  (List.range own.length).map fun i =>
    vzip f (own.getD i (Vector.replicate 64 0#32)) (got.getD i (Vector.replicate 64 0#32))

/-- A Beaver AND of the record's bit triple `n` once d and e are open (R336, R340). -/
def bandOpen (role : Nat) (record : List Lanes) (n : Nat) (d e : Lanes) : Lanes :=
  let z : Lanes := Vector.replicate 64 0#32
  let a := record.getD (2 + 3 * n) z
  let b := record.getD (3 + 3 * n) z
  let w := record.getD (4 + 3 * n) z
  Vector.ofFn fun (l : Fin 64) =>
    w[l.val] ^^^ (d[l.val] &&& b[l.val]) ^^^ (e[l.val] &&& a[l.val]) ^^^ (if role = 0 then d[l.val] &&& e[l.val] else 0#32)

/-- The masked operands of round `r` of `gmsb`: band(p, g << k) and band(p, p << k) with k = 2^r (R340). -/
def msbMasked (w : GateWord) (r : Nat) : List Lanes :=
  let z : Lanes := Vector.replicate 64 0#32
  let t := fun (n j : Nat) => w.record.getD (2 + 3 * n + j) z
  let k := 2 ^ r
  [vzip (fun (a b : BitVec 32) => a ^^^ b) w.p (t (2 * r) 0), vzip (fun (a b : BitVec 32) => (a <<< k) ^^^ b) w.g (t (2 * r) 1),
    vzip (fun (a b : BitVec 32) => a ^^^ b) w.p (t (2 * r + 1) 0), vzip (fun (a b : BitVec 32) => (a <<< k) ^^^ b) w.p (t (2 * r + 1) 1)]

/-- A round of `gmsb` whose crossings have all arrived (R340): the next round's crossings, or the result. -/
def Group.msbRound (g : Group) (role : Nat) (w : GateWord) : Group :=
  if w.round = 0 then
    match w.got with
    | [peer] =>
      let sum := vzip (fun (a b : BitVec 32) => a + b) w.x peer
      let wb := w.record.getD 1 sum
      let nb := vmap (fun (v : BitVec 32) => if role = 0 then v ^^^ 0xFFFFFFFF#32 else v) wb
      let p0 := vzip (fun (v x : BitVec 32) => if role = 0 then v ^^^ x else v) nb sum
      let g0 : Lanes := Vector.ofFn fun (l : Fin 64) => (sum[l.val] &&& nb[l.val]) ^^^ (p0[l.val] &&& 1#32)
      let w1 := { w with x := p0, g := g0, p := p0, got := [], round := 1 }
      g.setGate { w1 with post := (List.range 4).map fun i => (1 + i, (msbMasked w1 0).getD i p0) }
    | _ => g.setGate w
  else if w.got.length < 4 then g.setGate w
  else
    let r := w.round - 1
    let o := openWith (fun a b => a ^^^ b) (msbMasked w r) w.got
    let z : Lanes := Vector.replicate 64 0#32
    let u := bandOpen role w.record (2 * r) (o.getD 0 z) (o.getD 1 z)
    let v := bandOpen role w.record (2 * r + 1) (o.getD 2 z) (o.getD 3 z)
    let w1 := { w with g := vzip (fun (a b : BitVec 32) => a ^^^ b) w.g u, p := v, got := [], round := w.round + 1 }
    if w1.round < 6 then
      g.setGate { w1 with post := (List.range 4).map fun i => (4 * w.round + 1 + i, (msbMasked w1 w.round).getD i z) }
    else
      let out := vzip (fun (p0 y : BitVec 32) => ((p0 >>> 31) ^^^ (y >>> 30)) &&& 1#32) w1.x w1.g
      (g.gateWrite w.frag [(w.d, out, .none)]).setGate w1

/-- Bytes of crossings, in order. -/
def fromCrossings (l : List Lanes) : List Byte := l.flatMap fun v => (List.range 64).flatMap fun i => leBytes 4 (laneAt v i).toNat

/-- What a word does with a crossing it has received: results when the last has come (R335, R340 to R343). -/
def Group.receive (g : Group) (role : Nat) (w : GateWord) : Group :=
  let z : Lanes := Vector.replicate 64 0#32
  match w.op with
  | .gopen t =>
    if w.await ≠ 0 then g.setGate w
    else
      let add := fun (a b : BitVec 32) => if t = 1 then a ^^^ b else a + b
      let n := if t = 2 then 2 else 1
      let base := w.d + 3 * n
      let opened := if t = 2 then
          shareOp 2 (shareAdd 2) (w.record.take 2) (w.got.take 2) ++ shareOp 2 (shareAdd 2) (w.record.drop 2) (w.got.drop 2)
        else openWith add w.record w.got
      let g1 := g.gateWrite w.frag ((List.range opened.length).map fun i => (base + i, opened.getD i z, Mark.opened w.q))
      ({ g1 with gateSeq := w.q }.latch fun b => srcKind b.desc == 6).setGate w
  | .gopent =>
    if w.await ≠ 0 then g.setGate w
    else
      let nd := (g.tileBytes (w.d + 3) + 255) / 256
      let one := fun (g : Group) (tile : Nat) (got : List Lanes) =>
        let own := readBytes (g.tile tile) 0 (g.tileBytes tile)
        let sum := (fromCrossings (openWith (· + ·) (toCrossings own) got)).take own.length
        (g.setTile tile (writeBytes (g.tile tile) 0 sum)).setTmark tile (.opened w.q)
      (one (one g (w.d + 3) (w.got.take nd)) (w.d + 4) (w.got.drop nd)).setGate w
  | .gb2a =>
    let m := vzip (fun (a b : BitVec 32) => a ^^^ b) w.x (w.got.getD 0 z)
    let sz := w.record.getD 1 z
    let out := vzip (fun m y => (if role = 0 then m else 0#32) + (1#32 - 2#32 * m) * y) m sz
    (g.gateWrite w.frag [(w.d, out, .none)]).setGate w
  | .greveal => (g.gateWrite w.frag [(w.d, vzip (fun (a b : BitVec 32) => a + b) w.x (w.got.getD 0 z), .none)]).setGate w
  | .gmsb => g.msbRound role w
  | _ => g.setGate w

/-- Crossings a word awaits in all (R332). -/
def GateWord.received (w : GateWord) : Nat :=
  match w.op with
  | .gmsb => 21 - w.await
  | _ => w.got.length

/-- The head of the receive buffer is consumed by the oldest word that awaits a crossing (R332); one that is not the expected gives both
groups GATE_SESSION with reason 4. The peer's record names the word that posted the crossing, or the lowest live fragment where that word is
done (DESIGN CHOICE, log 42). -/
def State.consume (s : State) (core slot : Nat) : State :=
  match s.group? core slot with
  | none => s
  | some g =>
    match s.pair? g, g.gates.find? fun w => w.await != 0 with
    | some p, some w =>
      let role := s.roleOf g
      match p.buf role with
      | [] =>
        if p.ended (1 - role) ∧ p.sent (1 - role) = [] then
          s.setGroup (g.failGate w .gateSession 5#64)
        else s
      | c :: rest =>
        if !w.drawn then s
        else
          let s1 := s.setPair (p.setBuf role rest)
          if c.q = w.q ∧ c.index = w.received then
            let w1 := { w with await := w.await - 1, got := w.got ++ [c.data] }
            s1.setGroup (g.receive role w1).settleGates
          else
            let s2 := s1.setGroup (g.failGate w .gateSession 4#64)
            let other := fun (h : Group) =>
              h.deferGate .gateSession 4#64 (((h.gates.find? fun v => v.id == c.wid).map (·.pc)).getD (h.frag (h.liveFrags.headD 0)).pc)
            { s2 with groups := mapIf (s2.pairs' g) other s2.groups }.modSaved (s2.pairs' g) other
    | _, _ => s

/-- The next crossing on its way to a role of a pair (R332, R350): it is dropped when older than the gate's last abort, waits when the
receive buffer of 32 is full, and else enters the buffer. One that is newer waits for the notice of that abort (DESIGN CHOICE, log 42). -/
def State.arriveAt (s : State) (p : Pair) (role : Nat) : State :=
  match p.sent (1 - role) with
  | [] => s
  | c :: rest =>
    if c.aborts < p.aborts role then (s.setPair (p.setSent (1 - role) rest)).landed c.wid
    else if c.aborts > p.aborts role ∨ (p.buf role).length ≥ 32 then s
    else (s.setPair ((p.setSent (1 - role) rest).setBuf role (p.buf role ++ [c]))).landed c.wid

/-- GATE_CROSSING_ARRIVE (R332, R337, R346, R350): the next crossing on its way to this group arrives, and one of its own at the gate of
a peer that is saved or has ended; then the oldest waiting word consumes one. -/
def execGateCrossingArrive (core slot : Nat) (s : State) : Out :=
  onGroup s core slot fun g =>
    let ended := (s.pair? g).elim false fun p => p.ended (1 - s.roleOf g)
    let away := !(s.groups.any (s.pairs' g)) && (ended || s.savedGroups.any (s.pairs' g))
    let arrive := fun (s : State) (role : Nat) => (s.pair? g).elim s fun p => s.arriveAt p role
    let role := s.roleOf g
    ((if away then arrive s (1 - role) else s) |> fun t => arrive t role).consume core slot

/-- GATE_PAIR_ABORT (R344): the gate of this group detects that a crossing of its pair is lost. -/
def execGatePairAbort (core slot : Nat) (s : State) : Out := onGroup s core slot fun _ => s.abortPair core slot

/-- GATE_ABORT_NOTICE (R344): the oldest notice reaches this group's gate, and its side aborts. -/
def execGateAbortNotice (core slot : Nat) (s : State) : Out :=
  onGroup s core slot fun g =>
    match s.pair? g with
    | none => s
    | some p =>
      let role := s.roleOf g
      match p.notice role with
      | larger :: rest => (s.setPair ((p.abort role).setNotice role rest)).abortSide core slot larger
      | [] => s

end Sys2Proof.Machine
end

