-- ==== Sys2Proof/Machine/Hints.lean ====
section
/-! DEFINITION. Machine/Hints.lean: the hint words (R45 to R50, R188): they are charged and change nothing but the values
the instruction word of their unit takes from them. -/

namespace Sys2Proof.Machine

/-- IMX (R47). -/
def execImx (payload : BitVec 22) (s : State) : Out := issueHint (.imx payload) s

/-- MOD (R48, R188). -/
def execMod (m : BitVec 3) (k : BitVec 5) (u v w x y z : BitVec 1) (s : State) : Out := issueHint (.mod m k u v w x y z) s

/-- SCH (R49). -/
def execSch (b a y : BitVec 1) (s : State) : Out := issueHint (.sch b a y) s

end Sys2Proof.Machine
end

