-- ==== Sys2Proof/Machine/HostWindow.lean ====
section
/-! DEFINITION. Machine/HostWindow.lean: the host's accesses to memory and to virtual functions, those of remote packages, their order
(R352, R450 to R453, R455), the commands that GO starts (R456, R457), and the end of a drain, behind which they wait (R432, R433). -/

namespace Sys2Proof.Machine

/-- The physical address of byte `o` of a partition's quota (R452). -/
def Partition.quotaByte (p : Partition) (o : Nat) : Option Nat :=
  let i := o / 2 ^ 29
  match p.q1[i]? with
  | some b => some (b * 2 ^ 29 + o % 2 ^ 29)
  | none => (p.q2[i - p.q1.length]?).map fun b => tier2Base + b * 2 ^ 29 + o % 2 ^ 29

/-- Where a host or peer access goes (R452): physical addresses, a draining entry to wait for, or a failure. -/
inductive HostAcc where
  | ok (pas : List Nat)
  | wait
  | fail
  deriving DecidableEq, Repr

/-- Translate a host access byte by byte with no tag check; a page with E = 1 fails (R452). -/
def hostVa (s : State) (part : Nat) (write : Bool) (va : Word) (n : Nat) : HostAcc × State :=
  (List.range n).foldl (fun (a : HostAcc × State) i =>
    match a.1 with
    | .ok pas =>
      match laneCheck a.2 part (.ofDie 0) ⟨write, false, false, true, false⟩ false (va + BitVec.ofNat 64 i) 1 with
      | (.ok ps _ ext, t) => (if ext then .fail else .ok (pas ++ ps), t)
      | (.fault _ _, t) => (.fail, t)
      | (.wait, t) => (.wait, t)
    | _ => a) (.ok [], s)

/-- A BAR2 access at an offset (R452). -/
def barAccess (s : State) (p : Partition) (write : Bool) (offset n : Nat) : HostAcc × State :=
  if offset + n > 2 ^ 36 then (.fail, s)
  else if p.prep then
    let pas := (List.range n).filterMap fun i => p.quotaByte (offset + i)
    if pas.length < n ∨ (!write ∧ (pas.any (poisoned s))) then (.fail, s) else (.ok pas, s)
  else hostVa s p.num write (BitVec.ofNat 64 (p.w2base.toNat * 2 ^ 36 + offset)) n

/-- A write of a VF's BAR0 (R352, R358, R451, R456); the command register's GO is the caller's. (DESIGN CHOICE, log 54) -/
def State.writeVf (s : State) (part offset : Nat) (v : Word) : State :=
  if offset < 0x800 then
    (s.lookAgain fun _ => offset % 32 / 8 == 3).modQueue part (offset / 32) fun q =>
      match offset % 32 / 8 with
      | 0 => q.writeBase v
      | 1 => q.writeCtl v
      | 3 => q.writeTail v
      | _ => q
  else if offset = 0x0800 then s.modPart part fun p => { p with seed := v }
  else if offset = 0x0808 then s.modPart part fun p => { p with w2base := v.setWidth 19 }
  else if offset = 0x0810 then s.modPart part fun p => { p with herr := p.herr && !v.getLsbD 2 }
  else if offset = 0x1100 then s.modPart part fun p => { p with command := writeCommand p.command v }
  else if 0x2000 ≤ offset ∧ offset < 0x3000 then
    s.modPart part fun p =>
      if p.command.getLsbD 63 then p else { p with buffer := writeBytes p.buffer (offset - 0x2000) (leBytes 8 v.toNat) }
  else s

/-- QBASE, QCTL, QHEAD and QTAIL of a host queue as they read (R352). -/
def Queue.read (q : Queue) (i : Nat) : Word :=
  match i with
  | 0 => q.qbase
  | 1 => BitVec.ofNat 64 (q.en.toNat * 2 ^ 31 + q.err.toNat * 2 ^ 30 + q.ecode.toNat * 2 ^ 16 + q.log2n)
  | 2 => q.head.setWidth 64
  | _ => q.tail.setWidth 64

/-- A read of a VF's BAR0 (R352, R451, R456); offsets not listed read 0. (DESIGN CHOICE, log 54) -/
def Partition.readVf (p : Partition) (offset : Nat) : Word :=
  if offset < 0x800 then (p.queueAt (offset / 32)).read (offset % 32 / 8)
  else if offset = 0x0800 then p.seed
  else if offset = 0x0808 then p.w2base.setWidth 64
  else if offset = 0x0810 then
    BitVec.ofNat 64 (p.haltcode.toNat * 2 ^ 8 + p.herr.toNat * 4 + p.prep.toNat * 2 + p.halted.toNat)
  else if offset = 0x1100 then p.command
  else if offset = 0x1108 then p.status
  else if 0x2000 ≤ offset ∧ offset < 0x3000 then BitVec.ofNat 64 (readLE p.buffer (offset - 0x2000) 8)
  else 0#64

/-- The same with the capability block that the mailbox shows as the physical function's BAR0 does (R456). -/
def State.readVf (s : State) (p : Partition) (offset : Nat) : Word :=
  if 0x1000 ≤ offset ∧ offset < 0x1100 then s.readPf (offset - 0x1000) else p.readVf offset

/-- The export entry that a remote access matches (R455). -/
def State.exportOf (s : State) (port rpkg rpart : Nat) : Option PeerWin :=
  s.peerWins.find? fun w => w.port == port && w.value.getLsbD 63 && w.value.getLsbD 35 && field w.value 55 48 == rpkg &&
    field w.value 47 42 == rpart

/-- Bytes of a command buffer, as a number. -/
def bufArg (b : SMap 8) (at' n : Nat) : Nat := readLE b at' n

/-- The command that GO starts in the physical function's registers (R456, R457). READOUT's argument holds the core in bytes 0 and 1, the
first byte in bytes 2 to 5 and the number of bytes in bytes 6 and 7; an opcode that the table has not is refused; of a descriptor longer
than the buffer the rest reads 0; FLASH goes on by the event that brings the image (DESIGN CHOICE, log 27). -/
def State.runPf (s : State) : Out :=
  let b := s.mgmt.buffer
  match field s.mgmt.command 15 0 with
  | 0x0001 => execCreate (readBytes b 0 4680) s
  | 0x0002 => execStart (bufArg b 0 1) s
  | 0x0003 => execHalt (bufArg b 0 1) s
  | 0x0004 => execDestroy (bufArg b 0 1) s
  | 0x0005 => execSlice (bufArg b 0 1) (BitVec.ofNat 32 (bufArg b 4 4)) s
  | 0x0006 => execSupervisor (bufArg b 0 1) s
  | 0x0010 => execAttest none (bufArg b 0 1) (readBytes b 64 64) s
  | 0x0011 => execGetcert none s
  | 0x0020 => execBbread (bufArg b 0 1) (bufArg b 4 4) s
  | 0x0021 => execFreeze s
  | 0x0022 => execReadout (bufArg b 0 2) (bufArg b 2 4) (bufArg b 6 2) s
  | 0x0030 => execPowercap (bufArg b 0 2) s
  | 0x0040 => .next s
  | _ => command s fun s => (1, [], s)

/-- The command that GO starts in a virtual function's mailbox (R456, R457): any but ATTEST and GETCERT answers status 3. -/
def State.runVf (s : State) (part : Nat) : Out :=
  match s.part? part with
  | none => .next s
  | some p =>
    match field p.command 15 0 with
    | 0x0010 => execAttest (some part) (bufArg p.buffer 0 1) (readBytes p.buffer 64 64) s
    | 0x0011 => execGetcert (some part) s
    | _ => vfCommand s part fun s => (3, [], s)

/-- A write sets GO in a command register in which it is clear (R456). -/
def setsGo (old v : Word) : Bool := v.getLsbD 63 && !old.getLsbD 63

/-- The state an event leaves that always answers a next state. -/
def Out.after (o : Out) (s : State) : State :=
  match o with
  | .next t => t
  | _ => s

/-- A write of a register of a virtual function, and what it starts. -/
def State.regWrite (s : State) (part offset : Nat) (v : Word) : State :=
  let go := offset == 0x1100 && (s.part? part).elim false fun p => setsGo p.command v
  let t := s.writeVf part offset v
  if go then (t.runVf part).after t else t

/-- What a read of a register of a virtual function answers (R450, R459): nothing before bring-up is over, and on a frozen device its
mailbox alone (R460). (DESIGN CHOICE, log 54) -/
def State.regRead (s : State) (part offset : Nat) : State :=
  match if s.mgmt.devState = .ready ∨ (s.serves ∧ 0x1000 ≤ offset) then s.part? part else none with
  | some p => s.out (.data (some part) (leBytes 8 (s.readVf p offset).toNat))
  | none => s.out (.unsupported (some part))

/-- A read or a write of the memory of a partition is done, or fails: a read is answered Unsupported Request, a write is dropped, and HERR
is set (R452). None while it waits behind a draining entry. -/
def State.hostMem (s : State) (part : Nat) (fn : Option Nat) (write : Option (List Byte)) (a : HostAcc) : Option State :=
  match a, write with
  | .wait, _ => none
  | .ok pas, none => some (s.out (.data fn (readAt s.mem pas)))
  | .ok pas, some bytes => some (clearPoison (writePas s part pas bytes) pas)
  | .fail, none => some ((s.setHerr part).out (.unsupported fn))
  | .fail, some _ => some (s.setHerr part)

/-- Bytes of an access. -/
def accessSize (n : Nat) (write : Option (List Byte)) : Nat := write.elim n (·.length)

/-- Perform an access that has arrived (R452, R455): none while it waits. -/
def State.hostTry (s : State) (r : HostReq) : Option State :=
  match r.op with
  | .reg offset (some v) => some (s.regWrite r.fn.part offset v)
  | .reg offset none => some (s.regRead r.fn.part offset)
  | .errClear q => some (s.modQueue r.fn.part q fun q => { q with err := false })
  | .bar2 offset n write =>
    match s.part? r.fn.part with
    | none => some s
    | some p => let (a, t) := barAccess s p write.isSome offset (accessSize n write); t.hostMem r.fn.part (some r.fn.part) write a
  | .peer va n write =>
    match s.part? r.fn.part with
    | none => some (if write.isSome then s else s.out (.unsupported none))
    | some p =>
      let (a, t) := if p.prep then (.fail, s) else hostVa s r.fn.part write.isSome va (accessSize n write)
      t.hostMem r.fn.part none write a

/-- A write that is posted (R453). -/
def HostReq.posted (r : HostReq) : Bool :=
  match r.op with
  | .bar2 _ _ w => w.isSome
  | .reg _ w => w.isSome
  | .errClear _ => true
  | .peer .. => false

/-- No posted write of a function that came through its link waits (R453). -/
def State.hostClear (s : State) (fn : HostPort) : Bool := !s.hostQ.any fun r => r.fn == fn && r.posted

/-- An access arrives (R452, R453): it waits behind the posted writes of its function that came through its link and wait, or behind a
draining entry. -/
def State.hostIssue (s : State) (r : HostReq) : State :=
  let ahead := match r.op with
    | .peer .. => false
    | _ => !s.hostClear r.fn
  match if ahead then none else s.hostTry r with
  | some t => t
  | none => { s with hostQ := s.hostQ ++ [r] }

/-- The accesses that wait are tried again, in the order they arrived. -/
def State.flushHost (s : State) : State := s.hostQ.foldl (fun t r => t.hostIssue r) { s with hostQ := [] }

/-- An access arrives at a device whose fabric runs. -/
def hostEvent (s : State) (fn : HostPort) (op : HostOp) : Out :=
  if s.mgmt.devState = .frozen then .next s else .next (s.hostIssue ⟨fn, op⟩)

/-- HOST_BAR2_READ (R452). -/
def execHostBar2Read (part : HostPort) (offset n : Nat) (s : State) : Out := hostEvent s part (.bar2 offset n none)

/-- HOST_BAR2_WRITE (R452). -/
def execHostBar2Write (part : HostPort) (offset : Nat) (bytes : List (BitVec 8)) (s : State) : Out :=
  hostEvent s part (.bar2 offset bytes.length (some bytes))

/-- HERR_CLEAR (R451). -/
def execHerrClear (part : HostPort) (s : State) : Out := hostEvent s part (.reg 0x0810 (some 4#64))

/-- QTAIL_WRITE (R352, R353, R358). -/
def execQtailWrite (part : HostPort) (queue : Nat) (value : BitVec 64) (s : State) : Out :=
  if queue ≥ 64 then .next s else hostEvent s part (.reg (32 * queue + 24) (some value))

/-- QCTL_EN_WRITE (R352). -/
def execQctlEnWrite (part : HostPort) (queue : Nat) (value : BitVec 64) (s : State) : Out :=
  if queue ≥ 64 then .next s else hostEvent s part (.reg (32 * queue + 8) (some value))

/-- QCTL_ERR_CLEAR (R353): the queue resumes at the same record. -/
def execQctlErrClear (part : HostPort) (queue : Nat) (s : State) : Out :=
  if queue ≥ 64 then .next s else hostEvent s part (.errClear queue)

/-- REGISTER_WRITE (R352, R451, R455, R456): a 64-bit aligned write of the physical or a virtual function's BAR0, and the command that it
starts; a frozen device takes those that its controller serves (R460): the physical function's and the mailboxes'. -/
def execRegisterWrite (fn : Option HostPort) (offset : Nat) (value : BitVec 64) (s : State) : Out :=
  if offset % 8 ≠ 0 then .next s
  else match fn with
    | none =>
      let t := s.writePf offset value
      if offset = 0x0100 ∧ setsGo s.mgmt.command value then t.runPf else .next t
    | some p =>
      if s.mgmt.devState = .frozen ∧ !(0x1000 ≤ offset ∧ offset < 0x3000) then .next s else .next (s.hostIssue ⟨p, .reg offset (some value)⟩)

/-- What a host read of a register of BAR0 answers (R450, R459): nothing while the device boots. (DESIGN CHOICE, log 54) -/
def State.readBar0 (s : State) (fn : Option HostPort) (offset : Nat) : State :=
  if s.mgmt.devState = .booting then s.out (.unsupported (fn.map (·.part)))
  else match fn with
    | none => s.out (.data none (leBytes 8 (s.readPf offset).toNat))
    | some n => s.hostIssue ⟨n, .reg offset none⟩

/-- PEER_WINDOW_ACCESS (R455): a remote package's access, under the rules of R452 with PREP 0. -/
def execPeerWindowAccess (port rpkg rpart addr n : Nat) (write : Option (List (BitVec 8))) (s : State) : Out :=
  match s.exportOf port rpkg rpart with
  | none => if s.mgmt.devState = .frozen then .next s else .next (if write.isSome then s else s.out (.unsupported none))
  | some w => hostEvent s ⟨0, field w.value 41 36⟩ (.peer (BitVec.ofNat 64 (field w.value 18 0 * 2 ^ 36 + addr % 2 ^ 45)) n write)

/-- Take the first element equal to one out of a list. -/
def dropFirst (d : Word) : List Word → List Word
  | [] => []
  | x :: r => if x = d then r else x :: dropFirst d r

/-- TLBCONF_COMPLETE (R432): the covered entries go, unless another open drain covers them; sD becomes 1. -/
def execTlbconfComplete (core slot : Nat) (s : State) : Out :=
  onGroup s core slot fun g =>
    match g.drain with
    | none => s
    | some (d, reg, f) =>
      if s.groups.any fun h => h.part == g.part && s.openAccess d h then s
      else
        let s1 := s.modPart g.part fun p => { p with drains := dropFirst d p.drains }
        let left := (s1.part? g.part).elim [] (·.drains)
        let s2 : State := { s1 with tlb := s1.tlb.filter fun t =>
          !(t.part == g.part && t.drained d) || left.any t.drained }
        let s3 := (s2.flushRing g.part ((s2.part? g.part).elim 0 (·.held.length))).flushHost
        s3.modGroup core slot fun h =>
          let h1 : Group := { h with drain := none }
          if f < 4 then h1.modFrag f fun x => { x.wr reg 1#64 with pend := x.pend.filter fun p => !p.isS reg } else h1

end Sys2Proof.Machine
end

