-- ==== Sys2Proof/Machine/Dispatch.lean ====
section
/-! DEFINITION. Machine/Dispatch.lean: one arm for each row of the opcode table, one direct call of its meaning. -/

namespace Sys2Proof.Machine

/-- The meaning of an instruction or an event in a state. -/
def exec (i : Instr) (s : State) : Host.Outcome State Fault Refusal :=
  match i with
  | .add st pk d a b => Sys2Proof.Machine.execAdd st pk d a b s
  | .sub st pk d a b => Sys2Proof.Machine.execSub st pk d a b s
  | .mul st pk d a b => Sys2Proof.Machine.execMul st pk d a b s
  | .mulh st pk d a b => Sys2Proof.Machine.execMulh st pk d a b s
  | .mulhn st pk d a b => Sys2Proof.Machine.execMulhn st pk d a b s
  | .div st pk d a b => Sys2Proof.Machine.execDiv st pk d a b s
  | .divn st pk d a b => Sys2Proof.Machine.execDivn st pk d a b s
  | .rem st pk d a b => Sys2Proof.Machine.execRem st pk d a b s
  | .remn st pk d a b => Sys2Proof.Machine.execRemn st pk d a b s
  | .and st pk d a b => Sys2Proof.Machine.execAnd st pk d a b s
  | .or st pk d a b => Sys2Proof.Machine.execOr st pk d a b s
  | .xor st pk d a b => Sys2Proof.Machine.execXor st pk d a b s
  | .andn st pk d a b => Sys2Proof.Machine.execAndn st pk d a b s
  | .shl st pk d a b => Sys2Proof.Machine.execShl st pk d a b s
  | .shr st pk d a b => Sys2Proof.Machine.execShr st pk d a b s
  | .sra st pk d a b => Sys2Proof.Machine.execSra st pk d a b s
  | .clz st pk d a => Sys2Proof.Machine.execClz st pk d a s
  | .popc st pk d a => Sys2Proof.Machine.execPopc st pk d a s
  | .min st pk d a b => Sys2Proof.Machine.execMin st pk d a b s
  | .minn st pk d a b => Sys2Proof.Machine.execMinn st pk d a b s
  | .max st pk d a b => Sys2Proof.Machine.execMax st pk d a b s
  | .maxn st pk d a b => Sys2Proof.Machine.execMaxn st pk d a b s
  | .sel st pk d a b => Sys2Proof.Machine.execSel st pk d a b s
  | .mov st pk d a => Sys2Proof.Machine.execMov st pk d a s
  | .cmpeq st pk d a b => Sys2Proof.Machine.execCmpeq st pk d a b s
  | .cmpne st pk d a b => Sys2Proof.Machine.execCmpne st pk d a b s
  | .cmplt st pk d a b => Sys2Proof.Machine.execCmplt st pk d a b s
  | .cmpltn st pk d a b => Sys2Proof.Machine.execCmpltn st pk d a b s
  | .cmple st pk d a b => Sys2Proof.Machine.execCmple st pk d a b s
  | .cmplen st pk d a b => Sys2Proof.Machine.execCmplen st pk d a b s
  | .addi st pk d a n => Sys2Proof.Machine.execAddi st pk d a n s
  | .andi st pk d a n => Sys2Proof.Machine.execAndi st pk d a n s
  | .ori st pk d a n => Sys2Proof.Machine.execOri st pk d a n s
  | .xori st pk d a n => Sys2Proof.Machine.execXori st pk d a n s
  | .shli st pk d a n => Sys2Proof.Machine.execShli st pk d a n s
  | .shri st pk d a n => Sys2Proof.Machine.execShri st pk d a n s
  | .srai st pk d a n => Sys2Proof.Machine.execSrai st pk d a n s
  | .movi st pk d n => Sys2Proof.Machine.execMovi st pk d n s
  | .bra st o => Sys2Proof.Machine.execBra st o s
  | .bz st a o => Sys2Proof.Machine.execBz st a o s
  | .bnz st a o => Sys2Proof.Machine.execBnz st a o s
  | .call st o => Sys2Proof.Machine.execCall st o s
  | .jmp st a => Sys2Proof.Machine.execJmp st a s
  | .ret st => Sys2Proof.Machine.execRet st s
  | .split st d a b => Sys2Proof.Machine.execSplit st d a b s
  | .join st => Sys2Proof.Machine.execJoin st s
  | .exit st => Sys2Proof.Machine.execExit st s
  | .nop st => Sys2Proof.Machine.execNop st s
  | .brk st => Sys2Proof.Machine.execBrk st s
  | .trap st c => Sys2Proof.Machine.execTrap st c s
  | .rft st => Sys2Proof.Machine.execRft st s
  | .gets st d n => Sys2Proof.Machine.execGets st d n s
  | .sets st n a => Sys2Proof.Machine.execSets st n a s
  | .setsGinj st a => Sys2Proof.Machine.execSetsGinj st a s
  | .setsLcause st a => Sys2Proof.Machine.execSetsLcause st a s
  | .rfgive st a => Sys2Proof.Machine.execRfgive st a s
  | .rfclaim st d a => Sys2Proof.Machine.execRfclaim st d a s
  | .land st o => Sys2Proof.Machine.execLand st o s
  | .resume st => Sys2Proof.Machine.execResume st s
  | .yield st a => Sys2Proof.Machine.execYield st a s
  | .topup st d a b => Sys2Proof.Machine.execTopup st d a b s
  | .vadd st pk d a b t x => Sys2Proof.Machine.execVadd st pk d a b t x s
  | .vsub st pk d a b t x => Sys2Proof.Machine.execVsub st pk d a b t x s
  | .vaddc st pk d a b x => Sys2Proof.Machine.execVaddc st pk d a b x s
  | .vsubc st pk d a b x => Sys2Proof.Machine.execVsubc st pk d a b x s
  | .vmul st pk d a b x => Sys2Proof.Machine.execVmul st pk d a b x s
  | .vmad st pk d a b x => Sys2Proof.Machine.execVmad st pk d a b x s
  | .vmulh st pk d a b x => Sys2Proof.Machine.execVmulh st pk d a b x s
  | .vmulhn st pk d a b x => Sys2Proof.Machine.execVmulhn st pk d a b x s
  | .vand st pk d a b x => Sys2Proof.Machine.execVand st pk d a b x s
  | .vor st pk d a b x => Sys2Proof.Machine.execVor st pk d a b x s
  | .vxor st pk d a b x => Sys2Proof.Machine.execVxor st pk d a b x s
  | .vandn st pk d a b x => Sys2Proof.Machine.execVandn st pk d a b x s
  | .vshl st pk d a b x => Sys2Proof.Machine.execVshl st pk d a b x s
  | .vshr st pk d a b x => Sys2Proof.Machine.execVshr st pk d a b x s
  | .vsra st pk d a b x => Sys2Proof.Machine.execVsra st pk d a b x s
  | .vsel st pk d a b x => Sys2Proof.Machine.execVsel st pk d a b x s
  | .vmin st pk d a b x => Sys2Proof.Machine.execVmin st pk d a b x s
  | .vminn st pk d a b x => Sys2Proof.Machine.execVminn st pk d a b x s
  | .vmax st pk d a b x => Sys2Proof.Machine.execVmax st pk d a b x s
  | .vmaxn st pk d a b x => Sys2Proof.Machine.execVmaxn st pk d a b x s
  | .vcmp st pk c d a b x => Sys2Proof.Machine.execVcmp st pk c d a b x s
  | .vabs st pk d a => Sys2Proof.Machine.execVabs st pk d a s
  | .vclz st pk d a => Sys2Proof.Machine.execVclz st pk d a s
  | .vpopc st pk d a => Sys2Proof.Machine.execVpopc st pk d a s
  | .vmovV st pk d a => Sys2Proof.Machine.execVmovV st pk d a s
  | .vmovS st pk d a => Sys2Proof.Machine.execVmovS st pk d a s
  | .vidx st pk d => Sys2Proof.Machine.execVidx st pk d s
  | .vaddi st pk d a n => Sys2Proof.Machine.execVaddi st pk d a n s
  | .vandi st pk d a n => Sys2Proof.Machine.execVandi st pk d a n s
  | .vshli st pk d a n => Sys2Proof.Machine.execVshli st pk d a n s
  | .vshri st pk d a n => Sys2Proof.Machine.execVshri st pk d a n s
  | .vsrai st pk d a n => Sys2Proof.Machine.execVsrai st pk d a n s
  | .vmovs st d a b => Sys2Proof.Machine.execVmovs st d a b s
  | .vbcast st pk d a b => Sys2Proof.Machine.execVbcast st pk d a b s
  | .vperm st pk d a b x => Sys2Proof.Machine.execVperm st pk d a b x s
  | .vshflXor st pk d a b x => Sys2Proof.Machine.execVshflXor st pk d a b x s
  | .vshflRot st pk d a b x => Sys2Proof.Machine.execVshflRot st pk d a b x s
  | .vred st pk d a c => Sys2Proof.Machine.execVred st pk d a c s
  | .fadd st pk d a b x => Sys2Proof.Machine.execFadd st pk d a b x s
  | .fsub st pk d a b x => Sys2Proof.Machine.execFsub st pk d a b x s
  | .fmul st pk d a b x => Sys2Proof.Machine.execFmul st pk d a b x s
  | .fdiv st pk d a b x => Sys2Proof.Machine.execFdiv st pk d a b x s
  | .ffma st pk d a b x => Sys2Proof.Machine.execFfma st pk d a b x s
  | .ffms st pk d a b x => Sys2Proof.Machine.execFfms st pk d a b x s
  | .fmin st pk d a b x => Sys2Proof.Machine.execFmin st pk d a b x s
  | .fmax st pk d a b x => Sys2Proof.Machine.execFmax st pk d a b x s
  | .fcmp st pk c d a b x => Sys2Proof.Machine.execFcmp st pk c d a b x s
  | .frcp st pk d a => Sys2Proof.Machine.execFrcp st pk d a s
  | .frsq st pk d a => Sys2Proof.Machine.execFrsq st pk d a s
  | .fsqrt st pk d a => Sys2Proof.Machine.execFsqrt st pk d a s
  | .fexp2 st pk d a => Sys2Proof.Machine.execFexp2 st pk d a s
  | .flog2 st pk d a => Sys2Proof.Machine.execFlog2 st pk d a s
  | .fsin st pk d a => Sys2Proof.Machine.execFsin st pk d a s
  | .fcos st pk d a => Sys2Proof.Machine.execFcos st pk d a s
  | .fclass st pk d a => Sys2Proof.Machine.execFclass st pk d a s
  | .frnd st pk d a => Sys2Proof.Machine.execFrnd st pk d a s
  | .rand st pk d => Sys2Proof.Machine.execRand st pk d s
  | .hadd2 st pk d a b t => Sys2Proof.Machine.execHadd2 st pk d a b t s
  | .hmul2 st pk d a b t => Sys2Proof.Machine.execHmul2 st pk d a b t s
  | .hfma2 st pk d a b t x => Sys2Proof.Machine.execHfma2 st pk d a b t x s
  | .cvt st pk d a u w => Sys2Proof.Machine.execCvt st pk d a u w s
  | .cvtSr st pk d a u w => Sys2Proof.Machine.execCvtSr st pk d a u w s
  | .kand st d a b => Sys2Proof.Machine.execKand st d a b s
  | .kor st d a b => Sys2Proof.Machine.execKor st d a b s
  | .kxor st d a b => Sys2Proof.Machine.execKxor st d a b s
  | .kandn st d a b => Sys2Proof.Machine.execKandn st d a b s
  | .knot st d a => Sys2Proof.Machine.execKnot st d a s
  | .kmovK st d a => Sys2Proof.Machine.execKmovK st d a s
  | .kmovS st d a => Sys2Proof.Machine.execKmovS st d a s
  | .kget st d a => Sys2Proof.Machine.execKget st d a s
  | .kpopc st d a => Sys2Proof.Machine.execKpopc st d a s
  | .kffs st d a => Sys2Proof.Machine.execKffs st d a s
  | .ldv st pk d a b z => Sys2Proof.Machine.execLdv st pk d a b z s
  | .stv st pk d a b z => Sys2Proof.Machine.execStv st pk d a b z s
  | .ldx st pk d a z => Sys2Proof.Machine.execLdx st pk d a z s
  | .stx st pk d a z => Sys2Proof.Machine.execStx st pk d a z s
  | .lds st pk d a b z => Sys2Proof.Machine.execLds st pk d a b z s
  | .sts st pk d a b z => Sys2Proof.Machine.execSts st pk d a b z s
  | .ldp st pk d a b q => Sys2Proof.Machine.execLdp st pk d a b q s
  | .stp st pk d a b q => Sys2Proof.Machine.execStp st pk d a b q s
  | .ldb st pk d a b z => Sys2Proof.Machine.execLdb st pk d a b z s
  | .stb st pk d a b z => Sys2Proof.Machine.execStb st pk d a b z s
  | .ldacq st pk d a c z => Sys2Proof.Machine.execLdacq st pk d a c z s
  | .strel st pk d a c z => Sys2Proof.Machine.execStrel st pk d a c z s
  | .atom st pk d a b z => Sys2Proof.Machine.execAtom st pk d a b z s
  | .atoms st pk d a z => Sys2Proof.Machine.execAtoms st pk d a z s
  | .red st pk d a b z => Sys2Proof.Machine.execRed st pk d a b z s
  | .fence st c => Sys2Proof.Machine.execFence st c s
  | .tagld st pk d a => Sys2Proof.Machine.execTagld st pk d a s
  | .tagst st pk d a => Sys2Proof.Machine.execTagst st pk d a s
  | .pref st pk a b => Sys2Proof.Machine.execPref st pk a b s
  | .bdset st d a b => Sys2Proof.Machine.execBdset st d a b s
  | .bdgetLo st d a => Sys2Proof.Machine.execBdgetLo st d a s
  | .bdgetHi st d a => Sys2Proof.Machine.execBdgetHi st d a s
  | .cpyFromGlobal st d a b f => Sys2Proof.Machine.execCpyFromGlobal st d a b f s
  | .cpyFromScratchpad st d a b f => Sys2Proof.Machine.execCpyFromScratchpad st d a b f s
  | .cpyFromPeer st d a b f => Sys2Proof.Machine.execCpyFromPeer st d a b f s
  | .cpyt st d a f => Sys2Proof.Machine.execCpyt st d a f s
  | .cpyk st d a f => Sys2Proof.Machine.execCpyk st d a f s
  | .cpym st d a b => Sys2Proof.Machine.execCpym st d a b s
  | .ebind st d a b => Sys2Proof.Machine.execEbind st d a b s
  | .ebindPers st d a b => Sys2Proof.Machine.execEbindPers st d a b s
  | .eunbind st d => Sys2Proof.Machine.execEunbind st d s
  | .wany st => Sys2Proof.Machine.execWany st s
  | .mpost st d a b => Sys2Proof.Machine.execMpost st d a b s
  | .pegget st d a => Sys2Proof.Machine.execPegget st d a s
  | .pegref st a => Sys2Proof.Machine.execPegref st a s
  | .pegput st a => Sys2Proof.Machine.execPegput st a s
  | .pegarr st a b => Sys2Proof.Machine.execPegarr st a b s
  | .pegwait st a b => Sys2Proof.Machine.execPegwait st a b s
  | .seal st d a b c => Sys2Proof.Machine.execSeal st d a b c s
  | .waitb st c n => Sys2Proof.Machine.execWaitb st c n s
  | .tld st d a b => Sys2Proof.Machine.execTld st d a b s
  | .tzero st d => Sys2Proof.Machine.execTzero st d s
  | .mma st pk t d a b => Sys2Proof.Machine.execMma st pk t d a b s
  | .mmaq st pk t d q a b g => Sys2Proof.Machine.execMmaq st pk t d q a b g s
  | .accz st pk d => Sys2Proof.Machine.execAccz st pk d s
  | .accrd st pk d a b => Sys2Proof.Machine.execAccrd st pk d a b s
  | .accwr st pk d a b => Sys2Proof.Machine.execAccwr st pk d a b s
  | .gsess st d a => Sys2Proof.Machine.execGsess st d a s
  | .gtrip st d t => Sys2Proof.Machine.execGtrip st d t s
  | .gmask st d a b t => Sys2Proof.Machine.execGmask st d a b t s
  | .gopen st d t => Sys2Proof.Machine.execGopen st d t s
  | .gfin st d a t => Sys2Proof.Machine.execGfin st d a t s
  | .gtrunc st d a f => Sys2Proof.Machine.execGtrunc st d a f s
  | .gmsb st d a => Sys2Proof.Machine.execGmsb st d a s
  | .gb2a st d a => Sys2Proof.Machine.execGb2a st d a s
  | .greveal st d a => Sys2Proof.Machine.execGreveal st d a s
  | .gtript st d => Sys2Proof.Machine.execGtript st d s
  | .gmaskt st d a b => Sys2Proof.Machine.execGmaskt st d a b s
  | .gopent st d => Sys2Proof.Machine.execGopent st d s
  | .launch st d a => Sys2Proof.Machine.execLaunch st d a s
  | .emit st d a => Sys2Proof.Machine.execEmit st d a s
  | .spawn st d a b => Sys2Proof.Machine.execSpawn st d a b s
  | .tlbdrain st a => Sys2Proof.Machine.execTlbdrain st a s
  | .tlbconf st d a => Sys2Proof.Machine.execTlbconf st d a s
  | .ctxsv st a b => Sys2Proof.Machine.execCtxsv st a b s
  | .ctxld st a b => Sys2Proof.Machine.execCtxld st a b s
  | .imx payload => Sys2Proof.Machine.execImx payload s
  | .mod m k u v w x y z => Sys2Proof.Machine.execMod m k u v w x y z s
  | .sch b a y => Sys2Proof.Machine.execSch b a y s
  | .sliceTimerExpiry core slot => Sys2Proof.Machine.execSliceTimerExpiry core slot s
  | .clamp core slot => Sys2Proof.Machine.execClamp core slot s
  | .preemptionDeadline core slot => Sys2Proof.Machine.execPreemptionDeadline core slot s
  | .issueAgeingPromotion core slot => Sys2Proof.Machine.execIssueAgeingPromotion core slot s
  | .loadResponse core slot req => Sys2Proof.Machine.execLoadResponse core slot req s
  | .atomicResponse core slot req => Sys2Proof.Machine.execAtomicResponse core slot req s
  | .storeAck core slot req => Sys2Proof.Machine.execStoreAck core slot req s
  | .sliceMergeStep line picks => Sys2Proof.Machine.execSliceMergeStep line picks s
  | .sliceAtomic req line => Sys2Proof.Machine.execSliceAtomic req line s
  | .sliceTagst req => Sys2Proof.Machine.execSliceTagst req s
  | .peerAccess core slot req => Sys2Proof.Machine.execPeerAccess core slot req s
  | .operandLogReplay core slot req => Sys2Proof.Machine.execOperandLogReplay core slot req s
  | .hamperReplay core slot req => Sys2Proof.Machine.execHamperReplay core slot req s
  | .deferredTrapDelivery core slot => Sys2Proof.Machine.execDeferredTrapDelivery core slot s
  | .trapQueueHeadWrite part => Sys2Proof.Machine.execTrapQueueHeadWrite part s
  | .eventTimerExpiry core slot e => Sys2Proof.Machine.execEventTimerExpiry core slot e s
  | .wanyDelivery core slot => Sys2Proof.Machine.execWanyDelivery core slot s
  | .batchComplete core slot cls => Sys2Proof.Machine.execBatchComplete core slot cls s
  | .streamerPiece core slot copy => Sys2Proof.Machine.execStreamerPiece core slot copy s
  | .matrixOpStart core => Sys2Proof.Machine.execMatrixOpStart core s
  | .matrixOperandsConsumed core => Sys2Proof.Machine.execMatrixOperandsConsumed core s
  | .matrixOpComplete core => Sys2Proof.Machine.execMatrixOpComplete core s
  | .matrixWatchdog core => Sys2Proof.Machine.execMatrixWatchdog core s
  | .matrixEngineError core => Sys2Proof.Machine.execMatrixEngineError core s
  | .matrixResetEnd core => Sys2Proof.Machine.execMatrixResetEnd core s
  | .gateDrawPerformed core slot => Sys2Proof.Machine.execGateDrawPerformed core slot s
  | .gateCrossingAccept core slot => Sys2Proof.Machine.execGateCrossingAccept core slot s
  | .gateCrossingArrive core slot => Sys2Proof.Machine.execGateCrossingArrive core slot s
  | .gatePairAbort core slot => Sys2Proof.Machine.execGatePairAbort core slot s
  | .gateAbortNotice core slot => Sys2Proof.Machine.execGateAbortNotice core slot s
  | .groupEnd core slot => Sys2Proof.Machine.execGroupEnd core slot s
  | .qtailWrite part queue value => Sys2Proof.Machine.execQtailWrite part queue value s
  | .qctlEnWrite part queue value => Sys2Proof.Machine.execQctlEnWrite part queue value s
  | .qctlErrClear part queue => Sys2Proof.Machine.execQctlErrClear part queue s
  | .launchRecordAccept part queue => Sys2Proof.Machine.execLaunchRecordAccept part queue s
  | .launchStart uid => Sys2Proof.Machine.execLaunchStart uid s
  | .teamPlacement part => Sys2Proof.Machine.execTeamPlacement part s
  | .placementWaitLimit uid key origin => Sys2Proof.Machine.execPlacementWaitLimit uid key origin s
  | .nurseryIdleFlush die uid entry => Sys2Proof.Machine.execNurseryIdleFlush die uid entry s
  | .quiescenceSample uid => Sys2Proof.Machine.execQuiescenceSample uid s
  | .quantumEnd core slot => Sys2Proof.Machine.execQuantumEnd core slot s
  | .commitPhase uid => Sys2Proof.Machine.execCommitPhase uid s
  | .teamSave core slot => Sys2Proof.Machine.execTeamSave core slot s
  | .debuggerHalt core slot => Sys2Proof.Machine.execDebuggerHalt core slot s
  | .poolUncorrectableError core offset => Sys2Proof.Machine.execPoolUncorrectableError core offset s
  | .sliceUncorrectableError sector => Sys2Proof.Machine.execSliceUncorrectableError sector s
  | .coreSelfCheckError core => Sys2Proof.Machine.execCoreSelfCheckError core s
  | .coreIssueWatchdog core slot => Sys2Proof.Machine.execCoreIssueWatchdog core slot s
  | .migrationComplete core => Sys2Proof.Machine.execMigrationComplete core s
  | .tlbconfComplete core slot => Sys2Proof.Machine.execTlbconfComplete core slot s
  | .hostBar2Read part offset n => Sys2Proof.Machine.execHostBar2Read part offset n s
  | .hostBar2Write part offset bytes => Sys2Proof.Machine.execHostBar2Write part offset bytes s
  | .herrClear part => Sys2Proof.Machine.execHerrClear part s
  | .registerWrite fn offset value => Sys2Proof.Machine.execRegisterWrite fn offset value s
  | .peerWindowAccess port rpkg rpart addr n write => Sys2Proof.Machine.execPeerWindowAccess port rpkg rpart addr n write s
  | .create desc => Sys2Proof.Machine.execCreate desc s
  | .start part => Sys2Proof.Machine.execStart part s
  | .halt part => Sys2Proof.Machine.execHalt part s
  | .destroy part => Sys2Proof.Machine.execDestroy part s
  | .slice part length => Sys2Proof.Machine.execSlice part length s
  | .supervisor part => Sys2Proof.Machine.execSupervisor part s
  | .attest fn part nonce => Sys2Proof.Machine.execAttest fn part nonce s
  | .getcert fn => Sys2Proof.Machine.execGetcert fn s
  | .bbread die first => Sys2Proof.Machine.execBbread die first s
  | .freeze => Sys2Proof.Machine.execFreeze s
  | .readout core first n => Sys2Proof.Machine.execReadout core first n s
  | .powercap watts => Sys2Proof.Machine.execPowercap watts s
  | .flash image => Sys2Proof.Machine.execFlash image s
  | .freezeN => Sys2Proof.Machine.execFreezeN s
  | .resetRelease => Sys2Proof.Machine.execResetRelease s
  | .powerOn => Sys2Proof.Machine.execPowerOn s
  | .linkBeatError lane => Sys2Proof.Machine.execLinkBeatError lane s
  | .linkAudit lane freed => Sys2Proof.Machine.execLinkAudit lane freed s
  | .linkRetrainComplete lane success => Sys2Proof.Machine.execLinkRetrainComplete lane success s
  | .routerSelfCheckError die router => Sys2Proof.Machine.execRouterSelfCheckError die router s
  | .routerStallTimeout die router => Sys2Proof.Machine.execRouterStallTimeout die router s
  | .routerFenceComplete die router => Sys2Proof.Machine.execRouterFenceComplete die router s
  | .cxlPortDown port => Sys2Proof.Machine.execCxlPortDown port s
  | .powerCapExceeded watts celsius => Sys2Proof.Machine.execPowerCapExceeded watts celsius s
  | .thermalTrip die celsius => Sys2Proof.Machine.execThermalTrip die celsius s
  | .correctableError => Sys2Proof.Machine.execCorrectableError s
  | .withheldIssueCauseClears watts celsius => Sys2Proof.Machine.execWithheldIssueCauseClears watts celsius s
  | .debuggerHaltEnd core slot => Sys2Proof.Machine.execDebuggerHaltEnd core slot s
  | .freezeNRelease => Sys2Proof.Machine.execFreezeNRelease s

end Sys2Proof.Machine
end

