-- ==== Sys2Proof/Machine/Fetch.lean ====
section
/-! DEFINITION. Machine/Fetch.lean: issue selection (R19, R82, R366, R381), fetching a word or a whole unit (R40, R46, R68, R112,
R397, R433), the events that the device performs of itself, and the passing of time (R17). -/

namespace Sys2Proof.Machine

/-- What the fetch of a word answers. -/
inductive Fetched where
  | word (w : BitVec 32)
  | trap (c : Cause) (addr : Word)
  | page (addr : Word)
  | hold
  deriving DecidableEq, Repr

/-- Fetch the word at an address for a group (R112, R218, R219, R419, R433): no tag, no charge. (DEDUCED, log 50) -/
def State.fetchWord (s : State) (part : Nat) (at' : Site) (a : Word) : Fetched × State :=
  if a.toNat / 2 ^ 55 ≠ 0 then (.trap .addr a, s)
  else
    match translate s part at' a.toNat with
    | (.page, t) => (.page a, t)
    | (.pte, t) => (.trap .pte a, t)
    | (.draining, t) => (.hold, t)
    | (.ok pa e, t) =>
      let pas := (List.range 4).map (pa + ·)
      if natBit e 6 ∧ pa / 2 ^ 48 = 9 ∧ !importOpen t part pa then (.trap .pte a, t)
      else if natBit e 3 then (.trap .xn a, t)
      else if !natBit e 6 ∧ poisoned t pa then (.trap .scrub (a &&& ~~~31#64), t)
      else if natBit e 6 ∧ t.remoteRefuses pa then (.trap .scrub a, t)
      else
        match readPas t pas (natBit e 6) with
        | ([b0, b1, b2, b3], u) => (.word (wordOfBytes b0 b1 b2 b3), u)
        | (_, u) => (.hold, u)

/-- A word with the major of a hint word (R45). -/
def hintWord (w : BitVec 32) : Bool := w.extractLsb' 25 7 == 0x7F#7

/-- The words of a unit from an address: its hint words, however many, and its instruction word. The first argument bounds the words
read; 2^53 words reach the end of the address space from anywhere, where the fetch traps (R68, R112). -/
def State.fetchUnit (s : State) (part : Nat) (at' : Site) (a : Word) : Nat → List (BitVec 32) → Except Fetched (List (BitVec 32) × Option (BitVec 32)) × State
  | 0, ws => (.ok (ws, none), s)
  | n + 1, ws =>
    match s.fetchWord part at' a with
    | (.word w, t) => if hintWord w then t.fetchUnit part at' (a + 4#64) n (ws ++ [w]) else (.ok (ws, some w), t)
    | (r, t) => (.error r, t)

/-- A word zero-extended, as an address field holds it (R68). -/
def asAddr (w : BitVec 32) : Word := w.setWidth 64

/-- The first word of a prefix that is no hint word, or is one too many (R46), its position counted from 0. -/
def surplus : Nat → Nat → Nat → Nat → List (BitVec 32) → Option Nat
  | _, _, _, _, [] => none
  | n, im, md, sc, w :: r =>
    match decode w with
    | .ok (.imx _) => if im ≥ 3 then some n else surplus (n + 1) (im + 1) md sc r
    | .ok (.mod ..) => if md ≥ 1 then some n else surplus (n + 1) im (md + 1) sc r
    | .ok (.sch ..) => if sc ≥ 1 then some n else surplus (n + 1) im md (sc + 1) r
    | _ => some n

/-- The instructions of words, up to the first that is none. -/
def decodable : List (BitVec 32) → List Instr
  | [] => []
  | w :: r => match decode w with
    | .ok i => i :: decodable r
    | .error _ => []

/-- A word of an absent unit (R3, R56, R68 check 1): without the gate the whole range of majors 0x70 to 0x77, and a `gets`
(F 01, number in A) or a `sets` (F 10, number in D) of the gate's special registers. -/
def absentWord (v : Variant) (w : BitVec 32) : Bool :=
  !v.hasGate && (w.extractLsb' 28 4 == 14#4 ||
    (w.extractLsb' 25 7 == 0x14#7 &&
      ((w.extractLsb' 0 2 == 1#2 && gateSpecial (w.extractLsb' 8 6)) || (w.extractLsb' 0 2 == 2#2 && gateSpecial (w.extractLsb' 14 6)))))

/-- What the words of a unit are (R68 checks 1 to 4 on the whole unit): its instructions, or the trap of the unit. -/
def unitOf (s : State) (g : Group) (hs : List (BitVec 32)) (w : Option (BitVec 32)) : Except (Cause × Word) (List Instr × Instr) :=
  let bad := fun (n : Nat) => Except.error (Cause.illegal, asAddr (hs.getD n 0#32))
  match w with
  | none => bad ((surplus 0 0 0 0 hs).getD 0)
  | some w =>
    if absentWord s.variant w then .error (.absent, asAddr w)
    else
      match decode w with
      | .error _ => .error (.illegal, asAddr w)
      | .ok i =>
        let is := decodable hs
        let u := useOf ((atomCtl is).op == 9) i
        if is.length < hs.length then bad ((hintBad i u 0 0 0 0 is).getD is.length)
        else
          match unitFault s g is i with
          | some e => .error e
          | none => .ok (is, i)

/-- A fragment may issue in this cycle. -/
def State.fragReady (s : State) (g : Group) (f : Frag) : Bool :=
  decide (f.nextIssue ≤ s.clock) && !s.fetchHeld g f && (f.hints != [] || !s.finishing g)

/-- The fragment of a group that would issue now: the one whose word holds the whole group (R232, R233), one in the middle of a unit of
a deterministic launch, else the next in turn (R82, R381). -/
def State.issuer (s : State) (g : Group) : Option Nat :=
  let only := fun (f : Option Nat) => f.filter fun i => (g.frag i).state == .ready && s.fragReady g (g.frag i)
  match g.groupHeld with
  | some f => only (some f)
  | none =>
    if s.isDet g then
      only (((List.range 4).find? fun i => (g.frag i).state == .ready && (g.frag i).hints != []).or (g.nextFrag true))
    else g.nextFragOf false (s.fragReady g)

/-- The class of the word a fragment would issue (R19); a fetch that brings none counts as class C. -/
def State.slotClass (s : State) (g : Group) (fid : Nat) : Nat :=
  let f := g.frag fid
  match (s.fetchWord g.part (.ofCore g.core) (f.pc + BitVec.ofNat 64 (4 * f.hints.length))).1 with
  | .word w => match decode w with
    | .ok i => (useOf false i).cls
    | .error _ => 0
  | _ => 0

/-- The cycle of the last issue of a group's fragments. -/
def Group.lastWord (g : Group) : Nat := (List.range 4).foldl (fun m i => max m (g.frag i).lastIssue) 0

/-- A group of a deterministic launch takes part in its team's rotation (R381). -/
def State.inRotation (s : State) (g : Group) : Bool := !s.quantumOver g && !g.ending

/-- A group has issued a word in its clamp landing, which no quantum counts (R389). -/
def Group.landedIssue (g : Group) : Bool :=
  g.aside.elim false fun a => (List.range 4).any fun i => (g.frag i).lastIssue != a.2.2.2.getD i 0

/-- The group whose turn it is in a deterministic team (R381): the next by slot after the one that issued last in the round,
the lowest slot at its start; the unit that has begun goes on. (DEDUCED, log 49) -/
def State.turnOf (s : State) (k : TeamKey) : Option Nat :=
  let gs := sortBy (fun a b => decide (a.slot ≤ b.slot)) (s.groupsOfTeam k)
  let begun := gs.find? fun g => s.inRotation g && g.liveFrags.any fun i => (g.frag i).hints != []
  let last := (gs.filter fun (g : Group) => decide (g.qcnt > 0) || g.landedIssue).foldl (fun (b : Option Group) (g : Group) => match b with
    | none => some g
    | some h => if g.lastWord > h.lastWord then some g else b) none
  let order := match last with
    | none => gs
    | some h => gs.filter (fun (g : Group) => decide (g.slot > h.slot)) ++ gs.filter fun (g : Group) => decide (g.slot ≤ h.slot)
  (begun.or (order.find? s.inRotation)).map (·.slot)

/-- A group that stands for issue in this cycle, with its fragment: it has not issued in it, it stands nowhere, and in a
deterministic launch its round runs and it is its turn (R377 to R381). -/
def State.candidate (s : State) (g : Group) : Option Nat :=
  if s.standing g ∨ g.ending ∨ g.parkCut.isSome ∨ g.lastIssue = s.clock + 1 then none
  else if s.isDet g ∧ (g.qdone ∨ g.commit.isSome ∨ s.quantumOver g ∨ s.turnOf g.team ≠ some g.slot ∨
      ((s.groupsOfTeam g.team).any fun h => h.lastIssue == s.clock + 1)) then none
  else s.issuer g

/-- The effective class of a group (R99, R366). -/
def State.classOf (s : State) (g : Group) : Nat := min 3 ((s.launch? g.team.uid).elim 0 (·.cls) + g.boost)

/-- One group goes before another (R366): class, then the oldest last issue, then the lower slot; a group that yielded counts
as the latest (R49), which has no effect in a deterministic launch. -/
def State.goesBefore (s : State) (a b : Group) : Bool :=
  let late := fun (g : Group) => (g.yielded && !s.isDet g).toNat
  listLe [3 - s.classOf a, late a, a.lastIssue, a.slot] [3 - s.classOf b, late b, b.lastIssue, b.slot]

/-- The groups of a core that stand for a class, with their fragments. -/
def State.standFor (s : State) (core cls : Nat) : List (Group × Nat) :=
  (s.groups.filter fun g => g.core == core).filterMap fun g =>
    match s.candidate g with
    | some f => if s.slotClass g f = cls then some (g, f) else none
    | none => none

/-- The group of a core that issues next in a class (R366). -/
def State.choice (s : State) (core cls : Nat) : Option (Group × Nat) :=
  if !s.classFree core cls then none
  else (s.standFor core cls).foldl (fun b x => match b with
    | none => some x
    | some y => if s.goesBefore x.1 y.1 then some x else b) none

/-- What a step answers, its next state changed. -/
def mapNext (f : State → State) : Out → Out
  | .next t => .next (f t)
  | o => o

/-- The fragment still stands at its unit as it did, and nothing has been paid, trapped or landed. -/
def Group.unmoved (g h : Group) (fid : Nat) : Bool :=
  let a := g.frag fid
  let b := h.frag fid
  a.pc == b.pc && a.hints == b.hints && a.state == b.state && a.lastIssue == b.lastIssue && a.paid == b.paid && g.stack == h.stack &&
    g.stopped == h.stopped && g.saving == h.saving && g.landing == h.landing && g.icnt == h.icnt && a.fetchRec == b.fetchRec

/-- A fragment's unit with its hint words in place and counted. -/
def State.withUnit (s : State) (g : Group) (fid : Nat) (is : List Instr) : State :=
  s.modGroup g.core g.slot fun h => { h.modFrag fid fun f => { f with hints := is } with qcnt := h.qcnt + is.length }

/-- A unit of a deterministic launch whose instruction word would wait, or end the quantum before it, does so before its hint words: a unit
is never split between two quanta, and a group issues a unit when it is ready (R378, R379, R381). Answers what then happens; `s` has the unit's
hint words in place and counted. -/
def State.unitWaits (s : State) (core slot fid : Nat) (i : Instr) : Option (State → State) :=
  match exec i { s with cur := some (core, slot, fid) } with
  | .next t =>
    match s.group? core slot, t.group? core slot with
    | some g, some h =>
      if !g.unmoved h fid then none
      else if h.qdone then some fun s => s.endQuantum core slot
      else if h.commit.isSome then none
      else some fun s => if h.groupHeld.isSome then s.heldGroup core slot fid else s.held core slot fid
    | _, _ => none
  | _ => none

/-- A fetch that met PAGE (R397): the fragment is held at its unit, uncharged, until the record is resolved. -/
def State.fetchPage (s : State) (g : Group) (fid : Nat) (a : Word) : State :=
  let f := g.frag fid
  let r := { s.mkRec g fid .page a f.mask f.mask f.pc with info := 3#64 }
  let (t, s1) := s.raiseReplay (dieOf g.core) r
  s1.modGroup g.core g.slot fun h => h.modFrag fid fun x => { x with fetchRec := some t }

/-- What a fetch that brings no word does. -/
def State.noFetch (s : State) (g : Group) (fid : Nat) : Fetched → Out
  | .trap c a => .next (s.takeTrap g.core g.slot fid (.precise c a (g.frag fid).pc))
  | .page a => .next (s.fetchPage g fid a)
  | _ => .next (s.held g.core g.slot fid)

/-- The selected fragment's word issues (R46, R68): a unit with hint words is checked whole before its first word; its quantum
ends before it where R379 says so. -/
def State.issueWord (s : State) (g : Group) (fid : Nat) : Out :=
  let f := g.frag fid
  match s.fetchWord g.part (.ofCore g.core) (f.pc + BitVec.ofNat 64 (4 * f.hints.length)) with
  | (.word w, t) =>
    if f.hints = [] ∧ hintWord w then
      match t.fetchUnit g.part (.ofCore g.core) (f.pc + 4#64) 9007199254740992 [w] with
      | (.error r, u) => u.noFetch g fid r
      | (.ok (hs, wi), u) =>
        match unitOf u g hs wi with
        | .error (c, a) => .next (u.takeTrap g.core g.slot fid (.precise c a f.pc))
        | .ok (is, i) =>
          let waits := if u.isDet g then (u.withUnit g fid is).unitWaits g.core g.slot fid i else none
          if quantumBefore (u.isDet g) g 0 i then .next (u.endQuantum g.core g.slot)
          else
            match waits, is.head? with
            | some w, _ => .next (w u)
            | none, some h => exec h { u with cur := some (g.core, g.slot, fid) }
            | none, none => .next u
    else
      match decode w with
      | .ok i => exec i { t with cur := some (g.core, g.slot, fid) }
      | .error _ =>
        let cause := if absentWord t.variant w then Cause.absent else .illegal
        .next (t.takeTrap g.core g.slot fid (.precise cause (asAddr w) f.pc))
  | (r, t) => t.noFetch g fid r

/-- A selected group at its boundary: a deferred trap, then a pending clamp, then its next word (R408). -/
def State.issueGroup (s : State) (g : Group) (fid : Nat) : Out :=
  if s.deferNow g then .next (s.deliverDeferred g.core g.slot)
  else if s.boundary g ∧ g.clampPend ∧ !s.isDet g then .next (s.clampNow g.core g.slot)
  else s.issueWord g fid

/-- The fragments of a group that may be tried in this cycle. -/
def State.tries (s : State) (g : Group) : List Nat :=
  match s.candidate g with
  | none => []
  | some f =>
    if s.isDet g ∨ g.groupHeld.isSome then [f]
    else (List.range 4).filter fun i => (g.frag i).state == .ready && s.fragReady g (g.frag i)

/-- A fragment's unit is not ready (R366): its word, tried now, leaves the fragment where it stands, as the scoreboard (R54), an order (R253)
or a full log (R232) holds it. -/
def State.wordHeld (s : State) (g : Group) (fid : Nat) : Bool :=
  match s.issueGroup g fid with
  | .next t => (t.group? g.core g.slot).elim false fun h => g.unmoved h fid
  | _ => false

/-- Every unit that a group could try is held: the group is not ready (R99, R366). -/
def State.heldNow (s : State) (g : Group) : Bool := s.tries g != [] && (s.tries g).all (s.wordHeld g)

/-- The issue stage considers a group for a class (R366): a unit of it is ready and needs the class. -/
def State.considers (s : State) (cls : Nat) (g : Group) : Bool :=
  (s.tries g).any fun i => s.slotClass g i == cls && !s.wordHeld g i

/-- A selection is over once its group has issued a word: the other groups that it considered count as before (R49, R366). -/
def State.afterChoice (s : State) (core slot cls : Nat) (t : State) : State :=
  if (t.group? core slot).elim false fun g => g.lastIssue == t.clock + 1 then
    let hit := (s.groups.filter fun g => g.core == core && g.slot != slot && g.yielded && s.considers cls g).map (·.slot)
    { t with groups := mapIf (fun g => g.core == core && g.yielded && hit.contains g.slot) (fun g => { g with yielded := false }) t.groups }
  else t

/-- The group in a slot issues, when it is its core's choice for the class of its next word. -/
def State.issueAt (s : State) (core slot : Nat) : Out :=
  match s.group? core slot with
  | none => .next s
  | some g =>
    match s.candidate g with
    | none => .next s
    | some f =>
      let cls := s.slotClass g f
      if (s.choice core cls).elim false fun x => x.1.slot == slot then mapNext (s.afterChoice core slot cls) (s.issueGroup g f) else .next s

/-- Cycles pass (R17): the fabric clock goes at 20 to 27; a group that is not ready starts its count of R99 again; what withheld
cycles (R463) or a frozen core (R420) stop moves on, and tiles become ready (R298). (DESIGN CHOICE, log 61) -/
def State.idle (s : State) (n : Nat) : State :=
  let c := s.clock + n
  let t : State := { s with clock := c, fclock := s.fclock + (c * 20 / 27 - s.clock * 20 / 27) }
  { t with groups := t.groups.map fun g0 =>
      let g := { g0 with tlds := g0.tlds.filter (fun r => decide (c < r.ready)), orphans := g0.orphans.filter fun p => p.early c }
      let frozen := s.frozen.contains g.core
      let g1 := if s.mgmt.withheld ∨ frozen then
          { g with
            sliceAt := if g.sliceAt = 0 ∨ g.stopped.isSome ∨ g.halted then g.sliceAt else g.sliceAt + n
            clampAt := if g.halted then g.clampAt else g.clampAt.map (· + n)
            readyAt := g.readyAt + n }
        else g
      if s.isReady g && !s.heldNow g0 then g1 else { g1 with readyAt := c } }

/-- Something the device may do of itself: the meaning of an event of the table. -/
abbrev Due := State → Out

/-- The requests' events of a group. -/
def requestEvents (g : Group) (r : Request) : List Due :=
  let lines := ((r.lanes.filter fun l => l.st == .waiting).flatMap fun l => l.pas.map (· / 64)).dedup
  let again := if r.lanes.any fun l => l.st == .faulted || l.st == .draining then
      [if r.logged then execOperandLogReplay g.core g.slot r.id else execHamperReplay g.core g.slot r.id] else []
  again ++ match r.kind with
  | .store => lines.map (fun n => execSliceMergeStep n [r.id]) ++ [execStoreAck g.core g.slot r.id]
  | .piece => lines.map fun n => execSliceMergeStep n [r.id]
  | .atomic _ => lines.map (fun n => execSliceAtomic r.id n) ++ [execAtomicResponse g.core g.slot r.id]
  | .red _ => lines.map (fun n => execSliceAtomic r.id n) ++ [execStoreAck g.core g.slot r.id]
  | .tagst => [execSliceTagst r.id, execStoreAck g.core g.slot r.id]
  | .peerLoad _ => [execPeerAccess g.core g.slot r.id, execLoadResponse g.core g.slot ⟨r.id, ~~~0#64, ~~~0#8⟩]
  | .peerStore _ => [execPeerAccess g.core g.slot r.id, execStoreAck g.core g.slot r.id]
  | _ => [execLoadResponse g.core g.slot ⟨r.id, ~~~0#64, ~~~0#8⟩]

/-- The events that may be due for a group. -/
def State.groupEvents (s : State) (g : Group) : List Due :=
  let c := g.core
  let k := g.slot
  let on := fun (b : Bool) (i : Due) => if b then [i] else []
  g.reqs.flatMap (requestEvents g) ++ g.copies.map (fun x => execStreamerPiece c k x.id) ++
    on (!g.gates.isEmpty || g.skip.isSome) (execGateDrawPerformed c k) ++ on (!g.gates.isEmpty) (execGateCrossingAccept c k) ++
    on ((s.pair? g).isSome) (execGateCrossingArrive c k) ++ on ((s.pair? g).isSome) (execGateAbortNotice c k) ++
    (List.range 3).flatMap (fun n => on (!(g.batch (.ofCode n)).seals.isEmpty) (execBatchComplete c k n)) ++
    on g.drain.isSome (execTlbconfComplete c k) ++ on (!g.deferred.isEmpty) (execDeferredTrapDelivery c k) ++
    on g.clampPend (execClamp c k) ++ on g.clampAt.isSome (execPreemptionDeadline c k) ++
    (List.range 8).flatMap (fun e => on ((g.slotAt e).elim false fun b => srcKind b.desc == 5) (execEventTimerExpiry c k e)) ++
    on (g.liveFrags.any fun i => (g.frag i).state == .inWany) (execWanyDelivery c k) ++
    on (g.ending || g.parkCut.isSome) (execGroupEnd c k) ++
    on ((s.team? g.team).elim false fun t => t.saving.isSome) (execTeamSave c k) ++
    on (g.sliceAt != 0 && decide (g.sliceAt ≤ s.clock)) (execSliceTimerExpiry c k) ++
    on (decide (g.readyAt + 4096 < s.clock)) (execIssueAgeingPromotion c k) ++
    on (decide (g.readyAt + 1048576 ≤ s.clock)) (execCoreIssueWatchdog c k) ++
    on (s.isDet g && !g.qdone && decide (s.quantum g ≤ g.qcnt)) (execQuantumEnd c k)

/-- The events that may be due for an engine. -/
def engineEvents (e : Engine) : List Due :=
  (if e.queue.isEmpty then [] else [execMatrixOpStart e.core, execMatrixOperandsConsumed e.core, execMatrixOpComplete e.core, execMatrixWatchdog e.core]) ++
    (if e.resetting then [execMatrixResetEnd e.core] else [])

/-- The events that may be due for a launch. -/
def State.launchEvents (s : State) (l : Launch) : List Due :=
  if l.done then []
  else if !l.started then [execLaunchStart l.uid]
  else
    ((l.waiting.filter fun w => !w.blocking && decide (w.since + 1048576 ≤ s.clock)).map fun w =>
        execPlacementWaitLimit l.uid w.key.index w.key.origin) ++
      (if s.groups.any fun g => g.team.uid == l.uid then [] else [execQuiescenceSample l.uid])

/-- The events that may be due for a partition. -/
def State.partEvents (s : State) (p : Partition) : List Due :=
  (if p.tqTail = p.tqHead ∨ p.prep then [] else [execTrapQueueHeadWrite p.num]) ++
    ((p.queues.filter fun x => x.2.en && !x.2.err && x.2.head != x.2.tail).map fun x => execLaunchRecordAccept p.num x.1) ++
    (if p.devQ.isEmpty then [] else [execLaunchRecordAccept p.num 64]) ++
    (if (s.waitingOf p.num).isEmpty then [] else [execTeamPlacement p.num])

/-- The events the device performs of itself that may be due. -/
def State.dueEvents (s : State) : List Due :=
  s.groups.flatMap s.groupEvents ++ s.engines.flatMap engineEvents ++ s.launches.flatMap s.launchEvents ++ s.parts.flatMap s.partEvents ++
    ((s.bins.filter fun b => decide (b.lastAt + 2000 ≤ s.clock)).map fun b => execNurseryIdleFlush b.die b.uid b.entry) ++
    s.frozen.map (fun c => execMigrationComplete c) ++ s.backs.map fun b => execHamperReplay b.g.core b.g.slot b.req.id

/-- The first due event that changes the state, with the state after it. -/
def State.firstDue (s : State) : Option State :=
  s.dueEvents.findSome? fun d => match d s with
    | .next t => if t = s then none else some t
    | _ => none

/-- The first group in line to issue: the lowest core, then class C, V, M. -/
def State.firstIssuer (s : State) : Option (Nat × Nat) :=
  (s.groups.map (·.core)).dedup.findSome? fun c => (List.range 3).findSome? fun n => (s.choice c n).map fun x => (c, x.1.slot)

/-- The first commit turn of a deterministic launch that changes the state, with the state after it. -/
def State.firstCommit (s : State) : Option State :=
  s.launches.findSome? fun l =>
    if l.record.det ∧ !l.done then
      match execCommitPhase l.uid s with
      | .next t => if t = s then none else some t
      | _ => none
    else none

/-- A step without an agenda (DESIGN CHOICE, log 1): a due event, else a word, else a commit turn and a cycle, else a cycle. A
frozen device does nothing (R460). -/
def State.runSelf (s : State) : Out :=
  if s.mgmt.devState = .frozen then .next s
  else
    match s.firstDue with
    | some t => .next t
    | none =>
      match s.firstIssuer with
      | some (c, k) => if s.mgmt.withheld ∨ s.mgmt.devState ≠ .ready then .next (s.idle 1) else s.issueAt c k
      | none => .next ((s.firstCommit.getD s).idle 1)

/-- An instruction word is no event: the agenda runs words by `issue` only. -/
def isEvent (i : Instr) : Bool := i.fields.isNone

/-- What an agent's turn does: an event of the table, the host's read of a register (R450), a group's next word unless issue is withheld (R463), or cycles. -/
def State.runAgent (s : State) : Agent → Out
  | .event i => if isEvent i then exec i s else .next s
  | .read fn offset => if offset % 8 ≠ 0 then .next s else .next (s.readBar0 fn offset)
  | .issue core slot => if s.mgmt.withheld ∨ s.mgmt.devState ≠ .ready then .next s else s.issueAt core slot
  | .idle n => if s.mgmt.devState = .frozen then .next s else .next (s.idle n)

/-- A unit's word at an address of memory, and what stands above it. -/
def wordBytesAt (m : SMap 8) (pa : Nat) (w : BitVec 32) : SMap 8 := writeBytes m pa (bytesOfWord w ++ List.replicate 28 0#8)

/-- A launch record with the largest register allocation and no other demand. -/
def roomyRecord : LaunchRec := { readRecord [] with vregs := 64, accs := 8, tiles := 131072, ires := 16, mres := 16, groups := 1 }

/-- The partition that `withFetchWord` runs in: its tables map a code page at address 0 and a data
page at 0x10000, which holds the control block and the ring of its trap queue. -/
def loadedPartition : Partition :=
  { num := 0, desc := [], ptroot := 0x10000, tqcb := 0x10000#64, suprec := 0#64, tdef := 0#32, slice := 0, clusters := [0], q1 := [0], q2 := [],
    key := 0, prep := false, halted := false, haltcode := 0#8, herr := false, seed := 0#64, w2base := 0#19, queues := [], devQ := [],
    tqBase := 0x10040#64, tqLog := 3, tqTail := 0#32, tqHead := 0#32, held := [], nextTick := 0, recs := [], drains := [], command := 0#64, status := 0#64,
    buffer := [] }

/-- A loaded machine (DESIGN CHOICE, log 32): one group, its words from address 0, which step issues next. -/
def State.loaded (s : State) (w : BitVec 32) : State :=
  let l : Launch :=
    { uid := 0, part := 0, record := roomyRecord, seed := 0#64, super := false, cls := 0, home := 0, queue := none, started := true,
      jobs := 1, sent := 0, received := 0, sample := none, serial := 0, round := 0, tokenRec := none, look := false, clampAll := false, commits := false,
      waiting := [], done := false }
  let t : Team :=
    { key := ⟨0, 0, false⟩, part := 0, core := 0, pos := 0, shape := 1, groups := 1, ended := 0, scratch := 65536, window := [], ltags := [],
      ipool := 0, mpool := 0, vfree := 0, granules := 16, relaunched := false, migrating := false, saving := none, saveRec := none,
      saveBad := false }
  let f : Frag := { blankFrag with mask := BitVec.allOnes 64, state := .ready, nextIssue := s.clock }
  let g : Group := { blankGroup with
    frags := blankGroup.frags.set 0 f, valloc := 64, ibud := 65536, mbud := 65536, privl := true, readyAt := s.clock, cuttings := 1 }
  let ptes := [(0x10000, 0x20001), (0x20000, 0x30001), (0x30000, 0x40001), (0x30008, 0x5000D)]
  let m := ptes.foldl (fun m e => writeBytes m e.1 (leBytes 8 e.2)) s.mem
  { s with
    mem := wordBytesAt m 0x40000 w, poison := [], deadPorts := [], tlb := [], frozen := []
    parts := [loadedPartition], launches := [l], teams := [t], groups := [g], left := [], saved := [], backs := [], engines := [], bins := [], sessions := [], pairs := []
    agenda := [.issue 0 0], mgmt := { s.mgmt with devState := .ready, withheld := false } }

end Sys2Proof.Machine
end

