-- ==== Sys2Proof/Machine/Step.lean ====
section
/-! DEFINITION. Machine/Step.lean: one step of the machine, and the machine about to run a word. -/

namespace Sys2Proof.Machine

/-- One step: the next agent of the agenda, or what the device does of itself (DESIGN CHOICE, log 1). (DESIGN CHOICE, log 41) -/
def step (s : State) : Host.Outcome State Fault Refusal :=
  match s.agenda with
  | a :: rest => State.runAgent { s with agenda := rest } a
  | [] => s.runSelf

/-- The machine with an instruction of the opcode table where step fetches next, and set to issue it (DESIGN CHOICE, log 32). -/
def State.withFetchWord (s : State) (nbits w : Nat) : State := if nbits ≤ 32 then s.loaded (BitVec.ofNat 32 w) else s

end Sys2Proof.Machine
end

