-- ==== Sys2Proof/Safety.lean ====
section
/-! DEFINITION. Safety.lean: the terms in which claims speak: the invariant of a state, a word that nothing stops, and what
an issued word leaves alone. -/

namespace Sys2Proof.Machine

/-- Global memory and its tags are in canonical form: equal memories are equal data. -/
def State.Inv (s : State) : Prop := swf s.mem = true ∧ swf s.tags = true

/-- Word `i` comes to its charge in group `g` at `x`: it passes the checks of R68 (`legal`, `ready`), its quantum goes on (R379),
the scoreboard does not hold it (R54). -/
structure Comes (i : Instr) (s : State) (g : Group) (x : Ctx) : Prop where
  place   : s.cur = some (x.core, x.slot, x.fid)
  group   : s.group? x.core x.slot = some g
  reads   : x = g.ctx x.core x.slot x.fid s.clock
  one     : x.fid < 4
  stands  : (g.frag x.fid).state = .ready
  legal   : unitFault s g x.hs i = none
  quantum : quantumBefore (s.isDet g) g x.hs.length i = false
  score   : scoreHeld g x.fid (useIn x.hs i) s.clock = false
  ready   : earlyRead (g.frag x.fid) (useIn x.hs i) s.clock = none ∨ (g.uchk = false ∧ s.isDet g = false)

/-- Word `i` comes to its charge, and no clamp landing of a deterministic launch bans it (R389). -/
structure Reaches (i : Instr) (s : State) (g : Group) (x : Ctx) : Prop extends Comes i s g x where
  aside   : g.aside = none ∨ bannedAside i = false

/-- Word `i` issues and nothing stops it: it comes to its charge, and its budgets pay for it, for `units` more of a grant, and
for `sectors` (R131, R136), as far as it has not paid before it waited as a release (R368). -/
structure Issues (i : Instr) (s : State) (g : Group) (x : Ctx) (units sectors : Nat) : Prop extends Reaches i s g x where
  pays    : (g.frag x.fid).owes ((useIn x.hs i).charge + units) ≤ g.ibud
  counts  : (g.frag x.fid).owes sectors ≤ g.mbud

/-- The state without the group in a slot, and without the model's own count of the free values it has used (DESIGN CHOICE, log 2): what a
word of that group must leave alone outside it. -/
def State.others (s : State) (core slot : Nat) : State :=
  { s with groups := s.groups.filter fun g => !(g.core == core && g.slot == slot), draws := 0 }

/-- The group without what every issue of a word of fragment `fid` may change: its place in the program, its pending writes,
and the accounts of the issue (R51, R53, R82, R90, R122, R131, R232, R403). -/
def Group.bare (g : Group) (fid : Nat) : Group :=
  { g.modFrag fid fun f => { f with pc := 0#64, hints := [], pend := [], nextIssue := 0, lastIssue := 0, paid := none } with
    ibud := 0, mbud := 0, icnt := 0, lastIssue := 0, lastCls := 0, yielded := false, boost := 0, readyAt := 0, retired := 0, qcnt := 0,
    flagsAt := 0, deferHeld := false, groupHeld := none }

/-- A word that issues counts as retired (R378): in a deterministic launch, outside a clamp landing (R389). -/
def State.counts (s : State) (g : Group) : Bool := s.isDet g && g.aside.isNone

/-- The same of a group in which a word has been retired: in a deterministic launch its TIMER sources have counted it (R152, R378). -/
def Group.ran (g : Group) (det : Bool) (fid : Nat) : Group := (g.retire det).bare fid

/-- Word `i` retires: its step's state is `t`, in which its group is `h`, charged once and counted (R51, R90, R131); outside
the group nothing has changed. -/
structure Retires (i : Instr) (s : State) (g : Group) (x : Ctx) (units sectors : Nat) (t : State) (h : Group) : Prop where
  runs    : exec i s = .next t
  group   : t.group? x.core x.slot = some h
  rest    : t.others x.core x.slot = s.others x.core x.slot
  ibud    : h.ibud = g.ibud - (g.frag x.fid).owes ((useIn x.hs i).charge + units)
  mbud    : h.mbud = g.mbud - (g.frag x.fid).owes sectors
  icnt    : h.icnt = g.icnt + 1

/-- Word `i` retires and its fragment stands at the next unit, whose first word comes next (R46, R51). -/
structure Completes (i : Instr) (s : State) (g : Group) (x : Ctx) (units sectors : Nat) (t : State) (h : Group) : Prop
    extends Retires i s g x units sectors t h where
  pc    : (h.frag x.fid).pc = x.next
  clear : (h.frag x.fid).hints = []

end Sys2Proof.Machine
end

