-- ==== Sys2Proof/Certificates/Slice0/Obligations.lean ====
section
/-! DEFINITION. Certificates/Slice0/Obligations.lean: the statements. -/

namespace Sys2Proof.Claims

open Sys2Proof.Machine

/-- What R104 to R108 give a scalar word: its PK, its destination, and the value. Signed results are those of the exact
integers, cut to 64 bits. -/
def scalarValue (x : Ctx) : Instr → Option (BitVec 2 × BitVec 6 × Word)
  | .add _ pk d a b => some (pk, d, x.s a + x.s b)
  | .sub _ pk d a b => some (pk, d, x.s a - x.s b)
  | .mul _ pk d a b => some (pk, d, BitVec.ofInt 64 ((x.s a).toInt * (x.s b).toInt))
  | .mulh _ pk d a b => some (pk, d, BitVec.ofInt 64 ((x.s a).toInt * (x.s b).toInt / 2 ^ 64))
  | .mulhn _ pk d a b => some (pk, d, BitVec.ofNat 64 ((x.s a).toNat * (x.s b).toNat / 2 ^ 64))
  | .div _ pk d a b => some (pk, d, if x.s b = 0#64 then BitVec.allOnes 64 else (x.s a).sdiv (x.s b))
  | .divn _ pk d a b => some (pk, d, if x.s b = 0#64 then BitVec.allOnes 64 else (x.s a).udiv (x.s b))
  | .rem _ pk d a b => some (pk, d, if x.s b = 0#64 then x.s a else (x.s a).srem (x.s b))
  | .remn _ pk d a b => some (pk, d, if x.s b = 0#64 then x.s a else (x.s a).umod (x.s b))
  | .and _ pk d a b => some (pk, d, x.s a &&& x.s b)
  | .or _ pk d a b => some (pk, d, x.s a ||| x.s b)
  | .xor _ pk d a b => some (pk, d, x.s a ^^^ x.s b)
  | .andn _ pk d a b => some (pk, d, x.s a &&& ~~~(x.s b))
  | .shl _ pk d a b => some (pk, d, BitVec.ofNat 64 ((x.s a).toNat * 2 ^ (x.s b).toNat))
  | .shr _ pk d a b => some (pk, d, BitVec.ofNat 64 ((x.s a).toNat / 2 ^ (x.s b).toNat))
  | .sra _ pk d a b => some (pk, d, BitVec.ofInt 64 ((x.s a).toInt / 2 ^ (x.s b).toNat))
  | .clz _ pk d a => some (pk, d, BitVec.ofNat 64 (if x.s a = 0#64 then 64 else 63 - (x.s a).toNat.log2))
  | .popc _ pk d a => some (pk, d, BitVec.ofNat 64 ((List.range 64).countP fun n => (x.s a).getLsbD n))
  | .min _ pk d a b => some (pk, d, BitVec.ofInt 64 (min (x.s a).toInt (x.s b).toInt))
  | .minn _ pk d a b => some (pk, d, BitVec.ofNat 64 (min (x.s a).toNat (x.s b).toNat))
  | .max _ pk d a b => some (pk, d, BitVec.ofInt 64 (max (x.s a).toInt (x.s b).toInt))
  | .maxn _ pk d a b => some (pk, d, BitVec.ofNat 64 (max (x.s a).toNat (x.s b).toNat))
  | .sel _ pk d a b => some (pk, d, if x.s d = 0#64 then x.s b else x.s a)
  | .mov _ pk d a => some (pk, d, x.s a)
  | .cmpeq _ pk d a b => some (pk, d, if x.s a = x.s b then 1#64 else 0#64)
  | .cmpne _ pk d a b => some (pk, d, if x.s a = x.s b then 0#64 else 1#64)
  | .cmplt _ pk d a b => some (pk, d, if (x.s a).toInt < (x.s b).toInt then 1#64 else 0#64)
  | .cmpltn _ pk d a b => some (pk, d, if (x.s a).toNat < (x.s b).toNat then 1#64 else 0#64)
  | .cmple _ pk d a b => some (pk, d, if (x.s a).toInt ≤ (x.s b).toInt then 1#64 else 0#64)
  | .cmplen _ pk d a b => some (pk, d, if (x.s a).toNat ≤ (x.s b).toNat then 1#64 else 0#64)
  | .addi _ pk d a i => some (pk, d, x.s a + immI x.hs i)
  | .andi _ pk d a i => some (pk, d, x.s a &&& immI x.hs i)
  | .ori _ pk d a i => some (pk, d, x.s a ||| immI x.hs i)
  | .xori _ pk d a i => some (pk, d, x.s a ^^^ immI x.hs i)
  | .shli _ pk d a i => some (pk, d, BitVec.ofNat 64 ((x.s a).toNat * 2 ^ i.toNat))
  | .shri _ pk d a i => some (pk, d, BitVec.ofNat 64 ((x.s a).toNat / 2 ^ i.toNat))
  | .srai _ pk d a i => some (pk, d, BitVec.ofInt 64 ((x.s a).toInt / 2 ^ i.toNat))
  | .movi _ pk d i => some (pk, d, immI x.hs i)
  | _ => none

/-- The group with a scalar register of a fragment set to 0: what a frame says nothing of. -/
def blankS (g : Group) (fid : Nat) (d : BitVec 6) : Group := g.modFrag fid fun f => f.wr d 0#64

/-- The group with a vector register set to 0 and without its gate mark. -/
def blankV (g : Group) (d : Nat) : Group :=
  { g with
    v := Vector.ofFn fun n => if n.val = d then Vector.replicate 64 0#32 else g.v[n.val]
    vmarks := Vector.ofFn fun n => if n.val = d then .none else g.vmarks[n.val] }

/-- The group with a mask register set to 0. -/
def blankK (g : Group) (d : BitVec 4) : Group := if d = 0#4 then g else { g with k := g.k.set d.toNat 0#64 d.isLt }

/-- An exact integer in a lane word: kept in its range under SAT, else its low 32 bits (R188, R198). -/
def kept (sat : Bool) (lo hi n : Int) : BitVec 32 := BitVec.ofInt 32 (if sat then max lo (min hi n) else n)

/-- The range of .i32 and of .n32. -/
def i32 (sat : Bool) (n : Int) : BitVec 32 := kept sat (-2147483648) 2147483647 n
/-- The same for .n32. -/
def n32 (sat : Bool) (n : Int) : BitVec 32 := kept sat 0 4294967295 n

/-- What R198, R200 to R203 give a lane-wise integer word: its lane mask, its destination, and the word of lane `l`. -/
def laneValue (x : Ctx) (l : Fin 64) : Instr → Option (Mask × BitVec 6 × BitVec 32)
  | .vadd _ pk d a b t sb => some (x.act pk, d,
      if t = 0#1 then i32 x.sat ((x.la a l).toInt + (x.lb sb b l).toInt) else n32 x.sat ((x.la a l).toNat + (x.lb sb b l).toNat))
  | .vsub _ pk d a b t sb => some (x.act pk, d,
      if t = 0#1 then i32 x.sat ((x.la a l).toInt - (x.lb sb b l).toInt) else n32 x.sat ((x.la a l).toNat - (x.lb sb b l).toNat))
  | .vmul _ pk d a b sb => some (x.act pk, d, i32 x.sat ((x.la a l).toInt * (x.lb sb b l).toInt))
  | .vmad _ pk d a b sb => some (x.act pk, d, i32 x.sat ((x.la a l).toInt * (x.lb sb b l).toInt + (x.la d l).toInt))
  | .vmulh _ pk d a b sb => some (x.act pk, d, BitVec.ofInt 32 ((x.la a l).toInt * (x.lb sb b l).toInt / 2 ^ 32))
  | .vmulhn _ pk d a b sb => some (x.act pk, d, BitVec.ofNat 32 ((x.la a l).toNat * (x.lb sb b l).toNat / 2 ^ 32))
  | .vand _ pk d a b sb => some (x.act pk, d, x.la a l &&& x.lb sb b l)
  | .vor _ pk d a b sb => some (x.act pk, d, x.la a l ||| x.lb sb b l)
  | .vxor _ pk d a b sb => some (x.act pk, d, x.la a l ^^^ x.lb sb b l)
  | .vandn _ pk d a b sb => some (x.act pk, d, x.la a l &&& ~~~(x.lb sb b l))
  | .vshl _ pk d a b sb => some (x.act pk, d, BitVec.ofNat 32 ((x.la a l).toNat * 2 ^ (x.lb sb b l).toNat))
  | .vshr _ pk d a b sb => some (x.act pk, d, BitVec.ofNat 32 ((x.la a l).toNat / 2 ^ (x.lb sb b l).toNat))
  | .vsra _ pk d a b sb => some (x.act pk, d, BitVec.ofInt 32 ((x.la a l).toInt / 2 ^ (x.lb sb b l).toNat))
  | .vmin _ pk d a b sb => some (x.act pk, d, BitVec.ofInt 32 (min (x.la a l).toInt (x.lb sb b l).toInt))
  | .vminn _ pk d a b sb => some (x.act pk, d, BitVec.ofNat 32 (min (x.la a l).toNat (x.lb sb b l).toNat))
  | .vmax _ pk d a b sb => some (x.act pk, d, BitVec.ofInt 32 (max (x.la a l).toInt (x.lb sb b l).toInt))
  | .vmaxn _ pk d a b sb => some (x.act pk, d, BitVec.ofNat 32 (max (x.la a l).toNat (x.lb sb b l).toNat))
  | .vsel _ pk d a b sb => some (x.f.mask, d, if (x.k (pk.setWidth 4)).getLsbD l.val then x.la a l else x.lb sb b l)
  | .vabs _ pk d a => some (x.act pk, d, BitVec.ofNat 32 (x.la a l).toInt.natAbs)
  | .vclz _ pk d a => some (x.act pk, d, BitVec.ofNat 32 (if x.la a l = 0#32 then 32 else 31 - (x.la a l).toNat.log2))
  | .vpopc _ pk d a => some (x.act pk, d, BitVec.ofNat 32 ((List.range 32).countP fun n => (x.la a l).getLsbD n))
  | .vmovV _ pk d a => some (x.act pk, d, x.la a l)
  | .vmovS _ pk d a => some (x.act pk, d, (x.s a).setWidth 32)
  | .vidx _ pk d => some (x.act pk, d, BitVec.ofNat 32 l.val)
  | .vaddi _ pk d a i => some (x.act pk, d, i32 x.sat ((x.la a l).toInt + ((immI x.hs i).setWidth 32).toInt))
  | .vandi _ pk d a i => some (x.act pk, d, x.la a l &&& (immI x.hs i).setWidth 32)
  | .vshli _ pk d a i => some (x.act pk, d, BitVec.ofNat 32 ((x.la a l).toNat * 2 ^ i.toNat))
  | .vshri _ pk d a i => some (x.act pk, d, BitVec.ofNat 32 ((x.la a l).toNat / 2 ^ i.toNat))
  | .vsrai _ pk d a i => some (x.act pk, d, BitVec.ofInt 32 ((x.la a l).toInt / 2 ^ i.toNat))
  | _ => none

/-- The exact result of a word of R198 or R202 that accepts SAT, and whether it is signed. -/
def laneExact (x : Ctx) (l : Fin 64) : Instr → Option (Bool × Int)
  | .vadd _ _ _ a b t sb => some (
      if t = 0#1 then (true, (x.la a l).toInt + (x.lb sb b l).toInt) else (false, (x.la a l).toNat + (x.lb sb b l).toNat))
  | .vsub _ _ _ a b t sb => some (
      if t = 0#1 then (true, (x.la a l).toInt - (x.lb sb b l).toInt) else (false, (x.la a l).toNat - (x.lb sb b l).toNat))
  | .vmul _ _ _ a b sb => some (true, (x.la a l).toInt * (x.lb sb b l).toInt)
  | .vmad _ _ d a b sb => some (true, (x.la a l).toInt * (x.lb sb b l).toInt + (x.la d l).toInt)
  | .vaddi _ _ _ a i => some (true, (x.la a l).toInt + ((immI x.hs i).setWidth 32).toInt)
  | _ => none

/-- SAT changes the value of a lane (R188): it asks for the range, and the exact result is outside it. -/
def clipped (x : Ctx) (i : Instr) (l : Fin 64) : Bool :=
  x.sat && match laneExact x l i with
    | some (true, n) => decide (n < -2147483648 ∨ 2147483647 < n)
    | some (false, n) => decide (n < 0 ∨ 4294967295 < n)
    | none => false

/-- What R213 and R215 give a word that writes a mask register from masks: its destination and the mask. -/
def maskValue (x : Ctx) : Instr → Option (BitVec 4 × Mask)
  | .kand _ d a b => some (d, x.k a &&& x.k b)
  | .kor _ d a b => some (d, x.k a ||| x.k b)
  | .kxor _ d a b => some (d, x.k a ^^^ x.k b)
  | .kandn _ d a b => some (d, x.k a &&& ~~~(x.k b))
  | .knot _ d a => some (d, ~~~(x.k a))
  | .kmovK _ d a => some (d, x.k a)
  | .kmovS _ d a => some (d, x.s a)
  | _ => none

/-- What R215 gives a word that writes a scalar register from a mask. -/
def fromMask (x : Ctx) : Instr → Option (BitVec 6 × Word)
  | .kget _ d a => some (d, x.k a)
  | .kpopc _ d a => some (d, BitVec.ofNat 64 ((List.range 64).countP fun n => (x.k a).getLsbD n))
  | .kffs _ d a => some (d, BitVec.ofNat 64 (((List.range 64).find? fun n => (x.k a).getLsbD n).getD 64))
  | _ => none

/-- What R204 gives `vcmp` in a lane: the conditions 0 to 5 are eq, ne, lt, le of .i32, then lt, le of .n32. -/
def lessLane (c : BitVec 3) (a b : BitVec 32) : Prop :=
  match c.toNat with
  | 0 => a = b
  | 1 => a ≠ b
  | 2 => a.toInt < b.toInt
  | 3 => a.toInt ≤ b.toInt
  | 4 => a.toNat < b.toNat
  | _ => a.toNat ≤ b.toNat

/-- The lane mask and the destination of a floating-point word that writes a vector register (R206 to R211), and whether it
can raise a flag. -/
def fpDest (x : Ctx) : Instr → Option (Mask × BitVec 6)
  | .fadd _ pk d _ _ _ | .fsub _ pk d _ _ _ | .fmul _ pk d _ _ _ | .fdiv _ pk d _ _ _ | .ffma _ pk d _ _ _ | .ffms _ pk d _ _ _ => some (x.act pk, d)
  | .fmin _ pk d _ _ _ | .fmax _ pk d _ _ _ => some (x.act pk, d)
  | .frcp _ pk d _ | .frsq _ pk d _ | .fsqrt _ pk d _ | .fexp2 _ pk d _ | .flog2 _ pk d _ | .fsin _ pk d _ | .fcos _ pk d _ => some (x.act pk, d)
  | .fclass _ pk d _ | .frnd _ pk d _ => some (x.act pk, d)
  | .hadd2 _ pk d _ _ _ | .hmul2 _ pk d _ _ _ => some (x.act pk, d)
  | .hfma2 _ pk d _ _ _ _ => some (x.act pk, d)
  | .cvt _ pk d _ _ _ | .cvtSr _ pk d _ _ _ => some (x.act pk, d)
  | _ => none

/-- The lane a cross-lane word takes its word from, for lane `l`, with its PK, destination and source (R211). -/
def crossSource (x : Ctx) (l : Fin 64) : Instr → Option (BitVec 2 × BitVec 6 × BitVec 6 × Nat)
  | .vperm _ pk d a b sb => some (pk, d, a, (x.lb sb b l).toNat % 64)
  | .vshflXor _ pk d a b sb => some (pk, d, a, l.val ^^^ ((x.lb sb b l).toNat % 64))
  | .vshflRot _ pk d a b sb => some (pk, d, a, (l.val + (x.lb sb b l).toNat) % 64)
  | .vbcast _ pk d a b => some (pk, d, a, (x.s b).toNat % 64)
  | _ => none

/-- No other fragment of the group has a write to vA in flight (R212): of a word of the core, also of a fragment that has ended
since, of a memory word or of a gate word. -/
def unraced (g : Group) (fid : Nat) (a : BitVec 6) : Prop :=
  (∀ p ∈ g.orphans, p.isV a.toNat = false) ∧ (∀ j, j < 4 → j ≠ fid → ∀ p ∈ (g.frag j).pend, p.isV a.toNat = false) ∧
  (∀ r ∈ g.reqs, r.frag ≠ fid → r.vdst.contains a.toNat = false) ∧
  ∀ w ∈ g.gates, w.frag ≠ fid → w.vregs.contains a.toNat = false

/-- The combination and the value of an empty set of the integer reductions (R213). -/
def redInt : Nat → Option ((BitVec 32 → BitVec 32 → BitVec 32) × BitVec 32)
  | 0 => some (fun a b => a + b, 0#32)
  | 2 => some (fun a b => BitVec.ofInt 32 (min a.toInt b.toInt), 0x7FFFFFFF#32)
  | 3 => some (fun a b => BitVec.ofInt 32 (max a.toInt b.toInt), 0x80000000#32)
  | 4 => some (fun a b => BitVec.ofNat 32 (min a.toNat b.toNat), 0xFFFFFFFF#32)
  | 5 => some (fun a b => BitVec.ofNat 32 (max a.toNat b.toNat), 0#32)
  | 8 => some (fun a b => a &&& b, 0xFFFFFFFF#32)
  | 9 => some (fun a b => a ||| b, 0#32)
  | 10 => some (fun a b => a ^^^ b, 0#32)
  | _ => none

/-- The entry of a stage of a reduction, by its index: neighbours combine, the lower index on the left, and an absent one passes the other (R214). -/
def stageEntry (op : BitVec 32 → BitVec 32 → BitVec 32) (w : Nat → Option (BitVec 32)) : Nat → Nat → Option (BitVec 32)
  | 0, j => w j
  | n + 1, j =>
    match stageEntry op w n (2 * j), stageEntry op w n (2 * j + 1) with
    | some a, some b => some (op a b)
    | some a, none => some a
    | none, b => b

/-- A word is a .f32 NaN (R180). -/
def isNanWord (a : BitVec 32) : Prop := 0x7F800000 < a.toNat % 2 ^ 31

/-- A word is a finite .f32 number (R177). -/
def finiteWord (a : BitVec 32) : Prop := a.toNat / 2 ^ 23 % 2 ^ 8 ≠ 255

/-- The value of a finite .f32 word (R177). -/
def f32Value (a : BitVec 32) : ℚ :=
  let e : Nat := a.toNat / 2 ^ 23 % 2 ^ 8
  let f : Nat := a.toNat % 2 ^ 23
  let v : ℚ := if e = 0 then (f : ℚ) * (2 : ℚ) ^ (-149 : ℤ) else ((2 ^ 23 + f : Nat) : ℚ) * (2 : ℚ) ^ ((e : ℤ) - 150)
  if a.getLsbD 31 then -v else v

/-- The operands of lane `l` and the exact result of R206. -/
def fpExact (x : Ctx) (l : Fin 64) : Instr → Option (List (BitVec 32) × ℚ)
  | .fadd _ _ _ a b sb => some ([x.la a l, x.lb sb b l], f32Value (x.la a l) + f32Value (x.lb sb b l))
  | .fsub _ _ _ a b sb => some ([x.la a l, x.lb sb b l], f32Value (x.la a l) - f32Value (x.lb sb b l))
  | .fmul _ _ _ a b sb => some ([x.la a l, x.lb sb b l], f32Value (x.la a l) * f32Value (x.lb sb b l))
  | .fdiv _ _ _ a b sb => some ([x.la a l, x.lb sb b l], f32Value (x.la a l) / f32Value (x.lb sb b l))
  | .ffma _ _ d a b sb => some ([x.la a l, x.lb sb b l, x.la d l], f32Value (x.la a l) * f32Value (x.lb sb b l) + f32Value (x.la d l))
  | .ffms _ _ d a b sb => some ([x.la a l, x.lb sb b l, x.la d l], f32Value (x.la a l) * f32Value (x.lb sb b l) - f32Value (x.la d l))
  | _ => none

/-- A NaN of a format by its code (R64, R177): .f32, .f16, .bf16. -/
def isNanOf (c a : Nat) : Prop := if c = 0 then 0x7F800000 < a % 2 ^ 31 else if c = 1 then 0x7C00 < a % 2 ^ 15 else 0x7F80 < a % 2 ^ 15

/-- The canonical NaN of a format by its code (R177). -/
def canonNan (c : Nat) : BitVec 32 := if c = 0 then 0x7FC00000#32 else if c = 1 then 0x7E00#32 else 0x7FC0#32

/-- The operands of lane `l` of a .f32 word that propagates a NaN (R184, R189, R206, R208). -/
def nanOperands (x : Ctx) (l : Fin 64) : Instr → List (BitVec 32)
  | .fadd _ _ _ a b sb | .fsub _ _ _ a b sb | .fmul _ _ _ a b sb | .fdiv _ _ _ a b sb => [x.la a l, x.lb sb b l]
  | .ffma _ _ d a b sb | .ffms _ _ d a b sb => [x.la a l, x.lb sb b l, x.la d l]
  | .frcp _ _ _ a | .frsq _ _ _ a | .fsqrt _ _ _ a | .fexp2 _ _ _ a | .flog2 _ _ _ a | .fsin _ _ _ a | .fcos _ _ _ a => [x.la a l]
  | .frnd _ _ _ a => [x.la a l]
  | _ => []

/-- The operands of lane `l` of a packed word, and the code of its format (R209). -/
def packedOperands (x : Ctx) (l : Fin 64) : Instr → Option (Nat × List (BitVec 32))
  | .hadd2 _ _ _ a b t | .hmul2 _ _ _ a b t => some (t.toNat + 1, [x.la a l, x.la b l])
  | .hfma2 _ _ d a b t sb => some (t.toNat + 1, [x.la a l, x.lb sb b l, x.la d l])
  | _ => none

/-- The word that Philox-4x32-10 gives a seed and a counter (R192). -/
def philoxWord (seed : Nat) (c : Nat × Nat × Nat × Nat) : BitVec 32 :=
  let round := fun (z : (Nat × Nat) × Nat × Nat × Nat × Nat) =>
    let ((y0, y1), c0, c1, c2, c3) := z
    let p := c0 * 0xD2511F53
    let q := c2 * 0xCD9E8D57
    (((y0 + 0x9E3779B9) % 2 ^ 32, (y1 + 0xBB67AE85) % 2 ^ 32),
      (q / 2 ^ 32 ^^^ c1 ^^^ y0, q % 2 ^ 32, p / 2 ^ 32 ^^^ c3 ^^^ y1, p % 2 ^ 32))
  BitVec.ofNat 32 ((List.range 10).foldl (fun z _ => round z) ((seed % 2 ^ 32, seed / 2 ^ 32), c)).2.1

/-- The order of .f32 numbers, with −0 below +0 (R207). -/
def ordKey (a : BitVec 32) : Int := if a.getLsbD 31 then -((a.toNat % 2 ^ 31 : Nat) : Int) - 1 else (a.toNat % 2 ^ 31 : Nat)

/-- What `fmin` gives, `fmax` where `up` (R207), while nothing is flushed. -/
def chosen (up : Bool) (a b : BitVec 32) : BitVec 32 :=
  let nan := fun (y : BitVec 32) => decide (0x7F800000 < y.toNat % 2 ^ 31)
  if nan a && nan b then 0x7FC00000#32 else if nan a then b else if nan b then a
  else if (ordKey a ≤ ordKey b) ≠ (up = true) then a else b

/-- The sum of two .f32 words, rounded to nearest even (R177, R182, R184, R206): of finite ones in units of 2^-149. -/
def sum32 (a b : BitVec 32) : BitVec 32 :=
  let part := fun (y : BitVec 32) => y.toNat % 2 ^ 31
  let units := fun (y : BitVec 32) =>
    let e := y.toNat / 2 ^ 23 % 2 ^ 8
    let n : Int := if e = 0 then y.toNat % 2 ^ 23 else ((2 ^ 23 + y.toNat % 2 ^ 23) * 2 ^ (e - 1) : Nat)
    if y.getLsbD 31 then -n else n
  if 0x7F800000 < part a ∨ 0x7F800000 < part b then 0x7FC00000#32
  else if part a = 0x7F800000 then (if part b = 0x7F800000 ∧ a ≠ b then 0x7FC00000#32 else a)
  else if part b = 0x7F800000 then b
  else
    let n := units a + units b
    let k := n.natAbs.log2 - 23
    let q := n.natAbs / 2 ^ k
    let rest := 2 * (n.natAbs % 2 ^ k)
    let up := if 2 ^ k < rest ∨ (2 ^ k = rest ∧ q % 2 = 1) then 1 else 0
    let neg := if n = 0 then a.getLsbD 31 && b.getLsbD 31 else decide (n < 0)
    BitVec.ofNat 32 ((if neg then 2 ^ 31 else 0) + min (k * 2 ^ 23 + q + up) 0x7F800000)

/-- The .f32 reductions: the combination and the value of an empty set (R213). -/
def redFloat : Nat → Option ((BitVec 32 → BitVec 32 → BitVec 32) × BitVec 32)
  | 1 => some (sum32, 0#32)
  | 6 => some (chosen false, 0x7F800000#32)
  | 7 => some (chosen true, 0xFF800000#32)
  | _ => none

/-- The bit that `fclass` sets (R208), which reads after FTZ. -/
def classBit (ftz : Bool) (a : BitVec 32) : Nat :=
  let neg := a.getLsbD 31
  let e := a.toNat / 2 ^ 23 % 2 ^ 8
  let f := a.toNat % 2 ^ 23
  if e = 255 then (if f = 0 then (if neg then 0 else 7) else if f < 2 ^ 22 then 8 else 9)
  else if e = 0 then (if f = 0 ∨ ftz = true then (if neg then 3 else 4) else if neg then 2 else 5)
  else if neg then 1 else 6

/-- The cases of R189 whose result is a word of the table: `+0`, `−0`, `+∞`, `−∞`, 1. -/
def tableCase : Instr → BitVec 32 → Option (BitVec 32)
  | .frcp .., 0x00000000#32 => some 0x7F800000#32
  | .frcp .., 0x80000000#32 => some 0xFF800000#32
  | .frcp .., 0x7F800000#32 => some 0x00000000#32
  | .frcp .., 0xFF800000#32 => some 0x80000000#32
  | .frsq .., 0x00000000#32 => some 0x7F800000#32
  | .frsq .., 0x80000000#32 => some 0xFF800000#32
  | .frsq .., 0x7F800000#32 => some 0x00000000#32
  | .frsq .., 0xFF800000#32 => some 0x7FC00000#32
  | .fsqrt .., 0x80000000#32 => some 0x80000000#32
  | .fsqrt .., 0x7F800000#32 => some 0x7F800000#32
  | .fsqrt .., 0xFF800000#32 => some 0x7FC00000#32
  | .fexp2 .., 0x00000000#32 => some 0x3F800000#32
  | .fexp2 .., 0x80000000#32 => some 0x3F800000#32
  | .fexp2 .., 0x7F800000#32 => some 0x7F800000#32
  | .fexp2 .., 0xFF800000#32 => some 0x00000000#32
  | .flog2 .., 0x00000000#32 => some 0xFF800000#32
  | .flog2 .., 0x80000000#32 => some 0xFF800000#32
  | .flog2 .., 0x3F800000#32 => some 0x00000000#32
  | .flog2 .., 0x7F800000#32 => some 0x7F800000#32
  | .flog2 .., 0xFF800000#32 => some 0x7FC00000#32
  | .fsin .., 0x00000000#32 => some 0x00000000#32
  | .fsin .., 0x80000000#32 => some 0x80000000#32
  | .fsin .., 0x7F800000#32 => some 0x7FC00000#32
  | .fsin .., 0xFF800000#32 => some 0x7FC00000#32
  | .fcos .., 0x00000000#32 => some 0x3F800000#32
  | .fcos .., 0x80000000#32 => some 0x3F800000#32
  | .fcos .., 0x7F800000#32 => some 0x7FC00000#32
  | .fcos .., 0xFF800000#32 => some 0x7FC00000#32
  | _, _ => none

/-- A word that the rules give lane `l` of a word without a MOD word: the choice of `fmin` and `fmax`, the class, an operand that `frnd`
leaves as it is, a case of R189's table, and conversions between .i32 and .f32 that are exact (R207, R208, R189, R210). -/
def gives (x : Ctx) (ftz : Bool) (l : Fin 64) (w : BitVec 32) : Instr → Prop
  | .fmin _ _ _ a b sb => ftz = false ∧ w = chosen false (x.la a l) (x.lb sb b l)
  | .fmax _ _ _ a b sb => ftz = false ∧ w = chosen true (x.la a l) (x.lb sb b l)
  | .fclass _ _ _ a => w = BitVec.ofNat 32 (2 ^ classBit ftz (x.la a l))
  | .frnd _ _ _ a => w = x.la a l ∧ (w.toNat % 2 ^ 31 = 0x7F800000 ∨ (finiteWord w ∧ ∃ n : ℤ, f32Value w = n))
  | .cvt _ _ _ a u v =>
    (u = 0#3 ∧ v = 3#3 ∧ finiteWord w ∧ f32Value w ≠ 0 ∧ f32Value w = (x.la a l).toInt) ∨
    (u = 3#3 ∧ v = 0#3 ∧ finiteWord (x.la a l) ∧ f32Value (x.la a l) = w.toInt)
  | i => ∃ o, nanOperands x l i = [o] ∧ tableCase i o = some w

/-- A conversion, rounded or stochastic, of an FP type: its codes and its source (R210). -/
def fpSource (x : Ctx) (l : Fin 64) : Instr → Option (Nat × Nat × BitVec 32)
  | .cvt _ _ _ a u v | .cvtSr _ _ _ a u v => if v.toNat ≤ 2 then some (u.toNat, v.toNat, x.la a l) else none
  | _ => none

/-- Where a control transfer goes, and whether it is taken (R109 to R111). -/
def transfer (x : Ctx) : Instr → Option (Bool × Word)
  | .bra _ o => some (true, x.addr + 4#64 * immB x.hs o)
  | .bz _ a o => some (x.s a == 0#64, x.addr + 4#64 * immB x.hs o)
  | .bnz _ a o => some (x.s a != 0#64, x.addr + 4#64 * immB x.hs o)
  | .jmp _ a => some (true, x.s a)
  | .ret _ => some (true, x.s 63#6)
  | _ => none

/-- A target that R112 lets pass. -/
def goodTarget (a : Word) : Prop := a.toNat % 4 = 0 ∧ a.toNat < 2 ^ 55

/-- A word that only goes on to the next unit, and the sectors it is charged (R117, R245, R248, R253). -/
def onlyAdvances (x : Ctx) (g : Group) : Instr → Option Nat
  | .nop _ => some 0
  | .fence .. => if g.quiet then some 0 else none
  | .pref _ pk a b =>
    if g.orderHeld false then none
    else some (sectorsOf false 1 (x.vecLanes pk (x.s a + immM x.hs) b 1 (fun _ => 0#64) fun _ => 0#64))
  | _ => none

/-- A split-table entry that says nothing, in the place of one a frame says nothing of. -/
def noFrag : Frag :=
  { mask := 0#64, pc := 0#64, state := .free, seam := none, s := Vector.replicate 64 0#64, hints := [], pend := [], nextIssue := 0,
    lastIssue := 0, parkedAt := 0, wait := .none, fetchRec := none, heldTrap := none, heldLand := false, paid := none }

/-- The group without two of its split-table entries, its join stack and its count of splits. -/
def blankF (g : Group) (a b : Nat) : Group := { (g.setFrag a noFrag).setFrag b noFrag with stack := [], seamCount := 0#8 }

/-- The trap that a software trap takes: its cause, its address field, and the next unit as its return PC (R118). -/
def softTrap (x : Ctx) : Instr → Option TrapArgs
  | .brk _ => some (.precise .debug 0#64 x.next)
  | .trap _ c => some (.precise .swtrap (c.setWidth 64) x.next)
  | _ => none

/-- Special registers that a group holds whole, as `gets` reads them (R90, R120): `g` before the word, `h` after its charge. -/
def plainSpecial (g h : Group) : Nat → Option Word
  | 0x01 => some (BitVec.ofNat 64 h.team.index)
  | 0x08 => some (BitVec.ofNat 64 (h.ibud % 2 ^ 48))
  | 0x09 => some (BitVec.ofNat 64 (h.mbud % 2 ^ 48))
  | 0x0A => some h.landing.land
  | 0x0B => some h.landing.lret
  | 0x11 => some (h.evm.setWidth 64)
  | 0x12 => some h.evinfo
  | 0x15 => some h.trap.tvec
  | 0x16 => some (h.trap.tdeliver.setWidth 64)
  | 0x18 => some h.trap.taddr
  | 0x19 => some h.trap.tmask
  | 0x1D => some (BitVec.ofNat 64 g.icnt)
  | 0x20 => some (h.fflags.setWidth 64)
  | _ => none

/-- A word with its fields at their lowest bits. -/
def ofFields (fs : List (Nat × Nat)) : Word := BitVec.ofNat 64 (fs.map fun f => f.2 * 2 ^ f.1).sum

/-- The fields of the other special registers, each at its lowest bit (R2, R88, R90 to R95, R97, R128 to R130, R153, R324 to R326, R387,
R399): `g` before the word, `h` after its charge, in a launch `l` and a team `m`, read by fragment `fid`. -/
def specialFields (s : State) (g h : Group) (fid : Nat) (l : Launch) (m : Team) (n : Nat) : Option (List (Nat × Nat)) :=
  let r := l.record
  let grid := !g.team.origin
  let bound := fun (f : Binding → Bool) (lo : Nat) => (List.range 8).map fun e => (lo + e, ((h.slotAt e).elim false f).toNat)
  let session := if r.sess then s.sessions.find? fun y => y.sid == r.sid else none
  match n with
  | 0x00 => some [(24, ((if grid then r.groups else 1) - 1) % 32), (16, fid % 4), (8, g.slot % 32), (0, g.gidx % 32)]
  | 0x02 => some [(16, if 1 < m.shape ∧ grid = true then g.team.index / m.shape else 0),
      (12, if m.shape = 2 then 1 else if m.shape = 4 then 2 else 0), (10, m.pos % 4), (0, g.core % 1024)]
  | 0x03 => some [(0, g.part % 64)]
  | 0x04 => some [(0, r.lid.toNat)]
  | 0x05 => some (if grid then
      [(16, r.prod % 32), (8, if r.prod = g.gidx then 1 else 0), (0, r.roles.toNat / 2 ^ (4 * g.gidx) % 16)]
      else [(8, 1), (0, r.roles.toNat % 16)])
  | 0x0C => some [(7, h.landing.clampp.toNat), (6, h.landing.inres.toNat), (4, h.landing.frag.toNat), (0, h.landing.cause.toNat)]
  | 0x0D => some [(32, h.landing.topr.toNat), (16, h.landing.mres), (0, h.landing.ires)]
  | 0x0E => some [(32, m.mpool), (0, m.ipool)]
  | 0x10 => some (bound (·.pers) 16 ++ bound (fun _ => true) 8 ++ bound (·.pend) 0)
  | 0x14 =>
    let top := h.stack.getLast?
    some [(24, (h.stack.filter (·.isTrap)).length), (16, top.elim 0 (·.id.toNat)), (8, top.elim 0 fun e => if e.isTrap then 2 else 1),
      (0, h.stack.length)]
  | 0x17 => some [(16, h.trap.frag.toNat), (9, h.trap.replay.toNat), (8, h.trap.defer.toNat), (0, h.trap.cause.toNat)]
  | 0x1C => some [(0, if s.isDet g then g.retired else s.clock)]
  | 0x21 => some [(63, h.privl.toNat), (1, h.rm.toNat), (0, h.ftz.toNat)]
  | 0x22 => some [(1, h.lchk.toNat), (0, (h.uchk || s.isDet g).toNat)]
  | 0x24 => some [(0, l.seed.toNat)]
  | 0x25 => some [(16, m.vfree), (0, h.valloc)]
  | 0x26 =>
    let (code, cores, dies, ports, peer, gate) := match s.variant with
      | .kn960 => (1, 960, 4, 4, 1, 1)
      | .kn960l => (2, 960, 4, 4, 0, 0)
      | .kn480 => (3, 480, 2, 2, 1, 0)
    some [(32, code), (16, cores), (9, ((s.part? g.part).elim false fun p => p.q2 != []).toNat), (6, ports), (5, peer), (4, gate), (0, dies)]
  | 0x30 => some (session.elim [] fun y => [(32, y.frac), (31, h.sessValid.toNat),
      (16, (if y.part0 = some g.part then y.part1 else y.part0).getD 0 % 64), (0, y.sid % 32)])
  | 0x31 => some (session.elim [] fun y =>
      let role := if y.part0 = some g.part then 0 else 1
      [(2, grid.toNat), (1, y.reveal / 2 ^ role % 2), (0, role)])
  | 0x32 => some [(63, h.injArm.toNat), (32, h.injKind.toNat), (0, h.injAfter.toNat)]
  | 0x38 => some (if s.isDet g then [(32, h.qround.toNat), (0, h.qcnt % 2 ^ 17)] else [])
  | n => if 0x28 ≤ n ∧ n ≤ 0x2F then
      let t := h.shape (n - 0x28)
      some [(24, t.rows - 1), (16, t.ew.toNat), (0, t.cols)]
    else none

/-- Values that `sets` does not refuse for a special register (R92, R95, R121, R127 to R129, R326). -/
def accepts (n : Nat) (v : Word) : Prop :=
  ((n = 0x0A ∨ n = 0x0B ∨ n = 0x15) → goodTarget v) ∧
  (n = 0x0D → 16 ≤ v.toNat % 2 ^ 11 ∧ v.toNat % 2 ^ 11 ≤ 1024 ∧ 16 ≤ v.toNat / 2 ^ 16 % 2 ^ 11 ∧ v.toNat / 2 ^ 16 % 2 ^ 11 ≤ 1024) ∧
  (n = 0x21 → 1 ≤ v.toNat / 2 % 8 ∧ v.toNat / 2 % 8 ≤ 5) ∧
  (n = 0x32 → v.toNat / 2 ^ 32 % 4 < 2) ∧
  (0x28 ≤ n → n ≤ 0x2F → TileShape.bad ⟨v.toNat / 2 ^ 24 % 128 + 1, v.extractLsb' 16 2, v.toNat % 2 ^ 10⟩ = false)

/-- What a special register holds after `sets` has written v to it: group `g` before, `h` after, in state `t` (R90 to R95, R121,
R126 to R130, R135, R146, R153 to R155, R326, R387, R399). -/
def specialHolds (t : State) (g h : Group) (v : Word) : Nat → Prop
  | 0x08 => h.ibud = v.toNat % 2 ^ 48
  | 0x09 => h.mbud = v.toNat % 2 ^ 48
  | 0x0A => h.landing.land = v
  | 0x0B => h.landing.lret = v
  | 0x0C => h.landing.cause = v.extractLsb' 0 2 ∧ h.landing.frag = v.extractLsb' 4 2 ∧ h.landing.inres = v.getLsbD 6 ∧
      h.landing.clampp = (v.getLsbD 7 && !(g.landing.inres && !v.getLsbD 6)) ∧
      (g.landing.inres = true → v.getLsbD 6 = false → ∀ f, f < 4 → (h.frag f).heldLand = false ∧
        ((g.frag f).state = .held → (g.frag f).heldTrap = none → (h.frag f).state = .ready))
  | 0x0D => h.landing.ires = v.toNat % 2 ^ 11 ∧ h.landing.mres = v.toNat / 2 ^ 16 % 2 ^ 11 ∧ h.landing.topr = v.getLsbD 32
  | 0x0E => ∀ m, t.team? g.team = some m → m.ipool = v.toNat % 2 ^ 32 ∧ m.mpool = v.toNat / 2 ^ 32
  | 0x10 => ∀ e, e < 8 → (h.slotAt e).map (·.pend) = (g.slotAt e).map fun b => v.getLsbD e && (srcKind b.desc != 3 || !g.mailbox.isEmpty)
  | 0x11 => h.evm = v.setWidth 8
  | 0x12 => h.evinfo = v &&& 0xF0070000FFFFFFFF#64
  | 0x15 => h.trap.tvec = v
  | 0x16 => h.trap.tdeliver = v.setWidth 32 &&& 0x0C8F19FE#32
  | 0x17 => h.trap.cause = v.setWidth 8 ∧ h.trap.defer = v.getLsbD 8 ∧ h.trap.replay = v.getLsbD 9 ∧ h.trap.frag = v.extractLsb' 16 2
  | 0x18 => h.trap.taddr = v
  | 0x19 => h.trap.tmask = v
  | 0x20 => h.fflags = v.setWidth 6
  | 0x21 => h.rm.toNat = v.toNat / 2 % 8 ∧ h.ftz = v.getLsbD 0
  | 0x22 => h.lchk = v.getLsbD 1 ∧ (t.isDet g = false → h.uchk = v.getLsbD 0)
  | 0x32 => h.injArm = v.getLsbD 63 ∧ h.injKind = v.extractLsb' 32 2 ∧ h.injAfter = v.setWidth 16
  | 0x38 => if t.isDet g = true then h.qround = v.extractLsb' 32 32 ∧ h.qcnt = v.toNat % 2 ^ 17 else h.qround = g.qround ∧ h.qcnt = g.qcnt
  | n => 0x28 ≤ n → n ≤ 0x2F → h.shape (n - 0x28) = ⟨v.toNat / 2 ^ 24 % 128 + 1, v.extractLsb' 16 2, v.toNat % 2 ^ 10⟩

/-- The special register and the source of a `sets`, in its three encodings (R121, R146, R326). -/
def setsOf : Instr → Option (Nat × BitVec 6)
  | .sets _ n a => some (n.toNat, a)
  | .setsGinj _ a => some (0x32, a)
  | .setsLcause _ a => some (0x0C, a)
  | _ => none

/-- Word `i` is charged and counted, and outside of sD it leaves the scalar and mask registers and the descriptors of its group. -/
structure Goes (i : Instr) (s : State) (g : Group) (x : Ctx) (units sectors : Nat) (d : BitVec 6) (t : State) (h : Group) : Prop where
  runs    : exec i s = .next t
  group   : t.group? x.core x.slot = some h
  ibud    : h.ibud = g.ibud - (g.frag x.fid).owes ((useIn x.hs i).charge + units)
  mbud    : h.mbud = g.mbud - (g.frag x.fid).owes sectors
  icnt    : h.icnt = g.icnt + 1
  scalars : ∀ f, f < 4 → ((blankS h x.fid d).frag f).s = ((blankS g x.fid d).frag f).s
  masks   : h.k = g.k
  buffers : h.b = g.b

/-- Two groups hold the same vector registers, tiles and accumulators. -/
def sameData (g h : Group) : Prop := h.v = g.v ∧ h.tiles = g.tiles ∧ h.accs = g.accs

/-- Two states hold the same memory, tags and teams, windows included. -/
def keeps (s t : State) : Prop := t.mem = s.mem ∧ t.tags = s.tags ∧ t.teams = s.teams

/-- The slot, source, handler and persistence of an `ebind` (R156). -/
def bindOf : Instr → Option (BitVec 3 × BitVec 6 × BitVec 6 × Bool)
  | .ebind _ d a b => some (d, a, b, false)
  | .ebindPers _ d a b => some (d, a, b, true)
  | _ => none

/-- What R152 latches at once: a phase that is reached, a batch count that holds already, a mailbox that holds a token, a window word that
meets its test, a timer of 0, a trap queue that is not empty. -/
def latchesNow (s : State) (g : Group) (v : Word) : Option Bool :=
  match v.toNat / 2 ^ 60 with
  | 1 => (s.peg? g (v &&& 0xFFFFFFFF#64)).map fun p => decide ((p.phase - v.extractLsb' 32 16).toNat < 2 ^ 15)
  | 4 => (s.team? g.team).map fun m =>
      (decide (readLE m.window (v.toNat / 2 ^ 32 % 2 ^ 20) 4 = v.toNat % 2 ^ 32)) != v.getLsbD 59
  | 7 => (s.part? g.part).map fun p => decide (p.tqTail ≠ p.tqHead)
  | 2 => some (decide ((g.batch (.ofCode (v.toNat % 4))).seals.length ≤ v.toNat / 2 ^ 8 % 2 ^ 8))
  | 3 => some (!g.mailbox.isEmpty)
  | 5 => some (decide (v.toNat % 2 ^ 48 = 0))
  | _ => none

/-- The lanes of a vector word and their addresses: base plus offset (R217). -/
def eas (x : Ctx) (pk : BitVec 2) (base : Word) (b : BitVec 6) (n : Nat) : List (Nat × Word) :=
  (lanesOf (x.f.mask &&& x.k (pk.setWidth 4))).map fun l =>
    (l, base + if b = 0#6 then BitVec.ofNat 64 (l * n) else (laneAt (x.v b) l).signExtend 64)

/-- The lane of a scalar word and its address, when PK leaves a lane (R240). -/
def ea1 (x : Ctx) (pk : BitVec 2) (a : Word) : List (Nat × Word) :=
  if x.f.mask &&& x.k (pk.setWidth 4) = 0#64 then [] else [(0, a)]

/-- Bytes of an access of width code Z or of the .32 and .64 forms (R234, R241, R242). -/
def wide (z : BitVec 1) : Nat := if z = 1#1 then 8 else 4

/-- The word of a lane of vD, and of vD and vD+1 for 8 bytes (R237). -/
def pair (x : Ctx) (d : BitVec 6) (n l : Nat) : Word :=
  if n = 8 then laneAt (x.v (d + 1#6)) l ++ laneAt (x.v d) l else (laneAt (x.v d) l).setWidth 64

/-- Lanes with what they store, and the second operand of a `cas`. -/
def stores (ls : List (Nat × Word)) (data new : Nat → Word) : List LaneIn := ls.map fun (l, a) => ⟨l, a, data l, new l⟩

/-- What R219, R234 to R242 and R246 say of a global memory word. -/
def globalOf (x : Ctx) : Instr → Option MemSpec
  | .ldv _ pk d a b z =>
    let n := 2 ^ z.toNat
    some ⟨.load, .load, false, n, false, d.toNat, false, false, stores (eas x pk (x.s a + immM x.hs) b n) (fun _ => 0#64) fun _ => 0#64⟩
  | .stv _ pk d a b z =>
    let n := 2 ^ z.toNat
    some ⟨.store, .store, false, n, false, d.toNat, false, false, stores (eas x pk (x.s a + immM x.hs) b n) (pair x d n) fun _ => 0#64⟩
  | .ldx _ pk d a z =>
    some ⟨.load, .load, false, 2 ^ z.toNat, true, d.toNat, false, false, stores (ea1 x pk (x.s a + immM x.hs)) (fun _ => 0#64) fun _ => 0#64⟩
  | .stx _ pk d a z =>
    some ⟨.store, .store, false, 2 ^ z.toNat, true, d.toNat, false, false, stores (ea1 x pk (x.s a + immM x.hs)) (fun _ => x.s d) fun _ => 0#64⟩
  | .ldacq _ pk d a _ z =>
    some ⟨.load, .load, true, wide z, true, d.toNat, true, false, stores (ea1 x pk (x.s a + immM x.hs)) (fun _ => 0#64) fun _ => 0#64⟩
  | .strel _ pk d a _ z =>
    some ⟨.store, .store, true, wide z, true, d.toNat, false, true, stores (ea1 x pk (x.s a + immM x.hs)) (fun _ => x.s d) fun _ => 0#64⟩
  | .atom _ pk d a b z =>
    let c := atomCtl x.hs
    some ⟨.atomic c.op, .rmw, true, wide z, false, d.toNat, c.order % 2 == 1, c.order / 2 % 2 == 1,
      stores (eas x pk (x.s a) b (wide z)) (pair x d (wide z)) (pair x (d + BitVec.ofNat 6 (wide z / 4)) (wide z))⟩
  | .atoms _ pk d a z =>
    let c := atomCtl x.hs
    some ⟨.atomic c.op, .rmw, true, wide z, true, d.toNat, c.order % 2 == 1, c.order / 2 % 2 == 1,
      stores (ea1 x pk (x.s a)) (fun _ => x.s d) fun _ => x.s (d + 1#6)⟩
  | .red _ pk d a b z =>
    let c := atomCtl x.hs
    some ⟨.red c.op, .red, true, wide z, false, d.toNat, false, c.order / 2 % 2 == 1,
      stores (eas x pk (x.s a) b (wide z)) (pair x d (wide z)) fun _ => 0#64⟩
  | .tagld _ pk d a =>
    some ⟨.tagld, .tagld, false, 1, true, d.toNat, false, false, stores (ea1 x pk (x.s a + immM x.hs)) (fun _ => 0#64) fun _ => 0#64⟩
  | .tagst _ pk d a =>
    some ⟨.tagst, .tagst, false, 1, true, d.toNat, false, false, stores (ea1 x pk (x.s a + immM x.hs)) (fun _ => x.s d) fun _ => 0#64⟩
  | _ => none

/-- A request stands for a word: its kind, its width, its destination, its lanes in order at their addresses. -/
def standsFor (m : MemSpec) (x : Ctx) (r : Request) : Prop :=
  r.kind = m.kind ∧ r.size = m.n ∧ r.scalar = m.scalar ∧ r.dst = m.dst ∧ r.acquire = m.acquire ∧ r.frag = x.fid ∧ r.pc = x.unit ∧
  r.lanes.map (fun l => (l.lane, l.ea)) = m.ins.map fun l => (l.lane, l.ea)

/-- A window word: whether it stores, the position it names (none: its own window), its width, its destination, its lanes
(R224, R226, R238). -/
def windowOf (x : Ctx) : Instr → Option (Bool × Option Nat × Nat × BitVec 6 × List LaneIn)
  | .lds _ pk d a b z =>
    let n := 2 ^ z.toNat
    some (false, none, n, d, stores (eas x pk (x.s a + immM x.hs) b n) (fun _ => 0#64) fun _ => 0#64)
  | .sts _ pk d a b z =>
    let n := 2 ^ z.toNat
    some (true, none, n, d, stores (eas x pk (x.s a + immM x.hs) b n) (pair x d n) fun _ => 0#64)
  | .ldp _ pk d a b q => some (false, some q.toNat, 4, d, stores (eas x pk (x.s a + immM x.hs) b 4) (fun _ => 0#64) fun _ => 0#64)
  | .stp _ pk d a b q => some (true, some q.toNat, 4, d, stores (eas x pk (x.s a + immM x.hs) b 4) (pair x d 4) fun _ => 0#64)
  | _ => none

/-- A buffer word: whether it stores, its descriptor, its width, its destination, its lanes at their offsets (R228). -/
def bufferOf (x : Ctx) : Instr → Option (Bool × BufDesc × Nat × BitVec 6 × List LaneIn)
  | .ldb _ pk d a b z => some (false, bufOf (x.g.b[a.toNat]'a.isLt), 2 ^ z.toNat, d,
      stores (offs pk b (2 ^ z.toNat)) (fun _ => 0#64) fun _ => 0#64)
  | .stb _ pk d a b z => some (true, bufOf (x.g.b[a.toNat]'a.isLt), 2 ^ z.toNat, d,
      stores (offs pk b (2 ^ z.toNat)) (pair x d (2 ^ z.toNat)) fun _ => 0#64)
  | _ => none
where
  offs (pk : BitVec 2) (b : BitVec 6) (n : Nat) : List (Nat × Word) :=
    (lanesOf (x.f.mask &&& x.k (pk.setWidth 4))).map fun l =>
      (l, immM x.hs + if b = 0#6 then BitVec.ofNat 64 (l * n) else (laneAt (x.v b) l).setWidth 64)

/-- A lane lies in a buffer (R228). -/
def inBuffer (q : BufDesc) (n : Nat) (l : LaneIn) : Bool := decide (l.ea.toNat + n ≤ q.len)

/-- Lanes at their global addresses. -/
def atBase (q : BufDesc) (ins : List LaneIn) : List LaneIn := ins.map fun l => { l with ea := q.base + l.ea }

/-- The global access that a buffer word makes: of the lanes in the buffer (R228). -/
def bufferSpec (w : Bool) (q : BufDesc) (n : Nat) (d : BitVec 6) (ins : List LaneIn) : MemSpec :=
  ⟨if w then .store else .load, if w then .store else .load, false, n, false, d.toNat, false, false, atBase q (ins.filter (inBuffer q n))⟩

/-- The checks of a streamer word on its operands (R275 to R285). -/
def copyOf (x : Ctx) (s : State) : Instr → Option CopyCheck
  | .cpyFromGlobal st d a b f => some (s.checkLinear x.g (wordOf (.cpyFromGlobal st d a b f)) (placeOf f.toNat (x.s d)) (placeOf 0 (x.s a)) (x.s b))
  | .cpyFromScratchpad st d a b f =>
    some (s.checkLinear x.g (wordOf (.cpyFromScratchpad st d a b f)) (placeOf f.toNat (x.s d)) (placeOf 1 (x.s a)) (x.s b))
  | .cpyFromPeer st d a b f => some (s.checkLinear x.g (wordOf (.cpyFromPeer st d a b f)) (placeOf f.toNat (x.s d)) (placeOf 2 (x.s a)) (x.s b))
  | .cpyt st d a f => some (s.checkTensor x.g (wordOf (.cpyt st d a f)) (x.s d) (x.s a) false (f == 0#1))
  | .cpyk st d a f => some (s.checkTensor x.g (wordOf (.cpyk st d a f)) (x.s d) (x.s a) true (f == 0#1))
  | .cpym st d a b => some (s.checkMulticast x.g (wordOf (.cpym st d a b)) (x.s d) (x.s a) (x.s b))
  | _ => none

/-- A copy moves no byte (R278). -/
def emptyCopy : CopyOp → Bool
  | .linear _ _ n => n == 0
  | .multicast _ _ n _ => n == 0
  | .tensor _ => false

/-- Byte `b` of box row `r` lies in the tensor (R282). -/
def boxIn (x : Box) (r b : Nat) : Prop :=
  let c0 := x.org.1 + b / x.esize
  let c1 := x.org.2.1 + r % x.box.2.1
  let c2 := x.org.2.2 + r / x.box.2.1
  0 ≤ c0 ∧ c0 < x.dim.1 ∧ 0 ≤ c1 ∧ c1 < x.dim.2.1 ∧ 0 ≤ c2 ∧ c2 < x.dim.2.2

/-- The window offset of byte `b` of box row `r`, swizzled (R282). -/
def boxPlace (x : Box) (r b : Nat) : Nat :=
  let s := 16 * 2 ^ x.span
  x.sbase + r * x.pitch + b / s * s + ((b % s / 16) ^^^ (r % (s / 16))) * 16 + b % 16

/-- The global address of byte `b` of box row `r`, with the tag of sA (R282). -/
def boxAddr (x : Box) (r b : Nat) : Word :=
  let a := x.base + BitVec.ofInt 64 (x.org.1 * x.esize + b + (x.org.2.1 + r % x.box.2.1) * x.stride1 + (x.org.2.2 + r / x.box.2.1) * x.stride2)
  x.base.extractLsb' 60 4 ++ a.extractLsb' 0 60

/-- The next piece of a copy between global memory and its team's window (R278, R282, R286): whether the window is its destination, its
global address, the window offsets of its bytes, the bytes of the whole copy, the layout tag of the blocks it writes. -/
def pieceAt (c : Copy) : Option (Bool × Word × List Nat × Nat × BitVec 3) :=
  let line := fun (toWindow : Bool) (off : Nat) (p : Word) (len : Nat) =>
    let ea := p + BitVec.ofNat 64 c.pos
    some (toWindow, ea, (List.range (min (len - c.pos) (32 - ea.toNat % 32))).map (off + c.pos + ·), len, 0#3)
  match c.op with
  | .linear (.window none off) (.global p) len => line true off p len
  | .linear (.global p) (.window none off) len => line false off p len
  | .tensor x =>
    let r := c.pos / x.rb
    let b := c.pos % x.rb
    let ea := boxAddr x r b
    let k := min (min x.box.1 ((x.dim.1 : Int) - x.org.1).toNat * x.esize - b) (32 - ea.toNat % 32)
    if x.table = false then
      some (x.toWindow, ea, (List.range k).map fun i => boxPlace x r (b + i), x.rb * x.box.2.1 * x.box.2.2, BitVec.ofNat 3 x.span)
    else none
  | _ => none

/-- The next byte of a box copy lies in the tensor, and its rows hold whole elements; other copies have no such byte. -/
def pieceIn (c : Copy) : Prop :=
  match c.op with
  | .tensor x => x.rb = x.box.1 * x.esize ∧ 0 < x.esize ∧ boxIn x (c.pos / x.rb) (c.pos % x.rb)
  | _ => True

/-- A copy has moved k bytes on, or is done (R278, R286). -/
def movedOn (g h : Group) (c : Copy) (k total : Nat) : Prop :=
  h.copies = if c.pos + k < total then g.copies.map fun y => if y.id = c.id then { c with pos := c.pos + k, out := none } else y
    else g.copies.filter fun y => y.id != c.id

/-- A gate word that joins the outstanding ones: its operation, its first destination, whether it draws a record, the crossings
it posts and awaits, the tiles it writes, its sectors (R329 to R343). -/
def gateOf (x : Ctx) (s : State) : Instr → Option (GateOp × Nat × Bool × Nat × Nat × List Nat × Nat)
  | .gtrip _ d t => some (.gtrip t.toNat, d.toNat, true, 0, 0, [], if t = 2#2 then 50 else 26)
  | .gmask _ d _ _ t => some (.gmask t.toNat, d.toNat, false, if t = 2#2 then 4 else 2, 0, [], 0)
  | .gopen _ d t => some (.gopen t.toNat, d.toNat, false, 0, if t = 2#2 then 4 else 2, [], 0)
  | .gmsb _ d _ => some (.gmsb, d.toNat, true, 0, 21, [], 0)
  | .gb2a _ d _ => some (.gb2a, d.toNat, true, 0, 1, [], 0)
  | .greveal _ d _ =>
    let r := (s.sessionOf x.g).elim 0 (·.reveal)
    let role := s.roleOf x.g
    some (.greveal, d.toNat, false, r / 2 ^ (1 - role) % 2, r / 2 ^ role % 2, [], 0)
  | .gtript _ d => some (.gtript, d.toNat, true, 0, 0, (List.range 5).map (d.toNat + ·), s.nextRecordSectors x.g)
  | _ => none

/-- The marks that R320 asks of the operands of a gate word. -/
def gateMarks (g : Group) : Instr → Prop
  | .gmask _ d _ _ t =>
    let w := if t = 2#2 then 2 else 1
    ∃ q, (∀ i, i < 3 * w → g.vmark (d.toNat + i) = .fresh q) ∧ ∀ i, i < 2 * w → g.vmark (d.toNat + 3 * w + i) = .slot q
  | .gopen _ d t =>
    let w := if t = 2#2 then 2 else 1
    ∃ q, ∀ i, i < 2 * w → g.vmark (d.toNat + 3 * w + i) = .posted q
  | .gfin _ _ a t =>
    let w := if t = 2#2 then 2 else 1
    ∃ q, (∀ i, i < 3 * w → g.vmark (a.toNat + i) = .fresh q) ∧ ∀ i, i < 2 * w → g.vmark (a.toNat + 3 * w + i) = .opened q
  | .gmaskt _ d a b =>
    (∃ q, (∀ i, i < 3 → g.tmark (d.toNat + i) = .fresh q) ∧ ∀ i, i < 2 → g.tmark (d.toNat + 3 + i) = .slot q) ∧
    g.shape a.toNat = g.shape d.toNat ∧ g.shape b.toNat = g.shape (d.toNat + 1)
  | .gopent _ d => ∃ q, ∀ i, i < 2 → g.tmark (d.toNat + 3 + i) = .posted q
  | _ => True

/-- Element `j` of row `r` of a tile: its bits, from those of the row's bytes (R180, R293). -/
def tileBits (m : SMap 8) (t : TileShape) (r j : Nat) : Nat :=
  let w := 4 * 2 ^ t.ew.toNat
  ((List.range w).map fun b => ((sget m (r * (t.cols * w / 8) + (j * w + b) / 8)).getLsbD ((j * w + b) % 8)).toNat * 2 ^ b).sum

/-- The same as a signed number (R303). -/
def tileSigned (m : SMap 8) (t : TileShape) (r j : Nat) : Int :=
  (BitVec.ofNat (4 * 2 ^ t.ew.toNat) (tileBits m t r j)).toInt

/-- What a request block asks, and its answer and the sessions it leaves (R322). A request counts as matched while an open session of both
partitions has its role, NONCE, FRAC and REVEAL (DEDUCED, log 46). -/
def answered (s : State) (part : Nat) (r : SessReq) (v : Word) (ss : List Session) : Prop :=
  let mine := fun (y : Session) => y.part0 = some part ∨ y.part1 = some part
  let matched := fun (y : Session) => y.opened = true ∧ y.revoked = false ∧
    (if r.role = 0 then y.part0 = some part ∧ y.part1 = some r.peer else y.part1 = some part ∧ y.part0 = some r.peer) ∧
    y.nonce = r.nonce ∧ y.frac = r.frac ∧ y.reveal = r.reveal
  let waits := fun (y : Session) (a b : Nat) => y.opened = false ∧ y.part0.or y.part1 = some a ∧ y.peer = b
  let new := s.sessions.all fun y => y.opened || y.part0.or y.part1 != some part || y.peer != r.peer
  if r.op = 1 then
    (new = false → v = 0x100#64 ∧ ss = s.sessions) ∧
    (∀ y ∈ s.sessions, new = true → matched y → (∀ z ∈ s.sessions, matched z → z.sid = y.sid) →
      v = BitVec.ofNat 64 (y.sid + 1) ∧ ss = s.sessions) ∧
    (new = true → (∀ z ∈ s.sessions, ¬matched z) →
      (∀ y ∈ s.sessions, waits y r.peer part → (∀ z ∈ s.sessions, waits z r.peer part → z = y) →
        let agrees := (y.part0.isSome = true ↔ r.role = 1) ∧ y.nonce = r.nonce ∧ y.frac = r.frac ∧ y.reveal = r.reveal
        (¬agrees → v = 0x200#64 ∧ ss = s.sessions.filter fun z => z.sid != y.sid) ∧
        (agrees → v = BitVec.ofNat 64 (y.sid + 1) ∧ ∃ z, ss = (s.sessions.map fun w => if w.sid = y.sid then z else w) ∧ z.sid = y.sid ∧
          z.opened = true ∧ z.revoked = y.revoked ∧ z.nonce = y.nonce ∧ z.frac = y.frac ∧ z.reveal = y.reveal ∧
          z.part0 = some (if r.role = 0 then part else r.peer) ∧ z.part1 = some (if r.role = 0 then r.peer else part))) ∧
      ((∀ z ∈ s.sessions, ¬waits z r.peer part) →
        ((∀ n, n < 32 → ∃ z ∈ s.sessions, z.sid = n) → v = 0#64 ∧ ss = s.sessions) ∧
        ∀ n, n < 32 → (∀ z ∈ s.sessions, z.sid ≠ n) → (∀ k, k < n → ∃ z ∈ s.sessions, z.sid = k) →
          v = 0x100#64 ∧ ∃ z, ss = s.sessions ++ [z] ∧ z.sid = n ∧ z.peer = r.peer ∧ z.opened = false ∧ z.revoked = false ∧
            z.nonce = r.nonce ∧ z.frac = r.frac ∧ z.reveal = r.reveal ∧
            z.part0 = (if r.role = 0 then some part else none) ∧ z.part1 = if r.role = 1 then some part else none))
  else
    let names := fun (y : Session) => y.sid = r.sid ∧ y.opened = true ∧ y.revoked = false ∧ mine y
    ((∃ y ∈ s.sessions, names y) → v = BitVec.ofNat 64 (r.sid + 1) ∧ ∀ z ∈ ss, z.sid = r.sid → z.revoked = true) ∧
    ((∀ y ∈ s.sessions, ¬names y) → v = 0x200#64 ∧ ss = s.sessions)

/-- A cutting is in the nursery of a die (R371), and its launch counts it (R374): it lies in the bin of its launch and entry, last; the
64th, and a SOLO cutting, form a group that waits for room, whose serial number is the launch's next (R192). -/
def nursed (s t : State) (die uid : Nat) (c : Cutting) : Prop :=
  let bin := fun (b : Bin) => b.die == die && b.uid == uid && b.entry == c.ent
  let held := (s.bins.find? bin).elim [] (·.cuts)
  let rest := s.bins.filter fun b => !bin b
  let forms := c.solo = true ∨ 63 ≤ held.length
  ∀ l, s.launch? uid = some l → ∃ l', t.launch? uid = some l' ∧ l'.jobs = l.jobs + 1 ∧ l'.sent = l.sent + 1 ∧
    (forms → l'.serial = l.serial + 1 ∧ t.bins = (if c.solo = true then s.bins else rest) ∧
      ∃ w, l'.waiting = l.waiting ++ [w] ∧ w.key = ⟨uid, l.serial, true⟩ ∧ w.lanes = (if c.solo = true then [c] else held ++ [c]) ∧
        w.die = some die) ∧
    (¬forms → l'.serial = l.serial ∧ l'.waiting = l.waiting ∧ t.bins = rest ++ [⟨die, uid, c.ent, held ++ [c], s.clock⟩])

/-- A `spawn` has started a group of one lane on its own core (R192, R372, R373), and its launch counts the cutting (R374): a team of that
group alone, in the lowest free slot, at its entry, with its payload in lane 0 of v0 to v11 and its grant as its budgets. -/
def spawned (s t : State) (core uid : Nat) (c : Cutting) : Prop :=
  ∀ l, s.launch? uid = some l → ∃ l' m k q, t.launch? uid = some l' ∧ l'.jobs = l.jobs + 1 ∧ l'.sent = l.sent + 1 ∧
    l'.serial = l.serial + 1 ∧ l'.waiting = l.waiting ∧
    t.teams = s.teams ++ [m] ∧ m.key = ⟨uid, l.serial, true⟩ ∧ m.core = core ∧ m.part = l.part ∧ m.shape = 1 ∧ m.groups = 1 ∧ m.window = [] ∧
    m.ipool = 0 ∧ m.mpool = 0 ∧
    s.group? core k = none ∧ (∀ j, j < k → (s.group? core j).isSome = true) ∧ t.group? core k = some q ∧ q.team = m.key ∧ q.gidx = 0 ∧
    q.cuttings = 1 ∧ q.ibud = c.igrant ∧ q.mbud = c.mgrant ∧ q.liveFrags = [0] ∧ (q.frag 0).state = .ready ∧ (q.frag 0).mask = 1#64 ∧
    (q.frag 0).pc = l.record.entryAddr c.ent ∧ (q.frag 0).rd 1#6 = l.record.args ∧
    ∀ n, n < 12 → laneAt (q.rdV (BitVec.ofNat 6 n)) 0 = c.payload.getD n 0#32

/-- A launch counts one job more, which the commit of its round sends on (R374, R385). -/
def counted (s t : State) (uid : Nat) : Prop :=
  t.bins = s.bins ∧ ∀ l, s.launch? uid = some l → ∃ l', t.launch? uid = some l' ∧ l'.jobs = l.jobs + 1 ∧ l'.waiting = l.waiting

/-- What a partition shares with no other: slots, the keys of its teams and launches, sessions, streams. -/
structure Apart (s : State) (part : Nat) : Prop where
  slots    : ∀ g ∈ s.groups, ∀ h ∈ s.groups, g.core = h.core → g.slot = h.slot → g = h
  teams    : ∀ g ∈ s.groups, ∀ m ∈ s.teams, m.key = g.team → m.part = g.part
  saved    : ∀ x ∈ s.saved, ∀ y ∈ s.saved, x.team.key = y.team.key → x.part = y.part
  images   : ∀ x ∈ s.saved, ∀ g ∈ x.groups, g.part = x.part ∧ g.team = x.team.key
  launches : ∀ l ∈ s.launches, (∀ g ∈ s.groups, g.team.uid = l.uid → g.part = l.part) ∧ (∀ m ∈ s.teams, m.key.uid = l.uid → m.part = l.part) ∧
    ∀ x ∈ s.saved, x.team.key.uid = l.uid → x.part = l.part
  sessions : ∀ y ∈ s.sessions, y.part0 ≠ some part ∧ y.part1 ≠ some part
  streams  : ∀ g ∈ s.groups ++ s.savedGroups, g.part = part → s.pair? g = none ∧ g.cursor = none

/-- The device's clocks run and the slot holds the group. -/
def live (s : State) (core slot : Nat) (g : Group) : Prop := s.mgmt.devState ≠ .frozen ∧ s.group? core slot = some g

/-- The slot holds the group in the second state, and outside it nothing has changed. -/
def onlyGroup (s t : State) (core slot : Nat) (h : Group) : Prop :=
  t.group? core slot = some h ∧ t.others core slot = s.others core slot

/-- The slot holds the group in the second state, and outside it nothing has changed but the last trap cause of the core (R461). -/
def trapsOnly (s t : State) (core slot : Nat) (c : Cause) (h : Group) : Prop :=
  t.group? core slot = some h ∧
  t.others core slot = { s.others core slot with lastTrap := sset s.lastTrap core (BitVec.ofNat 8 c.code) }

/-- A word that is charged and then traps with `a`, which names no lanes (R68, R400 to R402): delivered in-group, the trap pushes an entry with
its return PC and the fragment's mask, fills %tcause, %taddr and %tmask, sends the fragment to %tvec, and changes nothing outside the group
but the core's last trap cause (R461); delivered to the supervisor, it stops the group with its fragment at the return PC. -/
def trapsCharged (i : Instr) (s : State) (g : Group) (x : Ctx) (a : TrapArgs) : Prop :=
  (g.takesInGroup a = true →
    ∃ t h, exec i s = .next t ∧ trapsOnly s t x.core x.slot a.cause h ∧
      h.ibud + (g.frag x.fid).owes (useIn x.hs i).charge = g.ibud ∧ h.mbud = g.mbud ∧ h.icnt = g.icnt + 1 ∧
      (h.frag x.fid).pc = g.trap.tvec ∧
      h.stack = g.stack ++ [⟨true, x.fid, BitVec.ofNat 8 a.cause.code, a.rpc, (g.frag x.fid).mask, false⟩] ∧
      h.trap.cause = BitVec.ofNat 8 a.cause.code ∧ h.trap.taddr = a.addr ∧ h.trap.tmask = (g.frag x.fid).mask ∧
      h.trap.frag = BitVec.ofNat 2 x.fid ∧ (h.frag x.fid).s = (g.frag x.fid).s) ∧
  (g.takesInGroup a = false →
    ∃ t h, exec i s = .next t ∧ t.group? x.core x.slot = some h ∧ h.stopped = some x.fid ∧ (h.frag x.fid).pc = a.rpc ∧
      h.ibud + (g.frag x.fid).owes (useIn x.hs i).charge = g.ibud ∧ (h.frag x.fid).s = (g.frag x.fid).s)

/-- A deferred trap as its delivery to a fragment takes it (R403). -/
def deferredArgs (d : Deferred) (rpc : Word) : TrapArgs := ⟨d.cause, d.addr, d.lanes, d.pc, rpc, true, d.copy⟩

/-- The lanes of a load, each waiting to be read inside the package, with no byte read yet, or performed. -/
def readable (r : Request) : Prop :=
  r.size ≤ 8 ∧ (r.lanes.map (·.lane)).Nodup ∧ ∀ l ∈ r.lanes, l.lane < 64 ∧
    (l.st = .performed ∨ (l.st = .waiting ∧ l.ext = false ∧ l.new = 0#64 ∧ l.res = 0#64 ∧ l.pas.length = r.size))

/-- A read of the register that a request's lanes are written to: a scalar one by its value, a vector one lane by lane. -/
def landed (g h : Group) (r : Request) (v : LaneAcc → Word) : Prop :=
  (r.scalar = true → ∀ l, r.lanes = [l] → r.frag < 4 → BitVec.ofNat 6 r.dst ≠ 0#6 → (h.frag r.frag).rd (BitVec.ofNat 6 r.dst) = v l) ∧
  (r.scalar = false → (∀ l ∈ r.lanes, laneAt (h.rdV (BitVec.ofNat 6 r.dst)) l.lane = (v l).setWidth 32) ∧
    ∀ n, n < 64 → (∀ l ∈ r.lanes, l.lane ≠ n) → laneAt (h.rdV (BitVec.ofNat 6 r.dst)) n = laneAt (g.rdV (BitVec.ofNat 6 r.dst)) n)

/-- A group lands (R134): its fragment goes to %land with the unit in %lret, the cause in %lcause and the reserves as its budgets, and its
other ready fragments are held. -/
def landsAt (s t : State) (core slot fid : Nat) (g h : Group) (cause : BitVec 2) (unit : Word) : Prop :=
  t.group? core slot = some h ∧ (h.frag fid).pc = g.landing.land ∧ h.ibud = g.landing.ires ∧ h.mbud = g.landing.mres ∧ h.icnt = g.icnt ∧
  t.mem = s.mem ∧ h.stack = g.stack ∧ (h.frag fid).s = (g.frag fid).s ∧
  h.landing = { g.landing with lret := unit, cause := cause, frag := BitVec.ofNat 2 fid, inres := true } ∧
  ∀ f, f < 4 → f ≠ fid → (g.frag f).state = .ready → (h.frag f).state = .held

/-- A group is pre-empted hard (R136, R389, R410, R440): its budgets and INRES stay, and in a clamp landing of a deterministic launch %lret;
its team is to be saved, for it unless a save of the team has begun, or its partition halts when it is a supervisor group's. -/
def preemptedAt (s t : State) (core slot fid : Nat) (g h : Group) (l : Launch) (cause : BitVec 2) (unit : Word) : Prop :=
  t.group? core slot = some h ∧ ((∀ m, s.team? g.team = some m → m.saving = none) → h.saving = true) ∧ h.ibud = g.ibud ∧ h.mbud = g.mbud ∧
  h.icnt = g.icnt ∧ t.mem = s.mem ∧
  h.landing = { g.landing with
    lret := if g.aside.isSome then g.landing.lret else unit, cause := cause, frag := BitVec.ofNat 2 fid } ∧
  (l.super = false → ∀ m, s.team? g.team = some m → ∃ m', t.team? g.team = some m' ∧ m'.saving.isSome = true) ∧
  (l.super = true → ∀ p, s.part? g.part = some p → p.halted = false →
    ∃ p', t.part? g.part = some p' ∧ p'.halted = true ∧ p'.haltcode = 5#8)

/-- What a word that the budgets cannot pay does (R134, R136). -/
def shortPath (i : Instr) (s : State) (g : Group) (core slot fid : Nat) (cause : BitVec 2) (unit : Word) : Prop :=
  (g.landing.land ≠ 0#64 → g.landing.inres = false →
    ∃ t h, exec i s = .next t ∧ landsAt s t core slot fid g h cause unit) ∧
  ∀ l, s.launch? g.team.uid = some l → g.landing.land = 0#64 ∨ g.landing.inres = true →
    ∃ t h, exec i s = .next t ∧ preemptedAt s t core slot fid g h l cause unit

/-- Words that nothing but the checks of R68 and the scoreboard keeps from their charge, which is in units alone. -/
def onlyCharged (x : Ctx) (i : Instr) : Bool :=
  (scalarValue x i).isSome || (laneValue x 0 i).isSome || (maskValue x i).isSome || (fromMask x i).isSome || (fpDest x i).isSome ||
  (crossSource x 0 i).isSome || (transfer x i).isSome || (softTrap x i).isSome || (bindOf i).isSome ||
  match i with
  | .vaddc .. | .vsubc .. | .vcmp .. | .fcmp .. | .vred .. | .rand .. | .vmovs .. | .call .. | .rft .. | .land .. | .resume .. => true
  | .topup .. | .rfclaim .. | .eunbind .. | .wany .. | .waitb .. | .pegget .. | .pegref .. | .pegput .. | .pegwait .. => true
  | .bdset .. | .bdgetLo .. | .bdgetHi .. => true
  | _ => false

/-- The staging of a deterministic launch has room for a word's lines and other entries, or the word comes first in its round (R379). -/
def stageRoom (x : Ctx) (s : State) (g : Group) (lines : List Nat) (others : Nat) : Prop :=
  s.isDet g = true → g.qcnt ≤ x.hs.length ∨ g.stageFull lines others = false

/-- A global access finds room: in the staging of a deterministic launch, else for what faults in the operand log or the hamper (R232, R233,
R379). -/
def memRoom (x : Ctx) (s : State) (g : Group) (m : MemSpec) : Prop :=
  (m.kind.stages = true → stageRoom x s g (vlines m.n m.ins) 0) ∧
  ((s.isDet g = true → m.kind.stages = false) → x.noEntry s m (x.plan s m).1.lanes = false)

/-- A word comes to its charge of `u` units and `n` sectors on top of its own units: the words that
are only charged, and the others where what their rules put before the charge does not hold or stop them (R132, R133, R142 to R145, R253,
R379). -/
inductive Asks (x : Ctx) (s : State) (g : Group) : Instr → Nat → Nat → Prop where
  | plain (i) : onlyCharged x i = true → Asks x s g i 0 0
  | advance (i n) : onlyAdvances x g i = some n → Asks x s g i 0 n
  | split (st d a b) : scalarPending g x.fid s.clock = false → Asks x s g (.split st d a b) 0 0
  | join (st) : anyPending g x.fid s.clock = false → Asks x s g (.join st) 0 0
  | exit (st) : 1 < g.liveFrags.length ∨ g.drained = true → Asks x s g (.exit st) 0 0
  | rfgive (st a) : givePending g (g.valloc - min ((x.s a).toNat / 8 * 8) (g.valloc - 16)) s.clock = false → Asks x s g (.rfgive st a) 0 0
  | gets (st d n) : (n = 0x20#6 → g.flagsAt ≤ s.clock) → Asks x s g (.gets st d n) 0 0
  | sets (i n a) : setsOf i = some (n, a) → (0x28 ≤ n → n ≤ 0x2F → s.tileBusy x.core x.slot (n - 0x28) = false) →
      (n = 0x20 → g.flagsAt ≤ s.clock) → Asks x s g i 0 0
  | mpost (st d a b) : stageRoom x s g [] 1 → (g.quiet = true ∨ s.postTakes g (x.s a) = false) → s.postHeld g (x.s a) = false →
      Asks x s g (.mpost st d a b) 0 0
  | pegarr (st a b) : stageRoom x s g [] 1 → g.quiet = true → Asks x s g (.pegarr st a b) 0 0
  | sealing (st d a b c) : stageRoom x s g [] (if d = 0#6 then 0 else 1) → (g.batch (.ofCode (BitVec.toNat (w := 2) c))).seals.length < 64 →
      Asks x s g (.seal st d a b c) 0 0
  | access (i m) : globalOf x i = some m → g.orderHeld m.release = false → (m.ins = [] ∨ memRoom x s g m) →
      Asks x s g i 0 (sectorsOf m.align m.n m.ins)
  | window (i w q n d ins) : windowOf x i = some (w, q, n, d, ins) → g.orderHeld false = false →
      (q.isSome = true → stageRoom x s g [] (if w = true ∧ ins ≠ [] then 1 else 0)) → Asks x s g i 0 0
  | buffer (i w q n d ins) : bufferOf x i = some (w, q, n, d, ins) → g.orderHeld false = false →
      ((bufferSpec w q n d ins).ins = [] ∨ memRoom x s g (bufferSpec w q n d ins)) → Asks x s g i 0 (sectorsOf false n (atBase q ins))
  | copy (i op n pl) : copyOf x s i = some (.ok op n pl) → s.producer g = true → g.orderHeld false = false → s.copiesOn x.core < 32 →
      (s.isDet g = true → s.tableWaits g op = none) → stageRoom x s g (s.copyLines g op) 0 → Asks x s g i 0 n
  | tld (st d a b) : tldFault s g (wordOf (.tld st d a b)) (g.shape (BitVec.toNat (w := 3) d)) (x.s a) (x.s b) = none →
      g.orderHeld false = false → s.tileHeld x.core x.slot d.toNat = false → Asks x s g (.tld st d a b) 0 0
  | tzero (st d) : s.tileHeld x.core x.slot (BitVec.toNat (w := 3) d) = false → Asks x s g (.tzero st d) 0 0
  | mma (st pk ty d a b) : mmaBad (BitVec.toNat (w := 3) ty) (g.shape (BitVec.toNat (w := 3) a)) (g.shape (BitVec.toNat (w := 3) b)) = false →
      x.engineHeld s a.toNat b.toNat = false → Asks x s g (.mma st pk ty d a b) 0 0
  | mmaq (st pk ty d q a b z k) : mmaBad (BitVec.toNat (w := 3) ty) (g.shape (BitVec.toNat (w := 3) a)) (g.shape (BitVec.toNat (w := 3) b)) = false →
      mmaqCheck s g (wordOf (.mmaq st pk ty d q a b z)) (g.shape a.toNat) (g.shape b.toNat) (32 * 2 ^ (BitVec.toNat (w := 2) z)) (x.s q) = .ok k →
      g.orderHeld false = false → x.engineHeld s a.toNat b.toNat = false → Asks x s g (.mmaq st pk ty d q a b z) 0 0
  | accz (st pk d) : g.bind (BitVec.toNat (w := 3) d) = [] → Asks x s g (.accz st pk d) 0 0
  | accrd (st pk d a b) : g.bind (BitVec.toNat (w := 3) a) = [] → Asks x s g (.accrd st pk d a b) 0 0
  | accwr (st pk d a b) : g.bind (BitVec.toNat (w := 3) d) = [] → Asks x s g (.accwr st pk d a b) 0 0
  | gate (i op d draws posts awaits tiles n) : gateOf x s i = some (op, d, draws, posts, awaits, tiles, n) → s.gateClosed g = none →
      g.gates.length < 16 → gateMarks g i → (draws = true → g.orderHeld false = false) →
      (∀ j ∈ tiles, s.tileHeld x.core x.slot j = false) → Asks x s g i 0 n
  | gfin (st d a t) : s.gateClosed g = none → g.gates.length < 16 → gateMarks g (.gfin st d a t) → Asks x s g (.gfin st d a t) 0 0
  | gtrunc (st d a f) : s.gateClosed g = none → g.gates.length < 16 → Asks x s g (.gtrunc st d a f) 0 0
  | gmaskt (st d a b) : s.gateClosed g = none → g.gates.length < 16 → gateMarks g (.gmaskt st d a b) →
      (∀ n ∈ [BitVec.toNat (w := 3) d + 3, d.toNat + 4], s.tileHeld x.core x.slot n = false) →
      (∀ n ∈ [BitVec.toNat (w := 3) a, BitVec.toNat (w := 3) b, d.toNat, d.toNat + 1], s.tileWritten x.core x.slot n = false) →
      Asks x s g (.gmaskt st d a b) 0 0
  | gopent (st d) : s.gateClosed g = none → g.gates.length < 16 → gateMarks g (.gopent st d) →
      (∀ n ∈ [BitVec.toNat (w := 3) d + 3, d.toNat + 4], s.tileHeld x.core x.slot n = false) → Asks x s g (.gopent st d) 0 0
  | gsess (st d a) : g.orderHeld false = false → x.behindWrite s (x.sessSpec (.gsess st d a) d a) = false →
      memRoom x s g (x.sessSpec (.gsess st d a) d a) → Asks x s g (.gsess st d a) 0 0
  | launch (st d a bs n v) : stageRoom x s g [] 1 → g.orderHeld false = false → (x.s a).toNat % 8 = 0 → x.readGlobal s (x.s a) 256 = (.ok bs n, v) →
      ((g.frag x.fid).paid.isSome || s.recordOk g.part bs) = true → Asks x s g (.launch st d a) (readRecord bs).grant.1 (n + (readRecord bs).grant.2)
  | launchBad (st d a bs n v) : g.orderHeld false = false → (x.s a).toNat % 8 = 0 → x.readGlobal s (x.s a) 256 = (.ok bs n, v) →
      ((g.frag x.fid).paid.isSome || s.recordOk g.part bs) = false → Asks x s g (.launch st d a) 0 n
  | emit (st d a bs n v c) : stageRoom x s g [] 1 → g.orderHeld false = false → x.cuttingWaits (x.s a) = false →
      x.readCutting s (x.s a) = (.ok bs n, v) → (s.recordOf g).bind (fun r => cuttingOf r bs none) = some c →
      Asks x s g (.emit st d a) c.igrant (n + c.mgrant)
  | spawn (st d a b bs n v c) : stageRoom x s g [] 1 → g.orderHeld false = false → x.cuttingWaits (x.s b) = false → (x.s a).toNat < 16 →
      x.readCutting s (x.s b) = (.ok bs n, v) → (s.recordOf g).bind (fun r => cuttingOf r bs (some (x.s a).toNat)) = some c →
      Asks x s g (.spawn st d a b) c.igrant (n + c.mgrant)
  | yield (st a) : x.s a = 0#64 → Asks x s g (.yield st a) 0 0
  | yieldTo (st a bs n v c) : stageRoom x s g [] 1 → g.orderHeld false = false → x.s a ≠ 0#64 → g.quiet = true → x.cuttingWaits (x.s a) = false →
      x.readCutting s (x.s a) = (.ok bs n, v) → (s.recordOf g).bind (fun r => cuttingOf r bs none) = some c →
      (s.yieldRoom x.core g.team.uid c = true ∨ s.isDet g = true ∨ g.ibud < 1 ∨ g.mbud < n) → Asks x s g (.yield st a) 0 n
  | tlbdrain (st a p) : s.part? g.part = some p → g.quiet = true → p.drains.length < 16 → Asks x s g (.tlbdrain st a) 0 0
  | tlbconf (st d a) : g.drain = none → Asks x s g (.tlbconf st d a) 0 0
  | ctxsv (st a b) : x.saveStage s (wordOf (.ctxsv st a b)) (x.s a) (x.s b) = .done → Asks x s g (.ctxsv st a b) 0 0
  | ctxld (st a b) : s.imagesDrain g.part (x.s a) (x.s b) = false → Asks x s g (.ctxld st a b) 0 0

end Sys2Proof.Claims

open Sys2Proof Sys2Proof.Machine Sys2Proof.Claims

/-- R103 to R108: a scalar word completes; sD gets the value the rules give, unless its lane mask is empty (R43) or D is s0
(R42); nothing else of the machine changes but the accounts of the issue. -/
def Obligations.ScalarResults : Prop :=
  ∀ (i : Instr) (s : State) (g : Group) (x : Ctx) (pk : BitVec 2) (d : BitVec 6) (v : Word),
    Issues i s g x 0 0 → scalarValue x i = some (pk, d, v) →
    ∃ t h, Completes i s g x 0 0 t h ∧
      (h.frag x.fid).rd d = (if d = 0#6 then 0#64 else if x.live pk then v else (g.frag x.fid).rd d) ∧
      blankS (h.bare x.fid) x.fid d = blankS (g.ran (s.counts g) x.fid) x.fid d

/-- R198, R200 to R203: a lane-wise integer word completes; each active lane of vD gets its value, every other lane keeps its
word (R194); SAT is raised when it changes the value of an active lane, and no other flag (R188, R198); nothing else changes. -/
def Obligations.LaneWords : Prop :=
  ∀ (i : Instr) (s : State) (g : Group) (x : Ctx) (m : Mask) (d : BitVec 6) (f : Fin 64 → BitVec 32),
    Issues i s g x 0 0 → (∀ l, laneValue x l i = some (m, d, f l)) →
    ∃ t h, Completes i s g x 0 0 t h ∧
      (∀ l : Fin 64, (h.rdV d)[l.val] = if m.getLsbD l.val then f l else (g.rdV d)[l.val]) ∧
      h.fflags = g.fflags ||| (if (List.finRange 64).any fun l => m.getLsbD l.val && clipped x i l then 0x20#6 else 0#6) ∧
      blankV { h.bare x.fid with fflags := 0#6 } d.toNat = blankV { g.ran (s.counts g) x.fid with fflags := 0#6 } d.toNat

/-- R199: `vaddc` and `vsubc` add or subtract with the carry in k15 of each active lane, leave the sum's low word in vD and the
carry or the borrow in k15; other lanes of vD and bits of k15 stay, and nothing else changes. -/
def Obligations.CarryWords : Prop :=
  ∀ (sub : Bool) (st : BitVec 3) (pk : BitVec 2) (d a b : BitVec 6) (sb : BitVec 1) (s : State) (g : Group) (x : Ctx),
    let i := if sub then Instr.vsubc st pk d a b sb else Instr.vaddc st pk d a b sb
    Issues i s g x 0 0 →
    let c := fun (l : Fin 64) => if (x.k 15#4).getLsbD l.val then (1 : Int) else 0
    let r := fun (l : Fin 64) => if sub then (x.la a l).toNat - (x.lb sb b l).toNat - c l else (x.la a l).toNat + (x.lb sb b l).toNat + c l
    ∃ t h, Completes i s g x 0 0 t h ∧
      (∀ l : Fin 64, (h.rdV d)[l.val] = if (x.act pk).getLsbD l.val then BitVec.ofInt 32 (r l) else (g.rdV d)[l.val]) ∧
      (∀ l : Fin 64, (h.k[15]).getLsbD l.val =
        if (x.act pk).getLsbD l.val then (if sub then decide (r l < 0) else decide (r l ≥ 2 ^ 32)) else (g.k[15]).getLsbD l.val) ∧
      blankV (blankK (h.bare x.fid) 15#4) d.toNat = blankV (blankK (g.ran (s.counts g) x.fid) 15#4) d.toNat

/-- R204: `vcmp` writes the condition of each active lane into its bit of kD; the other bits stay, k0 is never written (R75),
and nothing else changes. -/
def Obligations.CompareLanes : Prop :=
  ∀ (st : BitVec 3) (pk : BitVec 2) (c : BitVec 3) (d : BitVec 4) (a b : BitVec 6) (sb : BitVec 1) (s : State) (g : Group) (x : Ctx),
    Issues (.vcmp st pk c d a b sb) s g x 0 0 →
    ∃ t h, Completes (.vcmp st pk c d a b sb) s g x 0 0 t h ∧
      (∀ l : Fin 64, (h.k[d.toNat]'d.isLt).getLsbD l.val = true ↔
        if (x.act pk).getLsbD l.val ∧ d ≠ 0#4 then lessLane c (x.la a l) (x.lb sb b l) else (g.k[d.toNat]'d.isLt).getLsbD l.val = true) ∧
      blankK (h.bare x.fid) d = blankK (g.ran (s.counts g) x.fid) d

/-- R75, R215: a mask word writes the bits of kD in the lanes of k0, and no bit when D is k0; `kget`, `kpopc` and `kffs` write the
mask, its number of set bits, and the index of its lowest set bit (64 for none) to sD, which is nothing for s0 (R42); nothing else
changes. -/
def Obligations.MaskWords : Prop :=
  (∀ (i : Instr) (s : State) (g : Group) (x : Ctx) (d : BitVec 4) (m : Mask),
     Issues i s g x 0 0 → maskValue x i = some (d, m) →
     ∃ t h, Completes i s g x 0 0 t h ∧
       (h.k[d.toNat]'d.isLt) = (if d = 0#4 then g.k[d.toNat]'d.isLt else ((g.k[d.toNat]'d.isLt) &&& ~~~x.f.mask) ||| (m &&& x.f.mask)) ∧
       blankK (h.bare x.fid) d = blankK (g.ran (s.counts g) x.fid) d) ∧
  ∀ (i : Instr) (s : State) (g : Group) (x : Ctx) (d : BitVec 6) (v : Word),
    Issues i s g x 0 0 → fromMask x i = some (d, v) →
    ∃ t h, Completes i s g x 0 0 t h ∧ (h.frag x.fid).rd d = (if d = 0#6 then 0#64 else v) ∧
      blankS (h.bare x.fid) x.fid d = blankS (g.ran (s.counts g) x.fid) x.fid d

/-- R187, R194, R206 to R211: a floating-point word completes; it writes only the active lanes of vD and only adds to %fflags;
nothing else changes. -/
def Obligations.FloatWordsFrame : Prop :=
  ∀ (i : Instr) (s : State) (g : Group) (x : Ctx) (m : Mask) (d : BitVec 6),
    Issues i s g x 0 0 → fpDest x i = some (m, d) →
    ∃ t h, Completes i s g x 0 0 t h ∧
      (∀ l : Fin 64, m.getLsbD l.val = false → (h.rdV d)[l.val] = (g.rdV d)[l.val]) ∧
      h.fflags &&& g.fflags = g.fflags ∧
      blankV { h.bare x.fid with fflags := 0#6 } d.toNat = blankV { g.ran (s.counts g) x.fid with fflags := 0#6 } d.toNat

/-- R177, R183, R184, R186, R189, R206 to R210: without a MOD word a floating-point word completes. In an active lane a NaN operand gives the
canonical NaN of the format, half by half in the packed words, and 0 in a conversion to an integer type; `fmin`, `fmax`, `fclass`, an integral
`frnd`, the table of R189 and the exact conversions between .i32 and .f32 give their words, and `fclass` raises no flag; and while nothing is
flushed (R185), finite operands of `fadd`, `fsub`, `fmul`, `fdiv`, `ffma` and `ffms` give the exact result whenever it is itself a nonzero
.f32 value. -/
def Obligations.FloatResults : Prop :=
  ∀ (i : Instr) (s : State) (g : Group) (x : Ctx) (m : Mask) (d : BitVec 6),
    Issues i s g x 0 0 → fpDest x i = some (m, d) → x.hs = [] →
    ∃ t h, Completes i s g x 0 0 t h ∧ (∀ st pk d a, i = .fclass st pk d a → h.fflags = g.fflags) ∧
      ∀ l : Fin 64, m.getLsbD l.val = true →
        ((∃ o ∈ nanOperands x l i, isNanOf 0 o.toNat) → (h.rdV d)[l.val] = canonNan 0) ∧
        (∀ c ops, packedOperands x l i = some (c, ops) → ∀ k, k < 2 → (∃ o ∈ ops, isNanOf c (o.toNat / 2 ^ (16 * k))) →
          (h.rdV d)[l.val].toNat / 2 ^ (16 * k) % 2 ^ 16 = (canonNan c).toNat) ∧
        (∀ u v a, fpSource x l i = some (u, v, a) → isNanOf v a.toNat → (h.rdV d)[l.val] = if u ≤ 2 then canonNan u else 0#32) ∧
        (∀ w, gives x g.ftz l w i → (h.rdV d)[l.val] = w) ∧
        ∀ (ops : List (BitVec 32)) (e : ℚ), fpExact x l i = some (ops, e) → g.ftz = false → (∀ o ∈ ops, finiteWord o) →
          ∀ w, finiteWord w → f32Value w ≠ 0 → f32Value w = e → (h.rdV d)[l.val] = w

/-- R211, R212: a cross-lane word completes; an active lane of vD gets the word of its source lane of vA, when that lane is in
k0 or no other fragment's write to vA is in flight; every other lane of vD keeps its word. `vmovs` writes the word of lane sB mod
64 of vA, zero-extended, to sD in the same way. Nothing else changes. -/
def Obligations.CrossLaneWords : Prop :=
  (∀ (i : Instr) (s : State) (g : Group) (x : Ctx) (pk : BitVec 2) (d a : BitVec 6) (f : Fin 64 → Nat),
     Issues i s g x 0 0 → (∀ l, crossSource x l i = some (pk, d, a, f l)) →
     ∃ t h, Completes i s g x 0 0 t h ∧
       (∀ l : Fin 64, (x.act pk).getLsbD l.val = true → x.f.mask.getLsbD (f l) = true ∨ unraced g x.fid a →
         (h.rdV d)[l.val] = laneAt (x.v a) (f l)) ∧
       (∀ l : Fin 64, (x.act pk).getLsbD l.val = false → (h.rdV d)[l.val] = (g.rdV d)[l.val]) ∧
       blankV (h.bare x.fid) d.toNat = blankV (g.ran (s.counts g) x.fid) d.toNat) ∧
  ∀ (st : BitVec 3) (d a b : BitVec 6) (s : State) (g : Group) (x : Ctx),
    Issues (.vmovs st d a b) s g x 0 0 →
    ∃ t h, Completes (.vmovs st d a b) s g x 0 0 t h ∧
      (x.f.mask.getLsbD ((x.s b).toNat % 64) = true ∨ unraced g x.fid a →
        (h.frag x.fid).rd d = if d = 0#6 then 0#64 else (laneAt (x.v a) (x.s b).toNat).setWidth 64) ∧
      blankS (h.bare x.fid) x.fid d = blankS (g.ran (s.counts g) x.fid) x.fid d

/-- R213, R214: `vred` completes and changes only sD and %fflags; an integer reduction raises no flag and gives the combination of
the active lanes in any order, sign-extended for the signed types and zero-extended for the others. While nothing is flushed (R185), a .f32
reduction gives the entry of stage 6 of R214, each sum rounded to nearest even, a NaN as the canonical one, zero-extended. -/
def Obligations.Reductions : Prop :=
  ∀ (st : BitVec 3) (pk : BitVec 2) (d a c : BitVec 6) (s : State) (g : Group) (x : Ctx),
    Issues (.vred st pk d a c) s g x 0 0 →
    ∃ t h, Completes (.vred st pk d a c) s g x 0 0 t h ∧
      (∀ op e, redInt c.toNat = some (op, e) →
        let r := ((lanesOf (x.act pk)).map (laneAt (x.v a))).foldl op e
        h.fflags = g.fflags ∧ (d ≠ 0#6 → (h.frag x.fid).rd d = if c.toNat = 0 ∨ c.toNat = 2 ∨ c.toNat = 3 then r.signExtend 64 else r.setWidth 64)) ∧
      (∀ op e, redFloat c.toNat = some (op, e) → g.ftz = false → d ≠ 0#6 →
        let w := stageEntry op (fun l => if (x.act pk).getLsbD l then some (laneAt (x.v a) l) else none) 6 0
        (h.frag x.fid).rd d = (match w with
          | none => e
          | some y => if 0x7F800000 < y.toNat % 2 ^ 31 then 0x7FC00000#32 else y).setWidth 64) ∧
      h.fflags &&& g.fflags = g.fflags ∧
      blankS { h.bare x.fid with fflags := 0#6 } x.fid d = blankS { g.ran (s.counts g) x.fid with fflags := 0#6 } x.fid d

/-- R191, R192: `rand` completes; it writes only the active lanes of vD, each the word of Philox-4x32-10 under the launch's seed at the lane's
draw count, its lane key, the team key and %launch.LID, and adds 1 to the draw counts of those lanes and of no
other; nothing else changes. -/
def Obligations.RandomDraws : Prop :=
  ∀ (st : BitVec 3) (pk : BitVec 2) (d : BitVec 6) (s : State) (g : Group) (x : Ctx),
    Issues (.rand st pk d) s g x 0 0 →
    ∃ t h, Completes (.rand st pk d) s g x 0 0 t h ∧
      (∀ l : Fin 64, (x.act pk).getLsbD l.val = false → (h.rdV d)[l.val] = (g.rdV d)[l.val]) ∧
      (∀ (k : Launch) (l : Fin 64), s.launch? g.team.uid = some k → g.gidx < 32 → (x.act pk).getLsbD l.val = true → (h.rdV d)[l.val] =
        philoxWord k.seed.toNat (g.draws[l.val].toNat, (if g.team.origin then 2 ^ 31 else 0) + g.gidx * 64 + l.val, g.team.index % 2 ^ 32,
          k.record.lid.toNat)) ∧
      (∀ l : Fin 64, h.draws[l.val] = if (x.act pk).getLsbD l.val then g.draws[l.val] + 1#32 else g.draws[l.val]) ∧
      blankV { h.bare x.fid with draws := Vector.replicate 64 0#32 } d.toNat = blankV { g.ran (s.counts g) x.fid with draws := Vector.replicate 64 0#32 } d.toNat

/-- R205: `fcmp` completes and writes only the bits of kD in the active lanes; in a lane with a NaN operand eq, lt, le, gt and ge
(codes 0 and 2 to 5) are false, ne and un (codes 1 and 6) are true; it only adds to %fflags, and nothing else changes. -/
def Obligations.FloatCompares : Prop :=
  ∀ (st : BitVec 3) (pk : BitVec 2) (c : BitVec 3) (d : BitVec 4) (a b : BitVec 6) (sb : BitVec 1) (s : State) (g : Group) (x : Ctx),
    Issues (.fcmp st pk c d a b sb) s g x 0 0 →
    ∃ t h, Completes (.fcmp st pk c d a b sb) s g x 0 0 t h ∧
      (∀ l : Fin 64, (x.act pk).getLsbD l.val = false → (h.k[d.toNat]'d.isLt).getLsbD l.val = (g.k[d.toNat]'d.isLt).getLsbD l.val) ∧
      (∀ l : Fin 64, (x.act pk).getLsbD l.val = true → d ≠ 0#4 → isNanWord (x.la a l) ∨ isNanWord (x.lb sb b l) →
        (h.k[d.toNat]'d.isLt).getLsbD l.val = (c == 1#3 || c == 6#3)) ∧
      h.fflags &&& g.fflags = g.fflags ∧
      blankK { h.bare x.fid with fflags := 0#6 } d = blankK { g.ran (s.counts g) x.fid with fflags := 0#6 } d

/-- R109 to R112: a control transfer whose target R112 lets pass retires; it moves only the PC, to the target when it is taken
and to the next unit otherwise; `call` also writes s63 := the address of the call word + 4. Nothing else changes. -/
def Obligations.ControlTransfers : Prop :=
  (∀ (i : Instr) (s : State) (g : Group) (x : Ctx) (taken : Bool) (target : Word),
     Issues i s g x 0 0 → transfer x i = some (taken, target) → (taken = true → goodTarget target) →
     ∃ t h, Retires i s g x 0 0 t h ∧ (h.frag x.fid).pc = (if taken then target else x.next) ∧ (h.frag x.fid).hints = [] ∧
       h.bare x.fid = g.ran (s.counts g) x.fid) ∧
  ∀ (st : BitVec 3) (o : BitVec 14) (s : State) (g : Group) (x : Ctx),
    Issues (.call st o) s g x 0 0 → goodTarget (x.addr + 4#64 * immB x.hs o) →
    ∃ t h, Retires (.call st o) s g x 0 0 t h ∧ (h.frag x.fid).pc = x.addr + 4#64 * immB x.hs o ∧
      (h.frag x.fid).rd 63#6 = x.addr + 4#64 ∧ blankS (h.bare x.fid) x.fid 63#6 = blankS (g.ran (s.counts g) x.fid) x.fid 63#6

/-- R117, R245, R248: `nop`, a `fence` whose group has no older access unperformed, and `pref` change nothing but the accounts of
the issue. -/
def Obligations.AdvanceOnly : Prop :=
  ∀ (i : Instr) (s : State) (g : Group) (x : Ctx) (m : Nat),
    Issues i s g x 0 m → onlyAdvances x g i = some m →
    ∃ t h, Completes i s g x 0 m t h ∧ h.bare x.fid = g.ran (s.counts g) x.fid

/-- R46: a hint word is charged 1 and waits, as the newest word of its unit's prefix, for the word it modifies; the PC stays at
the unit, and nothing else changes. -/
def Obligations.HintWords : Prop :=
  ∀ (i : Instr) (s : State) (core slot fid : Nat) (g : Group),
    Sys2Proof.Machine.Instr.isHint i = true → s.cur = some (core, slot, fid) → s.group? core slot = some g → 1 ≤ g.ibud →
    ∃ t h, exec i s = .next t ∧ t.group? core slot = some h ∧ t.others core slot = s.others core slot ∧
      h.ibud = g.ibud - 1 ∧ h.icnt = g.icnt + 1 ∧ (h.frag fid).hints = (g.frag fid).hints ++ [i] ∧
      (h.frag fid).pc = (g.frag fid).pc ∧ (h.frag fid).pend = (g.frag fid).pend ∧ h.mbud = g.mbud ∧ h.bare fid = g.ran (s.counts g) fid

/-- R81, R113: a `split` with nothing to part, or with no free entry, writes 0 to sD and changes nothing else; one that parts its
lanes makes the lowest free entry a ready fragment with the lanes m, the PC sB and the scalar registers of its parent, keeps the
other lanes, writes 1 to sD in both, and pushes one seam entry. -/
def Obligations.Splits : Prop :=
  ∀ (st : BitVec 3) (d : BitVec 6) (a : BitVec 4) (b : BitVec 6) (s : State) (g : Group) (x : Ctx),
    Issues (.split st d a b) s g x 0 0 → scalarPending g x.fid s.clock = false →
    let k0 := (g.frag x.fid).mask
    let m := x.k a &&& k0
    (m = 0#64 ∨ m = k0 ∨ g.freeFrag = none →
      ∃ t h, Completes (.split st d a b) s g x 0 0 t h ∧ (h.frag x.fid).rd d = 0#64 ∧
        blankS (h.bare x.fid) x.fid d = blankS (g.ran (s.counts g) x.fid) x.fid d) ∧
    ∀ n, m ≠ 0#64 → m ≠ k0 → g.freeFrag = some n → g.landing.inres = false → g.stack.length < 8 → goodTarget (x.s b) →
      ∃ t h, Completes (.split st d a b) s g x 0 0 t h ∧
        (h.frag n).state = .ready ∧ (h.frag n).mask = m ∧ (h.frag n).pc = x.s b ∧ (h.frag n).seam = some g.stack.length ∧
        (h.frag n).s = (h.frag x.fid).s ∧ (h.frag x.fid).mask = k0 &&& ~~~m ∧ (h.frag x.fid).seam = some g.stack.length ∧
        (h.frag x.fid).rd d = (if d = 0#6 then 0#64 else 1#64) ∧
        h.stack = g.stack ++ [⟨false, x.fid, g.seamCount, 0#64, k0, false⟩] ∧ h.seamCount = g.seamCount + 1#8 ∧
        blankF (h.bare x.fid) x.fid n = blankF (g.ran (s.counts g) x.fid) x.fid n

/-- R83, R87, R114: a `join` whose seam waits for other fragments parks its fragment, the primary's writing the entry's ADDR, and changes
nothing else. The arrival that completes the seam leaves its primary, or the lowest-numbered of its fragments when the primary has exited,
with the lanes of all, its own scalar registers, and the word after its own `join` as its PC; it is ready unless a trap or a landing holds
all of them; the seam's entry is gone from the stack, the entries above it move down by one, and the fused fragment takes over the part of a
trap-entered or landing fragment among them. A `join` without an open seam, and one whose completion would fall below the topmost trap
entry, trap ILLEGAL; and so does one that would wait in a landing (R135). That such a `join` is charged first is the model's (DEDUCED, log 33). -/
def Obligations.Joins : Prop :=
  ∀ (st : BitVec 3) (s : State) (g : Group) (x : Ctx), Issues (.join st) s g x 0 0 → anyPending g x.fid s.clock = false →
    ((g.frag x.fid).seam = none → trapsCharged (.join st) s g x (.precise .illegal (wordOf (.join st)) x.unit)) ∧
    ∀ (p : Nat) (e : StackEntry), (g.frag x.fid).seam = some p → g.stack[p]? = some e → e.isTrap = false →
      (g.frag x.fid).mask &&& ~~~e.mask = 0#64 →
      let ids := g.within e.mask
      let keep := if e.gone = false ∧ ids.contains e.frag = true then e.frag else ids.headD 0
      let waits := ∃ i ∈ ids, i ≠ x.fid ∧ ¬((g.frag i).state = .atJoin ∧ (g.frag i).seam = some p)
      (waits → g.landing.inres = false →
        ∃ t h, Completes (.join st) s g x 0 0 t h ∧ (h.frag x.fid).state = .atJoin ∧
          (h.frag x.fid).mask = (g.frag x.fid).mask ∧ (h.frag x.fid).s = (g.frag x.fid).s ∧
          h.stack[p]? = some (if e.frag = x.fid ∧ e.gone = false then { e with addr := x.next } else e) ∧ h.stack.length = g.stack.length ∧
          blankF (h.bare x.fid) x.fid x.fid = blankF (g.ran (s.counts g) x.fid) x.fid x.fid) ∧
      ((waits ∧ g.landing.inres = true) ∨ (¬waits ∧ ∃ q, g.topTrap = some q ∧ p < q) →
        trapsCharged (.join st) s g x (.precise .illegal (wordOf (.join st)) x.unit)) ∧
      (¬waits → (∀ q, g.topTrap = some q → q < p) →
        ∃ t h, Retires (.join st) s g x 0 0 t h ∧
          let mask := ids.foldl (fun m i => m ||| (g.frag i).mask) 0#64
          let open' := fun (q : Nat) => ∃ f, h.stack[q]? = some f ∧ f.isTrap = false ∧ mask &&& ~~~f.mask = 0#64
          (h.frag keep).mask = mask ∧ (h.frag keep).s = (g.frag keep).s ∧
          (h.frag keep).pc = (if keep = x.fid then x.next else (g.frag keep).pc) ∧
          (∀ q, (h.frag keep).seam = some q ↔ open' q ∧ ∀ r, q < r → ¬open' r) ∧
          (∀ i ∈ ids, i ≠ keep → (h.frag i).state = .free) ∧
          ((∃ i ∈ ids, (g.frag i).heldTrap = none) → (∃ i ∈ ids, (g.frag i).heldLand = false) → (h.frag keep).state = .ready) ∧
          h.stack = (g.stack.eraseIdx p).map (fun t => if t.isTrap = true ∧ t.gone = false ∧ t.frag ∈ ids then { t with frag := keep } else t) ∧
          (∀ i, i < 4 → i ∉ ids →
            h.frag i = { g.frag i with seam := (g.frag i).seam.map fun q => if p < q then q - 1 else q }) ∧
          ((∃ t ∈ h.stack, t.isTrap = true) → g.trap.frag.toNat ∈ ids → h.trap.frag = BitVec.ofNat 2 keep) ∧
          (g.landing.inres = true → g.landing.frag.toNat ∈ ids → h.landing.frag = BitVec.ofNat 2 keep) ∧ h.v = g.v ∧ h.k = g.k)

/-- R84, R115: an `exit` of the group's last fragment, once the hamper is empty, leaves no live fragment and an empty join stack,
and the group ends; an `exit` of another fragment frees its entry. Nothing outside the group changes yet. -/
def Obligations.Exits : Prop :=
  ∀ (st : BitVec 3) (s : State) (g : Group) (x : Ctx), Issues (.exit st) s g x 0 0 →
    (g.liveFrags.length ≤ 1 → g.drained = true →
      ∃ t h, Retires (.exit st) s g x 0 0 t h ∧ h.ending = true ∧ h.liveFrags = [] ∧ h.stack = [] ∧ h.landing.inres = false) ∧
    (1 < g.liveFrags.length → g.landing.inres = false → g.topTrap = none →
      ∃ t h, Retires (.exit st) s g x 0 0 t h ∧ (h.frag x.fid).state = .free ∧ h.ending = g.ending)

/-- R119: an `rft` whose top entry is a trap entry with a return PC that R112 lets pass takes the entry off, gives the fragment its
mask and its PC, leaves its scalar registers, and lets go every fragment that delivery held. -/
def Obligations.TrapReturns : Prop :=
  ∀ (st : BitVec 3) (s : State) (g : Group) (x : Ctx) (e : StackEntry),
    Issues (.rft st) s g x 0 0 → g.stack.getLast? = some e → e.isTrap = true → goodTarget e.addr →
    ∃ t h, Retires (.rft st) s g x 0 0 t h ∧ h.stack = g.stack.dropLast ∧ (h.frag x.fid).mask = e.mask ∧
      (h.frag x.fid).pc = e.addr ∧ (h.frag x.fid).s = (g.frag x.fid).s ∧
      ∀ i, i < 4 → i ≠ x.fid →
        (h.frag i).heldTrap = (if (g.frag i).heldTrap = some g.traps then none else (g.frag i).heldTrap) ∧
        ((g.frag i).heldTrap = some g.traps → (g.frag i).state = .held → (g.frag i).heldLand = false → (h.frag i).state = .ready)

/-- R118, R400 to R402: `brk` and `trap` are charged and trap. Delivered in-group, the trap pushes an entry with the next unit as
its ADDR and the fragment's mask, fills %tcause, %taddr and %tmask, sends the fragment to %tvec, and changes nothing outside the
group but the core's last trap cause (R461); delivered to the supervisor, it stops the group with its fragment at the next unit. -/
def Obligations.SoftwareTraps : Prop :=
  ∀ (i : Instr) (s : State) (g : Group) (x : Ctx) (a : TrapArgs), Issues i s g x 0 0 → softTrap x i = some a → trapsCharged i s g x a

/-- R89 to R97, R120, R122: `gets` completes, of %fflags once the flags of the words before it are written; sD gets the special register,
zero-extended, with its fields as they stand after the word's own charge; nothing else changes. %clock of a deterministic launch does not count
the word that reads it, and %qpos.QCNT does (DESIGN CHOICE, log 66). -/
def Obligations.SpecialReads : Prop :=
  ∀ (st : BitVec 3) (d n : BitVec 6) (s : State) (g : Group) (x : Ctx),
    Issues (.gets st d n) s g x 0 0 → (n = 0x20#6 → g.flagsAt ≤ s.clock) →
    ∃ t h, Completes (.gets st d n) s g x 0 0 t h ∧
      (d ≠ 0#6 → (h.frag x.fid).rd d = t.special x h n) ∧
      (∀ v, d ≠ 0#6 → plainSpecial g h n.toNat = some v → (h.frag x.fid).rd d = v) ∧
      (∀ l m fs, d ≠ 0#6 → s.launch? g.team.uid = some l → s.team? g.team = some m → specialFields s g h x.fid l m n.toNat = some fs →
        (h.frag x.fid).rd d = ofFields fs) ∧
      blankS (h.bare x.fid) x.fid d = blankS (g.ran (s.counts g) x.fid) x.fid d

/-- R89, R121, R122: a `sets` of a value that the register does not refuse, once no older word of the group uses the tile of a %tc
register or has flags to write for %fflags, leaves the register with the fields the value gives it, stands at the next unit, and changes no scalar, vector or
mask register, no accumulator, no tile and no byte of memory. -/
def Obligations.SpecialWrites : Prop :=
  ∀ (i : Instr) (s : State) (g : Group) (x : Ctx) (n : Nat) (a : BitVec 6),
    Issues i s g x 0 0 → setsOf i = some (n, a) → accepts n (x.s a) →
    (0x28 ≤ n → n ≤ 0x2F → s.tileBusy x.core x.slot (n - 0x28) = false) → (n = 0x20 → g.flagsAt ≤ s.clock) →
    ∃ t h, exec i s = .next t ∧ t.group? x.core x.slot = some h ∧ specialHolds t g h (x.s a) n ∧
      (h.frag x.fid).pc = x.next ∧ h.icnt = g.icnt + 1 ∧ (∀ f, f < 4 → (h.frag f).s = (g.frag f).s) ∧ h.v = g.v ∧ h.k = g.k ∧ h.b = g.b ∧
      h.tiles = g.tiles ∧ h.accs = g.accs ∧ t.mem = s.mem ∧ t.tags = s.tags ∧ h.stack = g.stack

/-- R134, R136, R140, R141, R389: `land` writes its target to %land, when R112 lets the target pass, and changes nothing else. A `resume` in a
landing that no clamp waits for, with more than the reserve in both budgets after its charge, repays the reserve, ends the landing and
goes on at %lret; nothing outside the group changes. Any other in a landing is pre-empted hard: with cause 3 when a clamp waits, and with the
cause of the landing when the reserve is not there or the landing is a clamp's in a deterministic launch. -/
def Obligations.Landings : Prop :=
  (∀ (st : BitVec 3) (o : BitVec 14) (s : State) (g : Group) (x : Ctx),
     Issues (.land st o) s g x 0 0 → goodTarget (x.addr + 4#64 * immB x.hs o) →
     ∃ t h, Completes (.land st o) s g x 0 0 t h ∧
       h.bare x.fid = { g.ran (s.counts g) x.fid with landing := { g.landing with land := x.addr + 4#64 * immB x.hs o } }) ∧
  (∀ (st : BitVec 3) (s : State) (g : Group) (x : Ctx) (l : Launch),
    Issues (.resume st) s g x 0 0 → g.landing.inres = true → s.launch? g.team.uid = some l →
    let u := g.ibud - (g.frag x.fid).owes (useIn x.hs (.resume st)).charge
    g.aside.isSome = true ∨ g.landing.clampp = true ∨ u ≤ g.landing.ires ∨ g.mbud ≤ g.landing.mres →
    ∃ t h, exec (.resume st) s = .next t ∧
      preemptedAt s t x.core x.slot x.fid { g with ibud := u, icnt := g.icnt + 1 } h l
        (if g.aside.isSome = false ∧ g.landing.clampp = true then 3#2 else g.landing.cause) x.unit) ∧
  ∀ (st : BitVec 3) (s : State) (g : Group) (x : Ctx),
    Issues (.resume st) s g x 0 0 → g.landing.inres = true → g.landing.clampp = false → g.aside = none →
    g.landing.ires < g.ibud - (g.frag x.fid).owes (useIn x.hs (.resume st)).charge → g.landing.mres < g.mbud → goodTarget g.landing.lret →
    ∃ t h, exec (.resume st) s = .next t ∧ t.group? x.core x.slot = some h ∧ t.others x.core x.slot = s.others x.core x.slot ∧
      h.ibud = g.ibud - (g.frag x.fid).owes (useIn x.hs (.resume st)).charge - g.landing.ires ∧ h.mbud = g.mbud - g.landing.mres ∧
      (h.frag x.fid).pc = g.landing.lret ∧ h.landing = { g.landing with inres := false, clampp := false } ∧
      (∀ f, f < 4 → (h.frag f).heldLand = false ∧ (h.frag f).s = (g.frag f).s) ∧ h.v = g.v ∧ h.k = g.k

/-- R130, R143: a `topup` that TOPR allows, that the team's pools cover and that keeps both budgets below 2^48 moves the whole
request from the pools to the budgets and writes 1 to sD; any other writes 0 to sD and moves nothing. R77, R123: `rfgive` gives the
top registers of the allocation, a multiple of 8 of them that leaves 16, to the team's pool, once no write to them is pending. R124:
`rfclaim` takes a multiple of 8 from the pool, zeroed, and writes 1 to sD, when the pool holds them and 64 are not exceeded; it writes
0 and takes nothing otherwise. -/
def Obligations.PoolTransfers : Prop :=
  (∀ (st : BitVec 3) (d a b : BitVec 6) (s : State) (g : Group) (x : Ctx) (m : Team),
     Issues (.topup st d a b) s g x 0 0 → s.team? g.team = some m →
     let c := (g.frag x.fid).owes (useIn x.hs (.topup st d a b)).charge
     let u := (x.s a).toNat
     let n := (x.s b).toNat
     let can := g.landing.topr = true ∧ u ≤ m.ipool ∧ n ≤ m.mpool ∧ g.ibud - c + u < 2 ^ 48 ∧ g.mbud + n < 2 ^ 48
     ∃ t h, exec (.topup st d a b) s = .next t ∧ t.group? x.core x.slot = some h ∧ (h.frag x.fid).pc = x.next ∧
       blankS (h.bare x.fid) x.fid d = blankS (g.ran (s.counts g) x.fid) x.fid d ∧ t.mem = s.mem ∧
       (can → h.ibud = g.ibud - c + u ∧ h.mbud = g.mbud + n ∧ (d ≠ 0#6 → (h.frag x.fid).rd d = 1#64) ∧
         t.team? g.team = some { m with ipool := m.ipool - u, mpool := m.mpool - n }) ∧
       (¬can → h.ibud = g.ibud - c ∧ h.mbud = g.mbud ∧ (d ≠ 0#6 → (h.frag x.fid).rd d = 0#64) ∧ t.team? g.team = some m)) ∧
  (∀ (st : BitVec 3) (a : BitVec 6) (s : State) (g : Group) (x : Ctx) (m : Team),
    Issues (.rfgive st a) s g x 0 0 → s.team? g.team = some m →
    let n := min ((x.s a).toNat / 8 * 8) (g.valloc - 16)
    givePending g (g.valloc - n) s.clock = false →
    ∃ t h, exec (.rfgive st a) s = .next t ∧ t.group? x.core x.slot = some h ∧ h.valloc = g.valloc - n ∧
      t.team? g.team = some { m with vfree := m.vfree + n } ∧ (h.frag x.fid).pc = x.next ∧ (h.frag x.fid).s = (g.frag x.fid).s ∧
      h.v = g.v ∧ t.mem = s.mem) ∧
  (∀ (st : BitVec 3) (d a : BitVec 6) (s : State) (g : Group) (x : Ctx) (m : Team),
    Issues (.rfclaim st d a) s g x 0 0 → s.team? g.team = some m →
    let n := (x.s a).toNat / 8 * 8
    let can := 8 ≤ n ∧ n ≤ m.vfree ∧ g.valloc + n ≤ 64
    ∃ t h, exec (.rfclaim st d a) s = .next t ∧ t.group? x.core x.slot = some h ∧ (h.frag x.fid).pc = x.next ∧ t.mem = s.mem ∧
      (d ≠ 0#6 → (h.frag x.fid).rd d = if can then 1#64 else 0#64) ∧
      h.valloc = (if can then g.valloc + n else g.valloc) ∧
      t.team? g.team = some (if can then { m with vfree := m.vfree - n } else m) ∧
      ∀ r : Fin 64, h.v[r.val] = if can ∧ g.valloc ≤ r.val ∧ r.val < g.valloc + n then Vector.replicate 64 0#32 else g.v[r.val])

/-- R150, R152, R156, R157: an `ebind` that R156 does not fault binds its slot with its source and its handler, pending at once
when the condition already holds; `eunbind` leaves the slot unbound. The other slots stay as the retired word leaves them: in a
deterministic launch a TIMER slot may latch at it (R152). -/
def Obligations.SlotBindings : Prop :=
  (∀ (i : Instr) (d : BitVec 3) (a b : BitVec 6) (pers : Bool) (s : State) (g : Group) (x : Ctx),
    Issues i s g x 0 0 → bindOf i = some (d, a, b, pers) → bindFault s g (wordOf i) (x.s a) (x.s b) = none →
    ∃ t h e, Goes i s g x 0 0 0#6 t h ∧ (h.frag x.fid).pc = x.next ∧ sameData g h ∧ keeps s t ∧
      h.slotAt d.toNat = some e ∧ e.desc = x.s a ∧ e.handler = x.s b ∧ e.pers = pers ∧
      (∀ p, latchesNow s g (x.s a) = some p → e.pend = p) ∧ ∀ n, n < 8 → n ≠ d.toNat → h.slotAt n = (g.retire (s.counts g)).slotAt n) ∧
  (∀ (st d : BitVec 3) (s : State) (g : Group) (x : Ctx), Issues (.eunbind st d) s g x 0 0 →
    ∃ t h, Goes (.eunbind st d) s g x 0 0 0#6 t h ∧ (h.frag x.fid).pc = x.next ∧ sameData g h ∧ keeps s t ∧
      h.slotAt d.toNat = none ∧ ∀ n, n < 8 → n ≠ d.toNat → h.slotAt n = (g.retire (s.counts g)).slotAt n)

/-- R152, R155, R158, R159: a `wany` with no unmasked slot pending, once the TIMER sources of a deterministic launch have counted it,
parks its fragment at the unit and changes nothing else; one that finds slots pending delivers the lowest: the fragment goes to its
handler, %evinfo says which event it was, and a one-shot slot is unbound. That a parked fragment has the waiting unit as its PC is the
model's (DEDUCED, log 22). -/
def Obligations.WaitAny : Prop :=
  ∀ (st : BitVec 3) (s : State) (g : Group) (x : Ctx),
    Issues (.wany st) s g x 0 0 → g.slotBits (fun _ => true) &&& ~~~g.evm ≠ 0#8 →
    let r := g.retire (s.counts g)
    (s.wantedNow r = 0#8 →
      ∃ t h, Retires (.wany st) s g x 0 0 t h ∧ (h.frag x.fid).state = .inWany ∧ (h.frag x.fid).pc = x.unit ∧ h.bare x.fid =
        (g.modFrag x.fid fun f => { f with state := .inWany, wait := .none, parkedAt := s.clock }).ran (s.counts g) x.fid) ∧
    ∀ n b, n < 8 → (s.wantedNow r).getLsbD n = true → (∀ m, m < n → (s.wantedNow r).getLsbD m = false) →
      r.slotAt n = some b →
      ∃ t h, Goes (.wany st) s g x 0 0 0#6 t h ∧ sameData g h ∧ keeps s t ∧ (h.frag x.fid).pc = b.handler ∧
        h.evinfo = BitVec.ofNat 64 (srcKind b.desc * 2 ^ 60 + n * 2 ^ 48 + s.eventValue r b) ∧
        (h.slotAt n).isSome = b.pers

/-- R162, R379: an `mpost` that names a group of its team or cluster team writes 2 to sD when that group has ended, 0 when its mailbox
holds 4 tokens, and else 1, with the token put behind those of the mailbox. In a deterministic launch it is the commit word of its quantum,
with its token, and no mailbox changes yet. -/
def Obligations.MailPosts : Prop :=
  ∀ (st : BitVec 3) (d a b : BitVec 6) (s : State) (g : Group) (x : Ctx) (k : TeamKey) (n : Nat),
    let i := Instr.mpost st d a b
    let token := (x.s b).setWidth 32
    Issues i s g x 0 0 → stageRoom x s g [] 1 → (g.quiet = true ∨ s.postTakes g (x.s a) = false) → s.postHeld g (x.s a) = false →
    s.postTarget g (x.s a) (wordOf i) = .ok (some (k, n)) →
    (∀ q, s.isDet g = false → s.groups.find? (fun h => h.team == k && h.gidx == n && !h.ending) = q →
      (∀ p, q = some p → s.group? p.core p.slot = some p) →
      ∃ t h, Goes i s g x 0 0 d t h ∧ (h.frag x.fid).pc = x.next ∧ sameData g h ∧ keeps s t ∧
        (d ≠ 0#6 → (h.frag x.fid).rd d = match q with
          | none => 2#64
          | some p => if p.mailbox.length ≥ 4 then 0#64 else 1#64) ∧
        ∀ p, q = some p → ∃ r, t.group? p.core p.slot = some r ∧
          r.mailbox = if p.mailbox.length ≥ 4 then p.mailbox else p.mailbox ++ [token]) ∧
    (s.isDet g = true →
      ∃ t h, Goes i s g x 0 0 0#6 t h ∧ (h.frag x.fid).pc = x.next ∧ sameData g h ∧ keeps s t ∧
        h.commit = some (.post (x.s a) token d x.fid) ∧ h.qdone = true ∧ h.mailbox = g.mailbox ∧
        t.others x.core x.slot = s.others x.core x.slot)

/-- R163 to R170, R379, R380, R385: `pegget` writes a handle of a fresh peg, the lowest free one of the pool where free pegs are left
beside those kept for deterministic launches (DESIGN CHOICE, log 29), or 0, as where the pool has none; `pegref` and `pegput` move the
explicit references by one, and
the peg goes with its last reference; `pegarr` takes its arrivals off the count, and a count that runs out advances the phase;
`pegwait` goes on when the phase is reached and parks at its unit with a reference when it is not. In a deterministic launch `pegget` is the
commit word of its quantum and `pegarr` is staged. That a parked fragment has the waiting
unit as its PC is the model's (DEDUCED, log 22). -/
def Obligations.Pegs : Prop :=
  ∀ (st : BitVec 3) (d a b : BitVec 6) (s : State) (g : Group) (x : Ctx) (p : Peg),
    (Issues (.pegget st d a) s g x 0 0 →
      let c := x.s a
      c.toNat / 2 ^ 48 % 2 ^ 15 = 0 → c.toNat % 2 ^ 16 ≠ 0 → (c.getLsbD 63 = true → 1 < s.shapeOf g ∧ g.team.origin = false) →
      (s.isDet g = true →
        ∃ t h, Goes (.pegget st d a) s g x 0 0 0#6 t h ∧ (h.frag x.fid).pc = x.next ∧ sameData g h ∧ keeps s t ∧ t.pegs = s.pegs ∧
          h.commit = some (.pegget c d x.fid) ∧ h.qdone = true) ∧
      (s.isDet g = false →
        let r := s.pegAlloc g c
        let cluster := c.getLsbD 63
        let pool := if cluster then clusterOf g.core else g.core
        let size := if cluster then 32 else 64
        let used := fun (j : Nat) =>
          ∃ q, s.pegs.find? (fun q => q.cluster == cluster && q.pool == pool && q.index == j) = some q ∧ q.live = true
        ∃ t h, Goes (.pegget st d a) s g x 0 0 d t h ∧ (h.frag x.fid).pc = x.next ∧ sameData g h ∧ keeps s t ∧ t.pegs = r.2.pegs ∧
          (d ≠ 0#6 → (h.frag x.fid).rd d = r.1) ∧ (r.1 = 0#64 → t.pegs = s.pegs) ∧ ((∀ j, j < size → used j) → r.1 = 0#64) ∧
          (∀ j, j < size → ¬used j → (∀ k, k < j → used k) → s.pegsOf cluster pool (fun _ => true) + s.allotted cluster pool < size →
            r.1 ≠ 0#64 ∧ ∃ q ∈ t.pegs, q.handle = r.1 ∧ q.cluster = cluster ∧ q.pool = pool ∧ q.index = j ∧ q.live = true) ∧
          (r.1 ≠ 0#64 → ∃ q ∈ t.pegs, q.handle = r.1 ∧ q.live = true ∧ q.owner = g.team ∧ q.phase = 0#16 ∧ q.explicit = 1 ∧ q.implicit = 0 ∧
            q.a = q.arrivals ∧ q.arrivals = c.toNat % 2 ^ 16 ∧ q.b = q.bytes ∧ q.bytes = c.toNat / 2 ^ 16 % 2 ^ 32 ∧
            q.cluster = cluster ∧ q.pool = pool))) ∧
    (Issues (.pegref st a) s g x 0 0 → s.peg? g (x.s a) = some p → p.explicit + p.implicit < 65535 →
      ∃ t h, Goes (.pegref st a) s g x 0 0 0#6 t h ∧ (h.frag x.fid).pc = x.next ∧ sameData g h ∧ keeps s t ∧
        t.pegs = (s.setPeg { p with explicit := p.explicit + 1 }).pegs) ∧
    (Issues (.pegput st a) s g x 0 0 → s.peg? g (x.s a) = some p → 0 < p.explicit →
      ∃ t h, Goes (.pegput st a) s g x 0 0 0#6 t h ∧ (h.frag x.fid).pc = x.next ∧ sameData g h ∧ keeps s t ∧
        t.pegs = (s.setPeg (if p.explicit + p.implicit = 1 then { p with explicit := 0, live := false, gen := p.gen + 1#8 }
          else { p with explicit := p.explicit - 1 })).pegs) ∧
    (Issues (.pegarr st a b) s g x 0 0 → s.peg? g (x.s a) = some p → g.quiet = true → stageRoom x s g [] 1 →
      let k := (x.s b).toNat
      0 < k → k ≤ 65535 →
      ∃ t h, Goes (.pegarr st a b) s g x 0 0 0#6 t h ∧ (h.frag x.fid).pc = x.next ∧ sameData g h ∧ keeps s t ∧
        (s.isDet g = true → t.pegs = s.pegs ∧ h.staged = g.staged ++ [.arrive (x.s a) k]) ∧
        (s.isDet g = false → 0 < p.a - k ∨ 0 < p.b → t.pegs = (s.setPeg { p with a := p.a - k }).pegs) ∧
        (s.isDet g = false → p.a - k ≤ 0 → p.b = 0 → 0 < p.a - k + p.arrivals →
          ∃ q ∈ t.pegs, q.same p = true ∧ q.phase = p.phase + 1#16 ∧ q.a = p.a - k + p.arrivals ∧ q.b = p.bytes)) ∧
    (Issues (.pegwait st a b) s g x 0 0 → s.peg? g (x.s a) = some p →
      let ph := (x.s b).setWidth 16
      if (p.phase - ph).toNat < 2 ^ 15 then ∃ t h, Completes (.pegwait st a b) s g x 0 0 t h ∧ h.bare x.fid = g.ran (s.counts g) x.fid
      else ∃ t h, Goes (.pegwait st a b) s g x 0 0 0#6 t h ∧ (h.frag x.fid).state = .inPegwait ∧ (h.frag x.fid).pc = x.unit ∧
        (h.frag x.fid).wait = .peg (x.s a) ph x.next ∧ sameData g h ∧ keeps s t ∧
        t.pegs = (s.setPeg { p with implicit := p.implicit + 1 }).pegs)

/-- R171, R172, R174, R380: a `seal` with room for one more batch gives the open batch the next number, with its peg and its
completion word, and opens an empty one; `waitb` goes on when at most n sealed batches of its class are outstanding, and parks at its
unit when more are. On a part without the gate a batch of class g completes at once, and `waitb` of class g never parks. That a parked
fragment has the waiting unit as its PC is the model's (DEDUCED, log 22). -/
def Obligations.Seals : Prop :=
  (∀ (st : BitVec 3) (d a b : BitVec 6) (c : BitVec 2) (s : State) (g : Group) (x : Ctx),
    let i := Instr.seal st d a b c
    let o := g.batch (.ofCode c.toNat)
    Issues i s g x 0 0 → o.seals.length < 64 → (d ≠ 0#6 → (s.peg? g (x.s d)).isSome) →
    (a ≠ 0#6 → (x.s a).toNat % 4 = 0 ∧ (x.s a).toNat + 4 ≤ (s.team? g.team).elim 0 (·.scratch)) →
    stageRoom x s g [] (if d = 0#6 then 0 else 1) →
    (c.toNat < 2 ∨ s.variant.hasGate = true ∨ s.isDet g = true →
      ∃ t h e, Goes i s g x 0 0 0#6 t h ∧ (h.frag x.fid).pc = x.next ∧ sameData g h ∧ keeps s t ∧
        h.batch (.ofCode c.toNat) = { o with counter := o.counter + 1#32, seals := o.seals ++ [e], payload := 0, short := false } ∧
        e.num = o.counter + 1#32 ∧ e.payload = o.payload ∧ e.short = o.short ∧ e.peg = (if d = 0#6 then none else some (x.s d)) ∧
        e.word = if a = 0#6 then none else some ((x.s a).toNat, (x.s b).setWidth 32)) ∧
    (2 ≤ c.toNat → s.variant.hasGate = false → s.isDet g = false → o.seals = [] → g.gates = [] → g.reqs = [] →
      ∃ t h, exec i s = .next t ∧ t.group? x.core x.slot = some h ∧ (h.frag x.fid).pc = x.next ∧ h.icnt = g.icnt + 1 ∧
        h.batch (.ofCode c.toNat) = { o with counter := o.counter + 1#32, latest := o.counter + 1#32, payload := 0, short := false } ∧
        t.mem = s.mem)) ∧
  (∀ (st : BitVec 3) (c : BitVec 2) (n : BitVec 8) (s : State) (g : Group) (x : Ctx),
    Issues (.waitb st c n) s g x 0 0 →
    if (g.batch (.ofCode c.toNat)).seals.length ≤ n.toNat ∨ (2 ≤ c.toNat ∧ s.variant.hasGate = false) then
      ∃ t h, Completes (.waitb st c n) s g x 0 0 t h ∧ { h.bare x.fid with binds := g.binds } = g.ran (s.counts g) x.fid
    else
      ∃ t h, Retires (.waitb st c n) s g x 0 0 t h ∧ (h.frag x.fid).state = .inWaitb ∧ (h.frag x.fid).pc = x.unit ∧
        (h.frag x.fid).wait = .batch (.ofCode c.toNat) n.toNat x.next)

/-- R217, R219, R232, R234 to R246, R250: a global memory word without lanes only goes on (in a deterministic launch a commit-point
word ends its quantum then too: DESIGN CHOICE, log 66); one whose lanes pass the precise checks
leaves its group one request with its lanes in order, or, in a deterministic launch, a staged write or the commit word of its
quantum. No register and no byte of memory has changed yet, unless a PAGE record was raised. -/
def Obligations.GlobalAccesses : Prop :=
  ∀ (i : Instr) (s : State) (g : Group) (x : Ctx) (m : MemSpec) (p : Plan) (u : State),
    let n := sectorsOf m.align m.n m.ins
    Issues i s g x 0 n → globalOf x i = some m → g.orderHeld m.release = false →
    (m.ins = [] → ∃ t h, Completes i s g x 0 n t h ∧ h.qdone = (g.qdone || (s.isDet g && m.commits)) ∧
      { h.bare x.fid with vmarks := g.vmarks, qdone := g.qdone } = g.ran (s.counts g) x.fid) ∧
    (m.ins ≠ [] → x.plan s m = (p, u) → p.fault = none → memRoom x s g m →
      ∃ t h r, Goes i s g x 0 n 0#6 t h ∧ (h.frag x.fid).pc = x.next ∧ sameData g h ∧ (p.page = none → keeps s t) ∧ standsFor m x r ∧
        (g.copies = [] → g.gates = [] → r.lanes.map (·.data) = m.ins.map (·.data) ∧
          (m.kind.op.isSome = true → r.lanes.map (·.new) = m.ins.map (·.new))) ∧
        (if s.isDet g then
          if m.kind.stages then h.staged = g.staged ++ [.write r]
          else if m.commits then h.commit = some (.access r) ∧ h.qdone = true
          else h.reqs = g.reqs ++ [r]
        else h.reqs = g.reqs ++ [r]))

/-- R224 to R226, R238, R379, R380: a window word whose lanes lie in the window: one without lanes only goes on, and an `ldp` of a
deterministic launch ends its quantum then too (DESIGN CHOICE, log 66); a load of the own window
takes its words at issue and writes vD later; a store of the own window writes the bytes of its lanes, in their order, and no
other byte of any window; an access of another position leaves a request. In a deterministic launch an `stp` is staged and an `ldp` is the
commit word of its quantum, whatever position it names. -/
def Obligations.WindowAccesses : Prop :=
  ∀ (i : Instr) (s : State) (g : Group) (x : Ctx) (m : Team) (w : Bool) (q : Option Nat) (n : Nat) (d : BitVec 6) (ins : List LaneIn),
    Issues i s g x 0 0 → windowOf x i = some (w, q, n, d, ins) → g.orderHeld false = false →
    (q.isSome = true → stageRoom x s g [] (if w = true ∧ ins ≠ [] then 1 else 0)) →
    (∀ j, q = some j → s.noPeer g j = false) → s.team? g.team = some m → windowFault m.scratch n ins = none →
    let own := q = none ∨ (q = some m.pos ∧ s.isDet g = false)
    (ins = [] → ∃ t h, Completes i s g x 0 0 t h ∧ h.qdone = (g.qdone || (s.isDet g && !w && q.isSome)) ∧
      { h.bare x.fid with vmarks := g.vmarks, qdone := g.qdone } = g.ran (s.counts g) x.fid) ∧
    (ins ≠ [] → own → w = false →
      ∃ t h r, Goes i s g x 0 0 0#6 t h ∧ (h.frag x.fid).pc = x.next ∧ sameData g h ∧ keeps s t ∧ h.reqs = g.reqs ++ [r] ∧
        r.kind = .window ∧ r.dst = d.toNat ∧ r.size = n ∧ r.lanes.map (fun l => (l.lane, l.ea, l.st, l.res)) =
          ins.map fun l => (l.lane, l.ea, LaneSt.performed, BitVec.ofNat 64 (readLE m.window l.ea.toNat n))) ∧
    (ins ≠ [] → own → w = true →
      ∃ t h m', Goes i s g x 0 0 0#6 t h ∧ (h.frag x.fid).pc = x.next ∧ sameData g h ∧ t.mem = s.mem ∧ t.tags = s.tags ∧
        t.team? g.team = some m' ∧ t.teams.filter (fun y => y.key != g.team) = s.teams.filter (fun y => y.key != g.team) ∧
        (∀ a, (∀ l ∈ ins, a < l.ea.toNat ∨ l.ea.toNat + n ≤ a) → sget m'.window a = sget m.window a) ∧
        (g.copies = [] → g.gates = [] → m'.window = ins.foldl (fun v l => writeBytes v l.ea.toNat (leBytes n l.data.toNat)) m.window)) ∧
    (∀ j, ins ≠ [] → q = some j → ¬own →
      ∃ t h r, Goes i s g x 0 0 0#6 t h ∧ (h.frag x.fid).pc = x.next ∧ sameData g h ∧ keeps s t ∧
        (if s.isDet g then h.reqs = g.reqs ∧
            if w then h.staged = g.staged ++ [.peer j r] else h.commit = some (.access r) ∧ h.qdone = true ∧ h.staged = g.staged
          else h.reqs = g.reqs ++ [r]) ∧
        r.kind = (if w then .peerStore j else .peerLoad j) ∧ r.dst = d.toNat ∧
        r.lanes.map (fun l => (l.lane, l.ea, l.st)) = (ins.map fun l => (l.lane, l.ea, LaneSt.waiting)) ∧
        (g.copies = [] → g.gates = [] → r.lanes.map (·.data) = ins.map (·.data)))

/-- R227, R228, R249, R250, R380: a buffer word that its descriptor allows, with every lane in the buffer or CLAMP, accesses the lanes in the
buffer as a global word does, staged when it is a store of a deterministic launch; a load gives 0 in the other lanes, which come with the lanes
it reads, or with an answer of their own when there are none (DESIGN CHOICE, log 73), and a
store skips them. `bdset` writes a descriptor, and `bdget`
reads a half of one. -/
def Obligations.BufferWords : Prop :=
  (∀ (i : Instr) (s : State) (g : Group) (x : Ctx) (w : Bool) (q : BufDesc) (n : Nat) (d : BitVec 6) (ins : List LaneIn) (p : Plan) (u : State),
    let k := sectorsOf false n (atBase q ins)
    let m := bufferSpec w q n d ins
    let out := maskOf ((ins.filter fun l => !inBuffer q n l).map (·.lane))
    let zeros := (lanesOf out).map fun l => (l, LaneSt.performed, 0#64)
    Issues i s g x 0 k → bufferOf x i = some (w, q, n, d, ins) → (if w then q.w else q.rd) = true →
    (q.clamp = true ∨ ∀ l ∈ ins, inBuffer q n l = true) → g.orderHeld false = false →
    x.plan s m = (p, u) → (m.ins = [] ∨ (p.fault = none ∧ memRoom x s g m)) →
    ∃ t h, Goes i s g x 0 k 0#6 t h ∧ (h.frag x.fid).pc = x.next ∧ sameData g h ∧ (p.page = none → keeps s t) ∧
      (m.ins = [] → h.staged = g.staged ∧ (w = true ∨ out = 0#64 → h.reqs = g.reqs) ∧
        (w = false → out ≠ 0#64 → ∃ r, h.reqs = g.reqs ++ [r] ∧ r.kind = .window ∧ r.size = n ∧ r.scalar = false ∧ r.dst = d.toNat ∧
          r.frag = x.fid ∧ r.lanes.map (fun l => (l.lane, l.st, l.res)) = zeros)) ∧
      (m.ins ≠ [] → ∃ r, standsFor m x { r with lanes := r.lanes.take m.ins.length } ∧
        (r.lanes.drop m.ins.length).map (fun l => (l.lane, l.st, l.res)) = (if w then [] else zeros) ∧
        if s.isDet g = true ∧ w = true then h.staged = g.staged ++ [.write r] ∧ h.reqs = g.reqs
        else h.staged = g.staged ∧ h.reqs = g.reqs ++ [r])) ∧
  (∀ (st : BitVec 3) (d : BitVec 4) (a b : BitVec 6) (s : State) (g : Group) (x : Ctx),
    Issues (.bdset st d a b) s g x 0 0 → (x.s b).toNat < 2 ^ 43 →
    ∃ t h, Completes (.bdset st d a b) s g x 0 0 t h ∧
      h.bare x.fid = { g.ran (s.counts g) x.fid with b := g.b.set d.toNat (x.s b ++ x.s a) d.isLt }) ∧
  (∀ (st : BitVec 3) (d : BitVec 6) (a : BitVec 4) (hi : Bool) (s : State) (g : Group) (x : Ctx),
    let i := if hi then Instr.bdgetHi st d a else Instr.bdgetLo st d a
    Issues i s g x 0 0 →
    ∃ t h, Completes i s g x 0 0 t h ∧ blankS (h.bare x.fid) x.fid d = blankS (g.ran (s.counts g) x.fid) x.fid d ∧
      (d ≠ 0#6 → (h.frag x.fid).rd d = (g.b[a.toNat]'a.isLt).extractLsb' (if hi then 64 else 0) 64))

/-- R274, R278, R282, R284, R286, R290, R292: a streamer word of the producer that passes its checks, while a copy slot is free, puts one
copy of its operation into the open batch of class c, at its first byte, or none when it moves no byte; in a deterministic launch it takes its
place among the staged writes. Memory, windows and registers stay for now. A piece of a copy from global memory to the window reads its bytes
and writes them there, swizzled, with the layout tag of its blocks; one from the window to global memory leaves as one store, and the copy
goes on when that is performed; a run of box elements outside the tensor writes FILL to the window and nothing to memory. That such a run
goes on to the row's end or to its first element in bounds is the model's (DESIGN CHOICE, log 40). A copy within its team's window moves its
bytes, gives the blocks it writes layout tag 0, and leaves the streamer when its last
byte is moved: that it moves them all in one piece is the model's (DESIGN CHOICE, log 40). While the groups of its team and of its mates
stand for their save, no copy of theirs starts a further piece (R288, R410). -/
def Obligations.Copies : Prop :=
  (∀ (i : Instr) (s : State) (g : Group) (x : Ctx) (op : CopyOp) (sectors payload : Nat),
     Issues i s g x 0 sectors → copyOf x s i = some (.ok op sectors payload) → s.producer g = true → g.orderHeld false = false →
     s.copiesOn x.core < 32 → (s.isDet g = true → s.tableWaits g op = none) → stageRoom x s g (s.copyLines g op) 0 →
     ∃ t h, Goes i s g x 0 sectors 0#6 t h ∧ (h.frag x.fid).pc = x.next ∧ sameData g h ∧ keeps s t ∧
       (s.isDet g = false → h.staged = g.staged) ∧
       (emptyCopy op = true → h.copies = g.copies) ∧
       (emptyCopy op = false → ∃ c, h.copies = g.copies ++ [c] ∧ c.op = op ∧ c.pos = 0 ∧ c.payload = payload ∧ c.pc = x.unit ∧
         c.batch = g.bc.counter + 1#32 ∧ c.st = .running ∧
         (s.isDet g = true → s.copyLines g op ≠ [] → h.staged = g.staged ++ [.copy c.id (s.copyLines g op) [] x.unit]))) ∧
  (∀ (core slot n : Nat) (s : State) (g : Group) (m : Team) (c : Copy), live s core slot g →
    g.copies.find? (fun c => c.id == n) = some c → s.team? g.team = some m → s.stoodForSave m = true → c.out = none →
    exec (.streamerPiece core slot n) s = .next s) ∧
  (∀ (core slot n id : Nat) (s : State) (g : Group) (c : Copy) (r : Request) (w : Bool) (ea : Word) (offs : List Nat) (total : Nat)
      (span : BitVec 3), live s core slot g → g.copies.find? (fun c => c.id == n) = some c → c.st = .running → c.out = some id → c.raced = [] →
    pieceAt c = some (w, ea, offs, total, span) → pieceIn c → c.pos < total → g.req? id = some r → r.performed = true →
    (∀ l ∈ r.lanes, l.st ≠ .failed .tag) →
    ∃ t h, exec (.streamerPiece core slot n) s = .next t ∧ onlyGroup s t core slot h ∧ h.reqs = g.reqs.filter (fun q => q.id != id) ∧
      movedOn g h c offs.length total) ∧
  ∀ (core slot n : Nat) (s : State) (g : Group) (m : Team) (c : Copy), live s core slot g →
    g.copies.find? (fun c => c.id == n) = some c → s.frozen.contains core = false → c.st = .running → c.raced = [] → c.origs = [] →
    c.out = none → s.team? g.team = some m → s.stoodForSave m = false → s.peerHeld m = false → g.staged = [] →
    s.pieceHeld g c c.piece.len (c.piece.src.toList ++ c.piece.dsts) = false →
    (∀ w ea offs total span pa e u, pieceAt c = some (w, ea, offs, total, span) → pieceIn c → c.pos < total →
      s.ownTags g c.id = s.tags → ea.toNat / 2 ^ 55 % 2 ^ 5 = 0 → translate s g.part g.site (ea.toNat % 2 ^ 55) = (.ok pa e, u) →
      natBit e 6 = false → natBit e 4 = false →
      let pas := (List.range offs.length).map (pa + ·)
      (w = true → (∀ a ∈ pas, poisoned s a = false) →
        ∃ t h m', exec (.streamerPiece core slot n) s = .next t ∧ t.group? core slot = some h ∧ movedOn g h c offs.length total ∧
          h.reqs = g.reqs ∧ t.mem = s.mem ∧ t.tags = s.tags ∧ t.team? g.team = some m' ∧
          m'.window = writeAt m.window offs (readAt s.mem pas) ∧ m'.ltags = ssetAll m.ltags (offs.map fun o => (o / 256, span))) ∧
      (w = false → natBit e 2 = true → s.isDet g = false →
        ∃ t h r, exec (.streamerPiece core slot n) s = .next t ∧ t.group? core slot = some h ∧ h.reqs = g.reqs ++ [r] ∧ r.kind = .piece ∧
          r.size = 1 ∧ t.mem = s.mem ∧ t.tags = s.tags ∧ t.teams = s.teams ∧
          r.lanes.map (fun l => (l.pas, l.data.setWidth 8, l.st)) =
            (pas.zip offs).map (fun p => ([p.1], sget m.window p.2, LaneSt.waiting)) ∧
          h.copies = g.copies.map fun y => if y.id = n then { c with out := some r.id } else y)) ∧
    (∀ x, c.op = .tensor x → x.table = false → c.pos < x.rb * x.box.2.1 * x.box.2.2 → x.rb = x.box.1 * x.esize → 0 < x.esize →
      ¬boxIn x (c.pos / x.rb) (c.pos % x.rb) →
      ∃ t h m' k, exec (.streamerPiece core slot n) s = .next t ∧ t.group? core slot = some h ∧ 0 < k ∧
        movedOn g h c k (x.rb * x.box.2.1 * x.box.2.2) ∧ h.reqs = g.reqs ∧ t.mem = s.mem ∧ t.team? g.team = some m' ∧
        c.pos % x.rb + k ≤ x.rb ∧ (∀ j, j < k → ¬boxIn x (c.pos / x.rb) (c.pos % x.rb + j)) ∧
        (x.toWindow = false → t.teams = s.teams) ∧
        (x.toWindow = true → m'.window = writeAt m.window ((List.range k).map fun j => boxPlace x (c.pos / x.rb) (c.pos % x.rb + j))
          ((List.range k).map fun j => (x.fill >>> (8 * ((c.pos % x.rb + j) % x.esize))).setWidth 8) ∧
          m'.ltags = ssetAll m.ltags ((List.range k).map fun j =>
            (boxPlace x (c.pos / x.rb) (c.pos % x.rb + j) / 256, BitVec.ofNat 3 x.span)))) ∧
    ∀ a b len, c.op = .linear (.window none a) (.window none b) len → 0 < len → c.pos = 0 →
      ∃ t h m', exec (.streamerPiece core slot n) s = .next t ∧ t.group? core slot = some h ∧ h.copies = g.copies.filter (fun c => c.id != n) ∧
        t.mem = s.mem ∧ t.team? g.team = some m' ∧
        m'.window = writeAt m.window ((List.range len).map (a + ·)) (readAt m.window ((List.range len).map (b + ·))) ∧
        m'.ltags = ssetAll m.ltags ((List.range len).map fun i => ((a + i) / 256, 0#3))

/-- R295, R298 to R304, R309, R311, R312: `tld` copies the window bytes of a tile image into tD, and `tzero` empties tD; neither
tile has a gate mark then. `mma` and `mmaq` put one operation behind those of their engine, for the active rows, and bind aD. `accz`
sets the active rows of aD to zero, `accrd` reads word sB mod 64 of each active row into vD, and `accwr` writes it from vA. That a `tld`
outside a deterministic launch reads its image at its issue, and takes what the window holds then, is the model's (DEDUCED, log 39; the bytes that
race, log 16). -/
def Obligations.MatrixWords : Prop :=
  ∀ (st : BitVec 3) (pk : BitVec 2) (s : State) (g : Group) (x : Ctx),
    (∀ (d : BitVec 3) (a b : BitVec 6) (m : Team), Issues (.tld st d a b) s g x 0 0 → s.team? g.team = some m →
      tldFault s g (wordOf (.tld st d a b)) (g.shape d.toNat) (x.s a) (x.s b) = none → g.orderHeld false = false →
      s.tileHeld x.core x.slot d.toNat = false →
      ∃ t h, Completes (.tld st d a b) s g x 0 0 t h ∧ h.tmark d.toNat = .none ∧ (∀ n, n < 8 → n ≠ d.toNat → h.tile n = g.tile n) ∧
        h.tile d.toNat = writeBytes (g.tile d.toNat) 0
          (readAt m.window (tileOffsets (g.shape d.toNat) (x.s a).toNat ((x.s b).toNat % 2 ^ 32)))) ∧
    (∀ d : BitVec 3, Issues (.tzero st d) s g x 0 0 → s.tileHeld x.core x.slot d.toNat = false →
      ∃ t h, Completes (.tzero st d) s g x 0 0 t h ∧ h.tmark d.toNat = .none ∧ h.tile d.toNat = [] ∧
        ∀ n, n < 8 → n ≠ d.toNat → h.tile n = g.tile n) ∧
    (∀ ty d a b : BitVec 3, let i := Instr.mma st pk ty d a b
      Issues i s g x 0 0 → mmaBad ty.toNat (g.shape a.toNat) (g.shape b.toNat) = false → s.tileWritten x.core x.slot a.toNat = false →
      s.tileWritten x.core x.slot b.toNat = false → (s.engine x.core).resetting = false → (s.engine x.core).queue.length < 16 →
      ∃ t h o, Goes i s g x 0 0 0#6 t h ∧ (h.frag x.fid).pc = x.next ∧ sameData g h ∧ keeps s t ∧
        (t.engine x.core).queue = (s.engine x.core).queue ++ [o] ∧ o.ty = ty.toNat ∧ o.acc = d.toNat ∧ o.ta = a.toNat ∧ o.tb = b.toNat ∧
        o.rows = x.act pk ∧ o.slot = x.slot ∧ o.quant = none ∧ o.consumed = false ∧ o.batch = g.bm.counter + 1#32 ∧
        h.bind d.toNat = g.bind d.toNat ++ [o.batch]) ∧
    (∀ (ty d : BitVec 3) (q : BitVec 6) (a b : BitVec 3) (z : BitVec 2) (k : Quant), let i := Instr.mmaq st pk ty d q a b z
      Issues i s g x 0 0 → mmaBad ty.toNat (g.shape a.toNat) (g.shape b.toNat) = false →
      mmaqCheck s g (wordOf i) (g.shape a.toNat) (g.shape b.toNat) (32 * 2 ^ z.toNat) (x.s q) = .ok k → g.orderHeld false = false →
      s.tileWritten x.core x.slot a.toNat = false → s.tileWritten x.core x.slot b.toNat = false →
      (s.engine x.core).resetting = false → (s.engine x.core).queue.length < 16 →
      ∃ t h o, Goes i s g x 0 0 0#6 t h ∧ (h.frag x.fid).pc = x.next ∧ sameData g h ∧ keeps s t ∧
        (t.engine x.core).queue = (s.engine x.core).queue ++ [o] ∧ o.ty = ty.toNat ∧ o.acc = d.toNat ∧ o.ta = a.toNat ∧ o.tb = b.toNat ∧
        o.rows = x.act pk ∧ o.slot = x.slot ∧ o.quant = some (32 * 2 ^ z.toNat) ∧ o.batch = g.bm.counter + 1#32 ∧
        h.bind d.toNat = g.bind d.toNat ++ [o.batch]) ∧
    (∀ d : BitVec 3, Issues (.accz st pk d) s g x 0 0 → g.bind d.toNat = [] →
      ∃ t h, Completes (.accz st pk d) s g x 0 0 t h ∧ h.v = g.v ∧ (∀ n, n < 8 → n ≠ d.toNat → h.acc n = g.acc n) ∧
        ∀ r n, r < 64 → n < 64 →
          sget (h.acc d.toNat) (64 * r + n) = if (x.act pk).getLsbD r then 0#32 else sget (g.acc d.toNat) (64 * r + n)) ∧
    (∀ (d : BitVec 6) (a : BitVec 3) (b : BitVec 6), Issues (.accrd st pk d a b) s g x 0 0 → g.bind a.toNat = [] →
      ∃ t h, Completes (.accrd st pk d a b) s g x 0 0 t h ∧ blankV (h.bare x.fid) d.toNat = blankV (g.ran (s.counts g) x.fid) d.toNat ∧
        ∀ l : Fin 64, (h.rdV d)[l.val] =
          if (x.act pk).getLsbD l.val then sget (g.acc a.toNat) (64 * l.val + (x.s b).toNat % 64) else (g.rdV d)[l.val]) ∧
    ∀ (d : BitVec 3) (a b : BitVec 6), Issues (.accwr st pk d a b) s g x 0 0 → g.bind d.toNat = [] →
      ∃ t h, Completes (.accwr st pk d a b) s g x 0 0 t h ∧ h.v = g.v ∧ (∀ n, n < 8 → n ≠ d.toNat → h.acc n = g.acc n) ∧
        (∀ r n, r < 64 → n < 64 → ((x.act pk).getLsbD r = false ∨ n ≠ (x.s b).toNat % 64) →
          sget (h.acc d.toNat) (64 * r + n) = sget (g.acc d.toNat) (64 * r + n)) ∧
        (swf (g.acc d.toNat) = true → ∀ r, r < 64 → (x.act pk).getLsbD r = true →
          sget (h.acc d.toNat) (64 * r + (x.s b).toNat % 64) = laneAt (x.v a) r)

/-- R318 to R338, R342, R343: a gate word of an open session, whose operands have their marks, joins the outstanding gate words
of its group that are not done, unless it has nothing to draw, to post or to await itself; its record is still to be drawn, or its
crossings to be posted; `gmask` and `gmaskt` leave the masked shares POSTED,
`gfin` spends the triple, and `gtrunc` writes the truncated shares. The record whose sectors `gtript` is charged, behind those that the older
words have still to draw, is the model's (DESIGN CHOICE, log 42). -/
def Obligations.GateWords : Prop :=
  ∀ (s : State) (g : Group) (x : Ctx), s.gateClosed g = none → g.gates.length < 16 →
    (∀ i op d draws posts awaits tiles n, gateOf x s i = some (op, d, draws, posts, awaits, tiles, n) → Issues i s g x 0 n →
      gateMarks g i → (draws = true → g.orderHeld false = false) → (∀ j ∈ tiles, s.tileHeld x.core x.slot j = false) →
      ∃ t h w, Goes i s g x 0 n 0#6 t h ∧ (h.frag x.fid).pc = x.next ∧ keeps s t ∧
        h.gates = (g.gates ++ [w]).filter (fun w => !w.finished) ∧ w.op = op ∧ w.d = d ∧
        w.drawn = !draws ∧ w.post.length = posts ∧ w.await = awaits ∧ w.pc = x.unit ∧ h.tiles = g.tiles ∧ h.accs = g.accs) ∧
    (∀ (st : BitVec 3) (d a b : BitVec 6), let i := Instr.gmask st d a b 0#2
      Issues i s g x 0 0 → gateMarks g i → (∀ r, r = a ∨ r = b ∨ r = d ∨ r = d + 1#6 → unraced g x.fid r) →
      ∃ t h q, exec i s = .next t ∧ t.group? x.core x.slot = some h ∧ g.vmark d.toNat = .fresh q ∧
        ∀ l : Fin 64, (h.rdV (d + 3#6))[l.val] = (x.v a)[l.val] - (x.v d)[l.val] ∧
          (h.rdV (d + 4#6))[l.val] = (x.v b)[l.val] - (x.v (d + 1#6))[l.val] ∧
          h.vmark (d.toNat + 3) = .posted q ∧ h.vmark (d.toNat + 4) = .posted q) ∧
    (∀ (st : BitVec 3) (d a : BitVec 6) (t : BitVec 2), let i := Instr.gfin st d a t
      Issues i s g x 0 0 → gateMarks g i →
      ∃ u h, Completes i s g x 0 0 u h ∧ h.vmark d.toNat = .none ∧
        (∀ n, n < (if t = 2#2 then 10 else 5) → h.vmark (a.toNat + n) = .none) ∧
        (t = 0#2 → (∀ r, unraced g x.fid r) → ∀ l : Fin 64,
          let y := fun (n : Nat) => (x.v (a + BitVec.ofNat 6 n))[l.val]
          (h.rdV d)[l.val] = y 2 + y 3 * y 1 + y 4 * y 0 + if s.roleOf g = 0 then y 3 * y 4 else 0#32)) ∧
    (∀ (st : BitVec 3) (d a f : BitVec 6), let i := Instr.gtrunc st d a f
      Issues i s g x 0 0 →
      ∃ t h, Completes i s g x 0 0 t h ∧ h.vmark d.toNat = .none ∧ (unraced g x.fid a → ∀ l : Fin 64,
        (h.rdV d)[l.val] = if s.roleOf g = 0 then (x.v a)[l.val] >>> f.toNat else -((-(x.v a)[l.val]) >>> f.toNat))) ∧
    (∀ st d a b : BitVec 3, let i := Instr.gmaskt st d a b
      Issues i s g x 0 0 → gateMarks g i → s.tileHeld x.core x.slot (d.toNat + 3) = false → s.tileHeld x.core x.slot (d.toNat + 4) = false →
      (∀ n ∈ [a.toNat, b.toNat, d.toNat, d.toNat + 1], s.tileWritten x.core x.slot n = false) →
      ∃ t h w q, Goes i s g x 0 0 0#6 t h ∧ (h.frag x.fid).pc = x.next ∧ keeps s t ∧ h.v = g.v ∧ h.accs = g.accs ∧
        h.gates = (g.gates ++ [w]).filter (fun w => !w.finished) ∧ w.op = .gmaskt ∧ w.d = d.toNat ∧ g.tmark d.toNat = .fresh q ∧ w.q = q ∧
        h.tmark (d.toNat + 3) = .posted q ∧ h.tmark (d.toNat + 4) = .posted q ∧ h.tile d.toNat = g.tile d.toNat) ∧
    ∀ st d : BitVec 3, let i := Instr.gopent st d
      Issues i s g x 0 0 → gateMarks g i → s.tileHeld x.core x.slot (d.toNat + 3) = false → s.tileHeld x.core x.slot (d.toNat + 4) = false →
      ∃ t h w, Goes i s g x 0 0 0#6 t h ∧ (h.frag x.fid).pc = x.next ∧ keeps s t ∧ sameData g h ∧
        h.gates = (g.gates ++ [w]).filter (fun w => !w.finished) ∧
        w.op = .gopent ∧ w.d = d.toNat ∧ g.tmark (d.toNat + 3) = .posted w.q

/-- R321, R322: a `gsess` whose block of 64 bytes can be read and passes the checks writes its answer to sD, and the sessions are
those the request leaves, case by case: a request to open waits with 0x100, is answered by the SID of the session that it opens or that has
been opened, by 0x200 when it disagrees with the one that waits, or by 0 when no SID is free; a revocation by the SID or 0x200. It completes
for every block that is aligned, lies on a page inside the package that no tag guards, holds no
poisoned byte and passes the checks, in a group with no access outstanding; a request to open changes no memory. What counts as matched is
the reading of `answered` (DEDUCED, log 46). -/
def Obligations.SessionRequests : Prop :=
  (∀ (st : BitVec 3) (d a : BitVec 6) (s : State) (g : Group) (x : Ctx) (p : Plan) (u : State) (l : LaneAcc) (r : SessReq),
     let i := Instr.gsess st d a
     Issues i s g x 0 0 → g.orderHeld false = false → x.plan s (x.sessSpec i d a) = (p, u) → p.fault = none → p.page = none →
     p.lanes = [l] → l.st = .waiting → l.ext = false → x.behindWrite s (x.sessSpec i d a) = false → x.noEntry s (x.sessSpec i d a) p.lanes = false →
     sessReq g.part (readAt s.mem l.pas) = some r → r.op = 1 →
     ∃ t h v, Goes i s g x 0 0 d t h ∧ (h.frag x.fid).pc = x.next ∧ sameData g h ∧ keeps s t ∧
       (d ≠ 0#6 → (h.frag x.fid).rd d = v) ∧ answered s g.part r v t.sessions) ∧
  ∀ (st : BitVec 3) (d a : BitVec 6) (s u : State) (g : Group) (x : Ctx) (pa e : Nat) (r : SessReq),
    Issues (.gsess st d a) s g x 0 0 → g.reqs = [] → g.drain = none →
    (x.s a).toNat % 64 = 0 → (x.s a).toNat / 2 ^ 55 % 2 ^ 5 = 0 →
    translate s g.part g.site ((x.s a).toNat % 2 ^ 55) = (.ok pa e, u) → natBit e 6 = false → natBit e 4 = false →
    (∀ n, n < 64 → poisoned s (pa + n) = false) → sessReq g.part (readBytes s.mem pa 64) = some r →
    ∃ t h v, exec (.gsess st d a) s = .next t ∧ t.group? x.core x.slot = some h ∧ (h.frag x.fid).pc = x.next ∧ h.icnt = g.icnt + 1 ∧
      h.ibud = g.ibud - (g.frag x.fid).owes (useIn x.hs (.gsess st d a)).charge ∧ h.mbud = g.mbud ∧
      (d ≠ 0#6 → (h.frag x.fid).rd d = v) ∧ answered s g.part r v t.sessions ∧ (r.op = 1 → t.mem = s.mem)

/-- R142, R368, R370, R371, R373, R374, R385: `launch` of a readable record writes 2 to sD when the record is not valid, else pays for the
grant and puts the launch behind those of the device queue with 1 in sD, or gets the grant back with 0 when 64 wait; `emit` and `spawn` send
a readable cutting with 1, to the nursery of its die and into a group of its own on its core, or get its grant back with 0 when there is no
room; each pays once, and waits for the older accesses of its group when they are not performed; `yield` ends its group, once its cutting, if
it names one, has room: the cutting, with its grant limited to the budgets, goes to the nursery, else to a group of its own. A launch counts
each cutting as a job. In a deterministic launch the record or the cutting is staged, and has room. -/
def Obligations.DispatcherWords : Prop :=
  ∀ (st : BitVec 3) (d a b : BitVec 6) (s : State) (g : Group) (x : Ctx) (bs : List Byte) (n : Nat) (u : State) (c : Cutting),
    g.orderHeld false = false → stageRoom x s g [] 1 →
    let o := (g.frag x.fid).owes
    let uid := g.team.uid
    let die := dieOf x.core
    let waits := fun (i : Instr) (units sectors : Nat) => ∃ t h, exec i s = .next t ∧ t.group? x.core x.slot = some h ∧
      h.ibud = g.ibud - o ((useIn x.hs i).charge + units) ∧ h.mbud = g.mbud - o sectors ∧ (h.frag x.fid).paid.isSome = true ∧
      (h.frag x.fid).pc = x.unit ∧ (h.frag x.fid).s = (g.frag x.fid).s ∧ h.icnt = g.icnt ∧ t.parts = s.parts ∧ keeps s t
    ((x.s a).toNat % 8 = 0 → x.readGlobal s (x.s a) 256 = (.ok bs n, u) →
      let i := Instr.launch st d a
      let r := readRecord bs
      let valid := (g.frag x.fid).paid.isSome || s.recordOk g.part bs
      (valid = false → Issues i s g x 0 n →
        ∃ t h, Goes i s g x 0 n d t h ∧ (h.frag x.fid).pc = x.next ∧ sameData g h ∧ keeps s t ∧ t.parts = s.parts ∧
          (d ≠ 0#6 → (h.frag x.fid).rd d = 2#64)) ∧
      (valid = true → g.quiet = false → Issues i s g x r.grant.1 (n + r.grant.2) → waits i r.grant.1 (n + r.grant.2)) ∧
      (valid = true → g.quiet = true → s.isDet g = true → Issues i s g x r.grant.1 (n + r.grant.2) →
        ∃ t h k, Goes i s g x r.grant.1 (n + r.grant.2) d t h ∧ (h.frag x.fid).pc = x.next ∧ sameData g h ∧ keeps s t ∧ t.parts = s.parts ∧
          h.staged = g.staged ++ [.record r k] ∧ k ≤ r.prio ∧ (d ≠ 0#6 → (h.frag x.fid).rd d = 1#64)) ∧
      ∀ p, valid = true → g.quiet = true → s.isDet g = false → s.part? g.part = some p → Issues i s g x r.grant.1 (n + r.grant.2) →
        ∃ t h p', exec i s = .next t ∧ t.group? x.core x.slot = some h ∧ (h.frag x.fid).pc = x.next ∧ sameData g h ∧ keeps s t ∧
          t.part? g.part = some p' ∧
          (64 ≤ p.devQ.length → h.ibud = g.ibud - o ((useIn x.hs i).charge + r.grant.1) + r.grant.1 ∧
            h.mbud = g.mbud - o (n + r.grant.2) + r.grant.2 ∧ p'.devQ = p.devQ ∧ (d ≠ 0#6 → (h.frag x.fid).rd d = 0#64)) ∧
          (p.devQ.length < 64 → h.ibud = g.ibud - o ((useIn x.hs i).charge + r.grant.1) ∧ h.mbud = g.mbud - o (n + r.grant.2) ∧
            (∃ k, p'.devQ = p.devQ ++ [(r, k)] ∧ k ≤ r.prio) ∧ (d ≠ 0#6 → (h.frag x.fid).rd d = 1#64))) ∧
    (∀ (i : Instr) (v : BitVec 6) (e : Option Nat) (spawns room : Bool),
      ((i = .emit st d a ∧ v = a ∧ e = none ∧ spawns = false ∧ room = s.nurseryRoom die uid c) ∨
        (i = .spawn st d a b ∧ v = b ∧ e = some ((x.s a).toNat % 16) ∧ (x.s a).toNat < 16 ∧ spawns = true ∧
          room = (s.recordOf g).elim false fun r => s.spawnRoom x.core r)) →
      x.cuttingWaits (x.s v) = false → x.readCutting s (x.s v) = (.ok bs n, u) → (s.recordOf g).bind (fun r => cuttingOf r bs e) = some c →
      Issues i s g x c.igrant (n + c.mgrant) →
      (g.quiet = false → waits i c.igrant (n + c.mgrant)) ∧
      (g.quiet = true → s.isDet g = true →
        ∃ t h, Goes i s g x c.igrant (n + c.mgrant) d t h ∧ (h.frag x.fid).pc = x.next ∧ sameData g h ∧ keeps s t ∧
          h.staged = g.staged ++ [.cutting c spawns] ∧ counted s t uid ∧ (d ≠ 0#6 → (h.frag x.fid).rd d = 1#64)) ∧
      (g.quiet = true → s.isDet g = false →
        ∃ t h, exec i s = .next t ∧ t.group? x.core x.slot = some h ∧ (h.frag x.fid).pc = x.next ∧ sameData g h ∧
          t.mem = s.mem ∧ t.tags = s.tags ∧
          (room = false → keeps s t ∧ t.bins = s.bins ∧ t.launches = s.launches ∧
            h.ibud = g.ibud - o ((useIn x.hs i).charge + c.igrant) + c.igrant ∧
            h.mbud = g.mbud - o (n + c.mgrant) + c.mgrant ∧ (d ≠ 0#6 → (h.frag x.fid).rd d = 0#64)) ∧
          (room = true → h.ibud = g.ibud - o ((useIn x.hs i).charge + c.igrant) ∧ h.mbud = g.mbud - o (n + c.mgrant) ∧
            (d ≠ 0#6 → (h.frag x.fid).rd d = 1#64) ∧
            (spawns = false → nursed s t die uid c ∧ t.teams = s.teams) ∧
            (spawns = true → spawned s t x.core uid c ∧ t.bins = s.bins)))) ∧
    (x.s a = 0#64 → Issues (.yield st a) s g x 0 0 →
      ∃ t h, exec (.yield st a) s = .next t ∧ t.group? x.core x.slot = some h ∧ h.ending = true ∧ h.liveFrags = [] ∧ h.stack = [] ∧
        h.icnt = g.icnt + 1 ∧ h.ibud = g.ibud - o (useIn x.hs (.yield st a)).charge ∧ sameData g h ∧ keeps s t ∧ t.bins = s.bins ∧
        t.launches = s.launches) ∧
    (x.s a ≠ 0#64 → g.quiet = true → x.cuttingWaits (x.s a) = false → x.readCutting s (x.s a) = (.ok bs n, u) →
      (s.recordOf g).bind (fun r => cuttingOf r bs none) = some c → (s.isDet g = true ∨ s.yieldRoom x.core uid c = true) →
      Issues (.yield st a) s g x 0 n →
      let units := g.ibud - o (useIn x.hs (.yield st a)).charge
      let left := g.mbud - o n
      let c1 : Cutting := { c with igrant := min c.igrant units, mgrant := min c.mgrant left }
      ∃ t h, exec (.yield st a) s = .next t ∧ t.group? x.core x.slot = some h ∧ h.ending = true ∧ h.liveFrags = [] ∧ h.stack = [] ∧
        h.icnt = g.icnt + 1 ∧ t.mem = s.mem ∧ t.tags = s.tags ∧ h.ibud = units - c1.igrant ∧ h.mbud = left - c1.mgrant ∧
        (s.isDet g = true → h.staged = g.staged ++ [.yielded c1] ∧ counted s t uid ∧ t.teams = s.teams) ∧
        (s.isDet g = false → s.nurseryRoom die uid c = true → nursed s t die uid c1 ∧ t.teams = s.teams) ∧
        (s.isDet g = false → s.nurseryRoom die uid c = false → spawned s t x.core uid c1 ∧ t.bins = s.bins))

/-- R409, R411, R431, R432: `tlbdrain` of a good descriptor, with the group's accesses performed and fewer than 16 drains open,
opens one drain and marks the entries it covers; `tlbconf` of an open drain leaves the drain in progress, and writes 0 to sD when no
open drain has the descriptor; `ctxsv` first asks for the save of the named team, and goes on once it is done; `ctxld` continues
a stopped group at a good PC. -/
def Obligations.SystemWords : Prop :=
  ∀ (st : BitVec 3) (d a b : BitVec 6) (s : State) (g : Group) (x : Ctx) (p : Partition), s.part? g.part = some p →
    (Issues (.tlbdrain st a) s g x 0 0 → drainBad (x.s a) = false → g.quiet = true → p.drains.length < 16 →
      ∃ t h p', Goes (.tlbdrain st a) s g x 0 0 0#6 t h ∧ (h.frag x.fid).pc = x.next ∧ sameData g h ∧ keeps s t ∧
        t.part? g.part = some p' ∧ p'.drains = p.drains ++ [x.s a] ∧
        t.tlb = s.tlb.map fun e => if e.part = g.part ∧ e.drained (x.s a) = true then { e with draining := true } else e) ∧
    (Issues (.tlbconf st d a) s g x 0 0 → drainBad (x.s a) = false → g.drain = none →
      ∃ t h, Retires (.tlbconf st d a) s g x 0 0 t h ∧ (h.frag x.fid).pc = x.next ∧ sameData g h ∧
        if p.drains.contains (x.s a) then h.drain = some (x.s a, d, x.fid) else d ≠ 0#6 → (h.frag x.fid).rd d = 0#64) ∧
    (∀ k, Issues (.ctxsv st a b) s g x 0 0 → x.saveStage s (wordOf (.ctxsv st a b)) (x.s a) (x.s b) = .ask k →
      ∃ t h, exec (.ctxsv st a b) s = .next t ∧ t.group? x.core x.slot = some h ∧ h.saves = g.saves ++ [⟨x.fid, x.unit, x.s a, x.s b, k, none⟩] ∧
        (h.frag x.fid).pc = x.unit ∧ h.ibud = g.ibud ∧ ∀ m l, s.team? k = some m → s.launch? k.uid = some l → m.saving = none →
          m.shape ≤ 1 → ∃ m', t.team? k = some m' ∧ m'.saving = some (x.s b)) ∧
    (Issues (.ctxsv st a b) s g x 0 0 → x.saveStage s (wordOf (.ctxsv st a b)) (x.s a) (x.s b) = .done →
      ∃ t h, Completes (.ctxsv st a b) s g x 0 0 t h ∧ sameData g h ∧
        h.saves = g.saves.filter fun r => !r.of x.fid x.unit (x.s a) (x.s b)) ∧
    (∀ y f, Issues (.ctxld st a b) s g x 0 0 → (x.s a).toNat / 2 ^ 62 = 1 → s.handleGroup g.part (x.s a) = some y →
      y.stopped = some f → ¬(y.core = x.core ∧ y.slot = x.slot) → goodTarget (x.s b) →
      ∃ t h z, Goes (.ctxld st a b) s g x 0 0 0#6 t h ∧ (h.frag x.fid).pc = x.next ∧ sameData g h ∧ t.mem = s.mem ∧ t.tags = s.tags ∧
        ((∀ m, s.team? y.team = some m → m.saveBad = false) → t.teams = s.teams) ∧ t.group? y.core y.slot = some z ∧ z.stopped = none ∧ (z.frag f).pc = x.s b ∧ sameData y z)

/-- R99, R137, R365, R378, R408, R415: a slice timer that has run out clamps a group that a waiting team displaces; a clamp lands
the group at its next unit, or waits for the end of its landing, and comes after a deferred trap that is due; the deadline pre-empts it
hard, a stopped group too (DEDUCED, log 48); ageing raises its class; a debugger halt stops it, and its end lets its timers go on; a quantum
ends with its last word. -/
def Obligations.Preemptions : Prop :=
  ∀ (core slot : Nat) (s : State) (g : Group), live s core slot g →
    (g.sliceAt ≠ 0 → g.sliceAt ≤ s.clock → g.halted = false → g.stopped = none → g.ending = false → s.frozen.contains core = false →
      s.sliceClamps g = true → s.isDet g = false →
      ∃ t h, exec (.sliceTimerExpiry core slot) s = .next t ∧ onlyGroup s t core slot h ∧ h.clampPend = true ∧
        h.clampAt = g.clampAt.or (some s.clock) ∧
        ∀ p, s.part? g.part = some p → h.sliceAt = if p.slice = 0 then 0 else s.clock + p.slice) ∧
    (g.clampPend = true → g.ending = false → s.isDet g = false → s.standing g = false → s.boundary g = true → g.deferDue = false →
      (g.landing.inres = true → ∃ t h, exec (.clamp core slot) s = .next t ∧ onlyGroup s t core slot h ∧
        h = { g with clampPend := false, landing := { g.landing with clampp := true } }) ∧
      ∀ f, g.landing.inres = false → g.landing.land ≠ 0#64 → g.nextFrag false = some f →
        ∃ t h, exec (.clamp core slot) s = .next t ∧ t.group? core slot = some h ∧ h.clampPend = false ∧ h.ibud = g.landing.ires ∧
          h.mbud = g.landing.mres ∧ h.landing.inres = true ∧ h.landing.cause = 3#2 ∧ h.landing.lret = (g.frag f).pc ∧
          (h.frag f).pc = g.landing.land ∧ (h.frag f).state = .ready ∧ t.mem = s.mem) ∧
    (∀ at' m l, g.clampAt = some at' → at' + 65536 ≤ s.clock → g.halted = false → s.frozen.contains core = false →
      s.team? g.team = some m → m.saving = none ∨ m.saveBad = true → s.launch? g.team.uid = some l → l.super = false →
      (s.isDet g = true → g.atBoundary = true) → s.deferNow g = false →
      ∃ t h m', exec (.preemptionDeadline core slot) s = .next t ∧ t.group? core slot = some h ∧ h.saving = true ∧ h.clampAt = none ∧
        h.clampPend = false ∧ h.landing.cause = 3#2 ∧ h.landing.inres = g.landing.inres ∧ h.ibud = g.ibud ∧ h.mbud = g.mbud ∧
        t.team? g.team = some m' ∧ m'.saving.isSome = true ∧ t.mem = s.mem) ∧
    (s.isReady g = true → g.readyAt + 4096 * (g.boost + 1) < s.clock → (s.launch? g.team.uid).elim 0 (·.cls) + g.boost < 3 →
      ∃ t, exec (.issueAgeingPromotion core slot) s = .next t ∧ onlyGroup s t core slot { g with boost := g.boost + 1 }) ∧
    (g.halted = false → s.boundary g = true → s.deferNow g = false →
      ∃ t, exec (.debuggerHalt core slot) s = .next t ∧ onlyGroup s t core slot { g with halted := true, haltAt := s.clock }) ∧
    (g.halted = true → ∃ t h, exec (.debuggerHaltEnd core slot) s = .next t ∧ onlyGroup s t core slot h ∧ h.halted = false ∧
      h.clampAt = g.clampAt.map (· + (s.clock - g.haltAt)) ∧
      (g.sliceAt ≠ 0 → g.stopped = none → h.sliceAt = g.sliceAt + (s.clock - g.haltAt))) ∧
    (s.isDet g = true → g.aside = none → s.quantum g ≤ g.qcnt → s.boundary g = true →
      ∃ t, exec (.quantumEnd core slot) s = .next t ∧ onlyGroup s t core slot { g with qdone := true })

/-- R115, R151, R152, R158, R159, R173, R253, R374, R400, R403, R404: a deferred trap that is due is delivered to the next fragment,
in-group where its cause allows it, and no other before a word has issued; the device sees a HEAD in range; a timer that has run out makes
its slot pending; a pending slot goes to the fragment that waits longest; a sealed batch without work, whose group's older accesses are
performed, completes, oldest first; a group that has ended and is drained leaves its slot. That no second deferred trap is delivered before a
word has issued is the model's (DEDUCED, log 67), and so is which accesses a batch waits for, those issued before its seal (DEDUCED, log
69). -/
def Obligations.GroupEvents : Prop :=
  ∀ (core slot : Nat) (s : State) (g : Group), live s core slot g →
    (∀ d rest f, g.deferred = d :: rest → s.deferNow g = true → g.nextFrag (s.isDet g) = some f →
      g.takesInGroup (deferredArgs d (g.frag f).pc) = true →
      ∃ t h, exec (.deferredTrapDelivery core slot) s = .next t ∧ trapsOnly s t core slot d.cause h ∧ h.deferred = rest ∧
        (h.frag f).pc = g.trap.tvec ∧ h.trap.cause = BitVec.ofNat 8 d.cause.code ∧ h.trap.defer = true ∧ h.trap.taddr = d.addr ∧
        h.stack = g.stack ++ [⟨true, f, BitVec.ofNat 8 d.cause.code, (g.frag f).pc, (g.frag f).mask, false⟩] ∧ h.deferHeld = true) ∧
    (∀ e b, g.slotAt e = some b → srcKind b.desc = 5 → b.desc.toNat % 2 ^ 48 ≠ 0 → b.timerAt ≤ (if s.isDet g then g.retired else s.clock) →
      (b.pers = true ∨ b.expiries = 0) →
      ∃ t h c, exec (.eventTimerExpiry core slot e) s = .next t ∧ onlyGroup s t core slot h ∧ h.slotAt e = some c ∧ c.pend = true ∧
        c.expiries = b.expiries + 1 ∧ c.timerAt = (if b.pers then b.timerAt + b.desc.toNat % 2 ^ 48 else b.timerAt) ∧
        c.desc = b.desc ∧ c.handler = b.handler ∧ c.pers = b.pers) ∧
    (∀ n b f, s.isDet g = false → s.standing g = false → s.boundary g = true → g.landing.inres = false → g.traps = 0 → g.longestParked = some f →
      n < 8 → g.wanted.getLsbD n = true → (∀ m, m < n → g.wanted.getLsbD m = false) → g.slotAt n = some b →
      ∃ t h, exec (.wanyDelivery core slot) s = .next t ∧ t.group? core slot = some h ∧ (h.frag f).pc = b.handler ∧
        (h.frag f).state = (if (g.frag f).heldLand ∨ (g.frag f).heldTrap.isSome then .held else .ready) ∧ s.clock + 2 ≤ (h.frag f).nextIssue ∧
        h.evinfo = BitVec.ofNat 64 (srcKind b.desc * 2 ^ 60 + n * 2 ^ 48 + s.eventValue g b) ∧ (h.slotAt n).isSome = b.pers ∧ t.mem = s.mem) ∧
    (∀ c b rest, (g.batch (.ofCode c)).seals = b :: rest → s.isDet g = false → s.batchHeld g (.ofCode c) b = false →
      ∃ t h, exec (.batchComplete core slot c) s = .next t ∧ t.group? core slot = some h ∧ (h.batch (.ofCode c)).seals = rest ∧
        (h.batch (.ofCode c)).latest = b.num ∧ t.mem = s.mem ∧ ∀ m, s.team? g.team = some m → ∃ m', t.team? g.team = some m' ∧
          m'.window = match b.word with
            | some (o, v) => writeBytes m.window o (leBytes 4 (if b.short then v ||| 0x80000000#32 else v).toNat)
            | none => m.window) ∧
    (s.workDone g = true → s.isDet g = false → g.parkCut = none → g.halted = false → s.frozen.contains core = false → g.cursor = none →
      (∀ p, s.pair? g = some p → p.notice (s.roleOf g) = []) → (∀ m, s.team? g.team = some m → m.saving = none) →
      ∃ t, exec (.groupEnd core slot) s = .next t ∧ t.group? core slot = none ∧ t.mem = s.mem ∧
        ∀ l, s.launch? g.team.uid = some l → ∃ l', t.launch? g.team.uid = some l' ∧ l'.jobs = l.jobs - g.cuttings) ∧
    (∀ n p bs u, s.part? n = some p → p.prep = false → devRead s n 0 (p.tqcb + 24#64) 4 = (.ok bs, u) →
      ∃ t p', exec (.trapQueueHeadWrite n) s = .next t ∧ t.part? n = some p' ∧
        p'.tqHead = let h := BitVec.ofNat 32 (leValue bs)
          if (p.tqTail - h).toNat ≤ (p.tqTail - p.tqHead).toNat then h else p.tqHead)

/-- R223, R226, R230, R232, R233, R237, R239, R242, R246, R251: a load that nothing older holds reads memory and writes its destination,
lanes that are performed with what they hold; a lane that something older holds, or that a response does not bring, stays as it is, and the
other lanes do not wait for it; an atomic's old values are written as they were read; the lanes of a store whose tags failed leave it as one deferred TAG with the failing
address of the lowest failing lane (DEDUCED, log 26), and a store that is done leaves the core; an entry whose PAGE record is resolved is translated again; a peer word reads or writes the window of its team. Which lanes and bytes one response brings is an operand of its event, the model's
(DESIGN CHOICE, log 64). -/
def Obligations.MemoryResponses : Prop :=
  ∀ (core slot n : Nat) (s : State) (g : Group) (r : Request), live s core slot g → g.req? n = some r →
    (r.kind = .load → readable r → (∀ l ∈ r.lanes, l.st = .waiting → s.blocks g r l = false) → s.isDet g = false →
      ∃ t h, exec (.loadResponse core slot ⟨n, BitVec.allOnes 64, 255#8⟩) s = .next t ∧ onlyGroup s t core slot h ∧
        h.reqs = g.reqs.filter (fun q => q.id != n) ∧
        landed g h r (fun l => if l.st = .performed then l.res else BitVec.ofNat 64 (leValue (readAt s.mem l.pas)))) ∧
    (∀ lanes bytes, r.kind = .load →
      let stays := fun (l : LaneAcc) => l.st = .waiting ∧ (lanes.getLsbD l.lane = false ∨ s.blocks g r l = true)
      ∃ t h, exec (.loadResponse core slot ⟨n, lanes, bytes⟩) s = .next t ∧ onlyGroup s t core slot h ∧
        ((∃ l ∈ r.lanes, stays l) → ∃ r', h.req? n = some r' ∧ (∀ l ∈ r.lanes, stays l → l ∈ r'.lanes) ∧
          ∀ l ∈ r.lanes, l.st = .waiting → ¬stays l → l.ea.toNat % r.size = 0 → l.new = 0#64 →
            ∃ l' ∈ r'.lanes, l'.lane = l.lane ∧ l'.st = .performed)) ∧
    (∀ op, r.kind = .atomic op → (∀ l ∈ r.lanes, l.st = .performed ∧ l.lane < 64) → (r.lanes.map (·.lane)).Nodup →
      ∃ t h, exec (.atomicResponse core slot n) s = .next t ∧ onlyGroup s t core slot h ∧ h.reqs = g.reqs.filter (fun q => q.id != n) ∧
        landed g h r (·.res)) ∧
    (r.kind.stages = true → (r.frag = 8 → ∀ l ∈ r.lanes, l.st ≠ .failed .tag) → (∀ l ∈ r.lanes, ∀ c, l.st = .failed c → c = .tag) →
      let bad := r.lanes.filter fun l => l.st == .failed .tag
      ∃ t h, exec (.storeAck core slot n) s = .next t ∧ onlyGroup s t core slot h ∧
        (r.performed = true → h.reqs = g.reqs.filter (fun q => q.id != n)) ∧
        (r.performed = false → h.req? n = some { r with lanes := r.lanes.filter fun l => !(l.st == .failed .tag) }) ∧
        h.deferred = match bad with
          | [] => g.deferred
          | l :: _ => g.deferred ++ [⟨.tag, l.new, if r.scalar then none else some (maskOf (bad.map (·.lane))), r.pc, false⟩]) ∧
    (∀ l log pas tpas ext u, r.kind.global = true → r.logged = log → g.reqs = [r] → r.lanes = [l] → l.st = .faulted →
      (∀ k, r.ticket = some k → s.resolved g.part k = true) → laneCheck s g.part g.site r.kind.acc false l.ea r.size = (.ok pas tpas ext, u) →
      ∃ t h r', exec (if log then .operandLogReplay core slot n else .hamperReplay core slot n) s = .next t ∧ t.group? core slot = some h ∧
        h.reqs = [r'] ∧ r'.ticket = none ∧ r'.lanes = [{ l with pas := pas, tpas := tpas, ext := ext, st := .waiting }] ∧ t.mem = s.mem) ∧
    (∀ pos p, (r.kind = .peerLoad pos ∨ r.kind = .peerStore pos) → r.performed = false → g.peerOlder r pos = false →
      s.peerTeam g pos = some p → s.peerHeld p = false → s.team? p.key = some p →
      ∃ t h r', exec (.peerAccess core slot n) s = .next t ∧ t.group? core slot = some h ∧ h.req? n = some r' ∧ t.mem = s.mem ∧
        (∀ l ∈ r'.lanes, l.st = .performed) ∧ r'.lanes.length = r.lanes.length ∧
        (r.kind = .peerLoad pos → t.teams = s.teams ∧
          r'.lanes.map (·.res) = r.lanes.map fun l => BitVec.ofNat 64 (leValue (readAt p.window l.pas))) ∧
        (r.kind = .peerStore pos → ∃ p', t.team? p.key = some p' ∧
          p'.window = r.lanes.foldl (fun w l => writeAt w l.pas (leBytes 4 l.data.toNat)) p.window)) ∧
    (∀ pos, (r.kind = .peerLoad pos ∨ r.kind = .peerStore pos) → r.performed = false → g.peerOlder r pos = false → s.peerTeam g pos = none →
      r.lanes ≠ [] →
      ∃ t h, exec (.peerAccess core slot n) s = .next t ∧ onlyGroup s t core slot h ∧ h.v = g.v ∧ t.teams = s.teams ∧
        ∃ d ∈ h.deferred, d.cause = .peergone ∧ d.pc = r.pc)

/-- R231, R242, R243, R247, R290: a merge step changes no byte off its line and no tag, and writes the bytes of a store that waits there
alone, a copy's piece as one store; an atomic at its slice writes its new value over the old one, which it keeps; a `tagst` sets the tag of its
granule. -/
def Obligations.SliceSteps : Prop :=
  ∀ (s : State), s.mgmt.devState ≠ .frozen →
    (∀ line picks, ∃ t, exec (.sliceMergeStep line picks) s = .next t ∧ t.tags = s.tags ∧
      ∀ a, a / 64 ≠ line → sget t.mem a = sget s.mem a) ∧
    (∀ line core slot g r l, s.mergePicks line [r.id] = [(core, slot, r)] → s.group? core slot = some g → g.req? r.id = some r →
      r.lanes = [l] → l.st = .waiting → l.res = 0#64 → l.tpas = [] → (∀ a ∈ l.pas, outside a = false) → r.size ≤ 8 → l.pas.length = r.size →
      (∀ a ∈ l.pas, a / 64 = line) →
      ∃ t h r', exec (.sliceMergeStep line [r.id]) s = .next t ∧ t.mem = writeAt s.mem l.pas (leBytes r.size l.data.toNat) ∧
        t.group? core slot = some h ∧ h.req? r.id = some r' ∧ r'.performed = true) ∧
    (∀ line core slot g r, s.mergePicks line [r.id] = [(core, slot, r)] → s.group? core slot = some g → g.req? r.id = some r → r.kind = .piece →
      r.size = 1 → (∀ l ∈ r.lanes, l.st = .waiting ∧ l.lane = 64 ∧ l.res = 0#64 ∧ l.tpas = [] ∧ ∃ a, l.pas = [a] ∧ a / 64 = line ∧ outside a = false) →
      ∃ t h r', exec (.sliceMergeStep line [r.id]) s = .next t ∧
        t.mem = ssetAll s.mem (r.lanes.flatMap fun l => l.pas.map fun a => (a, l.data.setWidth 8)) ∧
        t.group? core slot = some h ∧ h.req? r.id = some r' ∧ r'.performed = true) ∧
    (∀ n line g r op l, s.req? n = some (g, r) → s.group? g.core g.slot = some g → r.kind.op = some op → r.lanes = [l] → l.st = .waiting →
      l.res = 0#64 → l.pas.headD 0 / 64 = line → s.blocks g r l = false → l.tpas = [] →
      let old := leValue (readAt s.mem l.pas)
      let low := fun (v : Word) => v.toNat % 2 ^ (8 * r.size)
      ∃ t h r', exec (.sliceAtomic n line) s = .next t ∧ t.tags = s.tags ∧ t.group? g.core g.slot = some h ∧ h.req? n = some r' ∧
        t.mem = writeAt s.mem l.pas (leBytes r.size (atomicNew op r.size old (low l.data) (low l.new))) ∧
        r'.lanes = [{ l with st := .performed, res := BitVec.ofNat 64 old }]) ∧
    (∀ n g r l, s.req? n = some (g, r) → s.group? g.core g.slot = some g → r.kind = .tagst → r.lanes = [l] → l.st = .waiting →
      s.blocks g r l = false →
      ∃ t h r', exec (.sliceTagst n) s = .next t ∧ t.mem = s.mem ∧ t.tags = sset s.tags (l.pas.headD 0 / 32) (l.data.setWidth 4) ∧
        t.group? g.core g.slot = some h ∧ h.req? n = some r' ∧ r'.performed = true)

/-- R295, R300, R303, R309, R310, R315: the first operation of an engine starts, consumes its tiles as they stand, and completes: its
accumulator takes the result, in the active rows below M only, for the integer types the exact sum, saturated in .i8 and .i4 and wrapped in
.z32; an engine whose operation overruns, or that meets an error, loses its
queue and its groups' accumulators, and they get MXRESET; a reset ends. -/
def Obligations.EngineEvents : Prop :=
  ∀ (core : Nat) (s : State), s.mgmt.devState ≠ .frozen →
    (∀ q rest, (s.engine core).queue = q :: rest →
      (q.started = none → ∃ t, exec (.matrixOpStart core) s = .next t ∧ t.groups = s.groups ∧
        (t.engine core).queue = { q with started := some s.clock } :: rest) ∧
      (∀ g, q.consumed = false → q.started.isSome = true → s.group? core q.slot = some g →
        ∃ t, exec (.matrixOperandsConsumed core) s = .next t ∧ t.groups = s.groups ∧
          (t.engine core).queue = { q with consumed := true, dataA := g.tile q.ta, dataB := g.tile q.tb } :: rest) ∧
      (∀ g, q.consumed = true → s.group? core q.slot = some g → q.shapeB.rows ≤ 64 →
        ∃ t h, exec (.matrixOpComplete core) s = .next t ∧ t.group? core q.slot = some h ∧ (t.engine core).queue = rest ∧
          h.acc q.acc = q.apply (g.acc q.acc) ∧ (∀ n, n < 8 → n ≠ q.acc % 8 → h.acc n = g.acc n) ∧
          (∀ r n, r < 64 → q.rows.getLsbD r = true → r < q.shapeA.rows → n < q.shapeB.rows → q.quant = none → swf (g.acc q.acc) = true →
            let old := sget (g.acc q.acc) (64 * r + n)
            let ks := List.range q.shapeA.cols
            (q.ty = 5 → sget (h.acc q.acc) (64 * r + n) =
              old + BitVec.ofNat 32 (ks.map fun k => tileBits q.dataA q.shapeA r k * tileBits q.dataB q.shapeB n k).sum) ∧
            (q.ty = 2 ∨ q.ty = 3 → sget (h.acc q.acc) (64 * r + n) =
              i32 true (old.toInt + (ks.map fun k => tileSigned q.dataA q.shapeA r k * tileSigned q.dataB q.shapeB n k).sum))) ∧
          ∀ r n, r < 64 → n < 64 → (q.rows.getLsbD r = false ∨ q.shapeA.rows ≤ r ∨ q.shapeB.rows ≤ n) →
            sget (h.acc q.acc) (64 * r + n) = sget (g.acc q.acc) (64 * r + n)) ∧
      ∀ g (late : Bool), s.group? core q.slot = some g →
        (late = true → ∃ k, q.started = some k ∧ k + 65536 ≤ s.clock) →
        ∃ t h, exec (if late then .matrixWatchdog core else .matrixEngineError core) s = .next t ∧ t.group? core q.slot = some h ∧
          (t.engine core).queue = [] ∧ (t.engine core).resetting = true ∧ (∀ n, h.acc n = [] ∧ h.bind n = []) ∧
          ∃ d ∈ h.deferred, d.cause = .mxreset ∧ d.addr = if late then 1#64 else 2#64) ∧
    ((s.engine core).resetting = true →
      ∃ t, exec (.matrixResetEnd core) s = .next t ∧ t.groups = s.groups ∧ (t.engine core).resetting = false ∧
        (t.engine core).queue = (s.engine core).queue)

/-- R328, R330 to R333, R342, R344: a draw takes the next record of the group's stream into the registers of its word, FRESH; an
accepted crossing is on its way with its number; one that arrives waits in the buffer, or is what a `greveal` adds to its own
share; an abort, detected or told, ends the gate words and the marks of its side, and its group stops, at once or once its stream has moved to
the larger NEXTSEQ of the two sides, which the notice of one detected names. -/
def Obligations.GateEvents : Prop :=
  ∀ (core slot : Nat) (s : State) (g : Group) (p : Pair), live s core slot g → s.pair? g = some p →
    let role := s.roleOf g
    (∀ w ty base len seq off hd body u, p.notice role = [] → p.bad role = false → s.writingBack g = false → g.skip = none →
      g.gates.find? (fun w => !w.drawn) = some w → w.ticket = none → w.op = .gtrip ty → ty < 2 → g.cursor = some (base, len, seq, off) →
      s.gateRead g w.id (base + off) 64 = (.ok hd, u) → off.toNat + 832 ≤ len.toNat → headerSeq hd = seq → headerKind hd = ty + 1 →
      headerReserved hd = false → (u.gateRead g w.id (base + off + 64#64) 768).1 = .ok body →
      ∃ t h, exec (.gateDrawPerformed core slot) s = .next t ∧ t.group? core slot = some h ∧ t.mem = s.mem ∧
        h.cursor = some (base, len, seq + 1#64, off + 832#64) ∧ h.gates = g.gates.filter (fun v => v.id != w.id) ∧
        (∀ n, n < 3 → h.vmark (w.d + n) = .fresh seq ∧ h.rdV (BitVec.ofNat 6 (w.d + n)) = lanesFrom body (256 * n)) ∧
        ∀ n, n < 2 → h.vmark (w.d + 3 + n) = .slot seq ∧ h.rdV (BitVec.ofNat 6 (w.d + 3 + n)) = Vector.replicate 64 0#32) ∧
    (∀ w n data rest, g.gates.find? GateWord.posts = some w → w.post = (n, data) :: rest → g.injArm = false →
      ∃ t h p', exec (.gateCrossingAccept core slot) s = .next t ∧ t.group? core slot = some h ∧ t.mem = s.mem ∧ t.pair? h = some p' ∧
        p'.sent role = p.sent role ++ [⟨w.id, w.q, n, p.aborts role, data⟩] ∧ p'.sent (1 - role) = p.sent (1 - role) ∧
        h.gates = (g.setGate { w with post := rest, flying := w.flying + 1 }).gates) ∧
    (∀ c rest, p.sent (1 - role) = c :: rest → c.aborts = p.aborts role → (p.buf role).length < 32 →
      ((∀ w ∈ g.gates, w.await = 0) → ∃ t h p', exec (.gateCrossingArrive core slot) s = .next t ∧ t.group? core slot = some h ∧
        t.pair? h = some p' ∧ p'.buf role = p.buf role ++ [c] ∧ p'.sent (1 - role) = rest ∧ t.mem = s.mem) ∧
      ∀ w, p.buf role = [] → g.gates.find? (fun w => w.await != 0) = some w → w.op = .greveal → w.drawn = true → w.got = [] →
        c.q = w.q → c.index = 0 → w.await = 1 →
        ∃ t h p', exec (.gateCrossingArrive core slot) s = .next t ∧ t.group? core slot = some h ∧ t.pair? h = some p' ∧
          p'.buf role = [] ∧ (∀ l : Fin 64, (h.rdV (BitVec.ofNat 6 w.d))[l.val] = w.x[l.val] + c.data[l.val]) ∧ h.vmark w.d = .none) ∧
    (∀ (notice : Bool) larger rest, (if notice then p.notice role = larger :: rest else larger = s.largerSeq g) →
      ∃ t h p', exec (if notice then .gateAbortNotice core slot else .gatePairAbort core slot) s = .next t ∧
        t.group? core slot = some h ∧ t.pair? h = some p' ∧ p'.aborts role = p.aborts role + 1 ∧ p'.buf role = [] ∧
        (if notice then p'.notice role = rest else (s.peerAny g).isSome = true → p'.notice (1 - role) = p.notice (1 - role) ++ [larger]) ∧
        h.gates = [] ∧ (∀ n, h.vmark n = .none ∧ h.tmark n = .none) ∧
        ((∃ d ∈ h.deferred, d.cause = .gateAbort) ∨ ∃ k, h.skip = some k ∧ k.stops ≠ [] ∧ larger.toNat ≤ k.target.toNat))

/-- R352, R353, R368: a write of QTAIL or QCTL, with no earlier write of the function through the same link waiting (R453), changes the queue's register as R352 says, and a 1 to ERR clears it; the record at
HEAD of an enabled queue is accepted as a launch when it is valid, and stops the queue with code 1 when it is not; the device
queue gives its oldest record. The device queue is queue 64 of its event (log 51). -/
def Obligations.LaunchQueues : Prop :=
  ∀ (link : Fin 2) (part n : Nat) (v : Word) (s : State) (p : Partition), s.mgmt.devState ≠ .frozen → s.part? part = some p →
    (n < 64 → s.hostClear ⟨link, part⟩ = true → ∃ t p', exec (.qtailWrite ⟨link, part⟩ n v) s = .next t ∧ t.part? part = some p' ∧
      t.launches = (s.launches.map fun l => { l with look := true }) ∧
      p'.queueAt n = { p.queueAt n with tail := v.setWidth 32 }) ∧
    (n < 64 → s.hostClear ⟨link, part⟩ = true → ∃ t p' q, exec (.qctlEnWrite ⟨link, part⟩ n v) s = .next t ∧ t.part? part = some p' ∧ t.launches = s.launches ∧ p'.queueAt n = q ∧
      q.en = v.getLsbD 31 ∧ q.err = ((p.queueAt n).err && !v.getLsbD 30) ∧ q.head = (p.queueAt n).head ∧ q.tail = (p.queueAt n).tail ∧
      q.log2n = if (p.queueAt n).en = false ∧ v.toNat % 32 ≤ 16 then v.toNat % 32 else (p.queueAt n).log2n) ∧
    (n < 64 → s.hostClear ⟨link, part⟩ = true → ∃ t p', exec (.qctlErrClear ⟨link, part⟩ n) s = .next t ∧ t.part? part = some p' ∧ t.launches = s.launches ∧
      p'.queueAt n = { p.queueAt n with err := false }) ∧
    (∀ bs u, let q := p.queueAt n
      p.halted = false → n < 64 → q.en = true → q.err = false → q.head ≠ q.tail → q.log2n ≠ 0 → (q.tail - q.head).toNat ≤ 2 ^ q.log2n →
      devRead s part (s.homeDie p) (q.qbase + BitVec.ofNat 64 (256 * (q.head.toNat % 2 ^ q.log2n))) 256 = (.ok bs, u) →
      (s.recordOk part bs = true → s.sessionTaken part (readRecord bs) = false →
        ∃ t p' l, exec (.launchRecordAccept part n) s = .next t ∧ t.part? part = some p' ∧ (p'.queueAt n).head = q.head + 1#32 ∧
          t.launches = s.launches ++ [l] ∧ l.record = readRecord bs ∧ l.part = part ∧ l.uid = s.nextUid ∧ l.queue = some n ∧
          l.started = false ∧ l.done = false ∧ l.seed = p.seed ∧ l.jobs = l.record.teams * l.record.groups) ∧
      (s.recordOk part bs = false →
        ∃ t p', exec (.launchRecordAccept part n) s = .next t ∧ t.part? part = some p' ∧ t.launches = s.launches ∧
          (p'.queueAt n).err = true ∧ (p'.queueAt n).ecode = 1#8 ∧ (p'.queueAt n).head = q.head)) ∧
    ∀ r c rest, p.halted = false → p.devQ = (r, c) :: rest → s.sessionTaken part r = false →
      ∃ t p' l, exec (.launchRecordAccept part 64) s = .next t ∧ t.part? part = some p' ∧ p'.devQ = rest ∧
        t.launches = s.launches ++ [l] ∧ l.record = r ∧ l.cls = c ∧ l.queue = none ∧ l.started = false

/-- R354, R358, R362, R363, R371, R375: a launch without wait tokens starts, and its grid teams wait for room; the first team in rank
that has a place starts there with its groups; a team that has waited long enough keeps its place; an idle bin forms a group; a
quiet launch is sampled, and is complete at the second sample. -/
def Obligations.LaunchProgress : Prop :=
  ∀ (uid : Nat) (s : State) (l : Launch), s.mgmt.devState ≠ .frozen → s.launch? uid = some l →
    (l.started = false → l.done = false → (∀ p, s.part? l.part = some p → p.halted = false) → (s.part? l.part).isSome = true →
      s.earlierWaits l = false → l.tokenRec = none → l.look = true → l.record.waits = [] →
      ∃ t l', exec (.launchStart uid) s = .next t ∧ t.launch? uid = some l' ∧ l'.started = true ∧ l'.record = l.record ∧
        l'.waiting.map (·.key) = (List.range l.record.teams).map fun i => ⟨uid, i, false⟩) ∧
    (∀ part p w rest core, s.part? part = some p → p.halted = false → s.waitingOf part = (l, w) :: rest →
      (w.key.origin = false ∨ l.commits = false) → l.unitOf w = [w] → l.shapeFor w ≤ 1 → w.image = none → s.choose p l [w] = some core →
      ∃ t m, exec (.teamPlacement part) s = .next t ∧ t.teams = s.teams ++ [m] ∧ m.key = w.key ∧ m.core = core ∧ m.part = l.part ∧
        m.window = [] ∧ m.scratch = l.record.scratch ∧
        t.groups.length = s.groups.length + (if w.key.origin then 1 else l.record.groups) ∧ t.mem = s.mem) ∧
    (∀ k (o : Bool), ∃ t l', exec (.placementWaitLimit uid k o) s = .next t ∧ t.launch? uid = some l' ∧
      l'.waiting = l.waiting.map fun w =>
        if w.key = ⟨uid, k, o⟩ ∧ w.since + 1048576 ≤ s.clock then { w with blocking := true } else w) ∧
    (∀ die ent b, s.bins.find? (fun b => b.die == die && b.uid == uid && b.entry == ent) = some b → b.lastAt + 2000 ≤ s.clock →
      l.record.det = false →
      ∃ t l' w, exec (.nurseryIdleFlush die uid ent) s = .next t ∧ t.launch? uid = some l' ∧ l'.waiting = l.waiting ++ [w] ∧
        w.key = ⟨uid, l.serial, true⟩ ∧ w.lanes = b.cuts ∧ w.die = some die ∧ l'.serial = l.serial + 1 ∧
        t.bins = s.bins.filter fun x => !(x.die == die && x.uid == uid && x.entry == ent)) ∧
    (l.started = true → l.done = false → (∃ p, s.part? l.part = some p ∧ p.halted = false) → (∀ g ∈ s.groups, g.team.uid ≠ uid) →
      l.waiting = [] → l.sent = l.received → l.commits = false →
      (l.sample = none → ∃ t l', exec (.quiescenceSample uid) s = .next t ∧ t.launch? uid = some l' ∧
        l'.sample = some (s.fclock, l.sent, l.received) ∧ l'.done = false) ∧
      ∀ k, l.sample = some (k, l.sent, l.received) → k + 64 ≤ s.fclock → l.jobs = 0 → l.record.signal = none →
        ∃ t l', exec (.quiescenceSample uid) s = .next t ∧ t.launch? uid = some l' ∧ l'.done = true ∧ t.mem = s.mem)

/-- R162, R377, R379, R380, R382, R385, R393: in the commit of a round, a group with nothing staged, no commit-point word and no sealed batch has
its turn at once, and an `mpost` posts its token at its group's turn; once every group has had its turn, the next round starts with a new quantum for each, and a group that has ended
leaves its slot then, when its work is done. A commit goes on at once when every group of the launch has ended its quantum, and none
is stopped, halted, on a frozen core, about to be saved or saved, none waits for room, and no access or copy is open: the turn of the
first group in key order that has not had it, or, when every group has had its turn and none has ended, the next round. That one event of
the commit is one group's turn, or the step to the next round, is the model's (DESIGN CHOICE, log 62). -/
def Obligations.Commits : Prop :=
  (∀ (uid : Nat) (s : State) (l : Launch), s.mgmt.devState ≠ .frozen → s.launch? uid = some l → l.record.det = true →
     l.started = true → l.done = false → (s.commitOrder uid ≠ [] ∨ l.commits = true) → s.roundOver l (s.commitOrder uid) = true →
     let next := BitVec.ofNat 32 (l.round + 1)
     (∀ g, (s.commitOrder uid).find? (fun g => g.qround != next) = some g → s.group? g.core g.slot = some g → g.staged = [] →
       g.commit = none → g.bc.seals = [] → g.bm.seals = [] → g.bg.seals = [] →
       ∃ t h l', exec (.commitPhase uid) s = .next t ∧ t.group? g.core g.slot = some h ∧ h.qround = next ∧ h.v = g.v ∧ t.mem = s.mem ∧
         t.launch? uid = some l' ∧ l' = { l with commits := true }) ∧
     ((∀ g ∈ s.commitOrder uid, g.qround = next) →
       (s.endedOf uid = [] →
         ∃ t l', exec (.commitPhase uid) s = .next t ∧ t.launch? uid = some l' ∧ l'.round = l.round + 1 ∧ l'.clampAll = false ∧
           l'.commits = false) ∧
       (∀ g, s.endedOf uid = [g] → s.workDone g = false →
         ∃ t l', exec (.commitPhase uid) s = .next t ∧ t.launch? uid = some l' ∧ l' = { l with commits := true } ∧ t.mem = s.mem) ∧
       ∀ g, s.endedOf uid = [g] → s.workDone g = true → g.cursor = none →
         ∃ t l', exec (.commitPhase uid) s = .next t ∧ t.launch? uid = some l' ∧ l'.round = l.round + 1 ∧
           ∀ h ∈ t.groups, ¬(h.core = g.core ∧ h.slot = g.slot))) ∧
  ∀ (uid : Nat) (s : State) (l : Launch), s.mgmt.devState ≠ .frozen → s.launch? uid = some l → l.record.det = true →
    l.started = true → l.done = false → l.waiting = [] → (∀ x ∈ s.saved, x.team.key.uid ≠ uid) →
    (∀ g ∈ s.groups, g.team.uid = uid → g.qdone = true ∧ g.stopped = none ∧ g.halted = false ∧ s.frozen.contains g.core = false ∧
      s.finishing g = false ∧ g.reqs = [] ∧ g.copies = [] ∧ s.group? g.core g.slot = some g) →
    let next := BitVec.ofNat 32 (l.round + 1)
    let before := fun (h g : Group) => listLe [h.team.origin.toNat, h.team.index, h.gidx] [g.team.origin.toNat, g.team.index, g.gidx]
    (∀ g ∈ s.groups, g.team.uid = uid → g.qround ≠ next →
      (∀ h ∈ s.groups, h.team.uid = uid → h.qround ≠ next → h = g ∨ before h g = false) →
      g.staged = [] → g.commit = none → g.bc.seals = [] → g.bm.seals = [] → g.bg.seals = [] →
      ∃ t, exec (.commitPhase uid) s = .next t ∧ t.group? g.core g.slot = some { g with qround := next } ∧ t.mem = s.mem ∧
        (∀ h ∈ s.groups, ¬(h.core = g.core ∧ h.slot = g.slot) → h ∈ t.groups) ∧ t.launch? uid = some { l with commits := true }) ∧
    (∀ g ∈ s.groups, ∀ v token d f k n p, g.team.uid = uid → g.qround ≠ next →
      (∀ h ∈ s.groups, h.team.uid = uid → h.qround ≠ next → h = g ∨ before h g = false) →
      g.staged = [] → g.commit = some (.post v token d f) → g.bc.seals = [] → g.bm.seals = [] → g.bg.seals = [] →
      s.postHeld g v = false → s.postTarget g v 0#64 = .ok (some (k, n)) → k.uid = uid →
      s.groups.find? (fun h => h.team == k && h.gidx == n) = some p → ¬(p.core = g.core ∧ p.slot = g.slot) → f < 4 →
      ∃ t h q, exec (.commitPhase uid) s = .next t ∧ t.group? g.core g.slot = some h ∧ h.commit = none ∧ h.qround = next ∧
        (d ≠ 0#6 → (h.frag f).rd d = if p.mailbox.length ≥ 4 then 0#64 else 1#64) ∧
        t.group? p.core p.slot = some q ∧ (q.mailbox = if p.mailbox.length ≥ 4 then p.mailbox else p.mailbox ++ [token]) ∧ t.mem = s.mem) ∧
    ((∃ g ∈ s.groups, g.team.uid = uid) →
      (∀ g ∈ s.groups, g.team.uid = uid → g.qround = next ∧ g.ending = false ∧ g.clampPend = false ∧ g.deferred = [] ∧
        ∀ f, f < 4 → (g.frag f).state ≠ .inWany) →
      l.clampAll = false → (∀ b ∈ s.bins, b.uid ≠ uid) →
      ∃ t, exec (.commitPhase uid) s = .next t ∧ t.mem = s.mem ∧ t.launch? uid = some { l with round := l.round + 1, commits := false } ∧
        ∀ g ∈ s.groups, g.team.uid = uid → t.group? g.core g.slot = some { g with qdone := false, qcnt := 0, atRound := g.wanted })

/-- R410, R418 to R421, R432: a team ready for its save leaves its core with its groups, and is kept as saved; an error in a core's
pool ends the one team that holds all of it, which starts again when its launch is idempotent; an error in a slice poisons its
sector; an error or a stall freezes a core; a frozen core moves to the standby core, or its teams are to be saved; a `tlbconf` ends
when no access is open (stated where no trap record and no host access waits behind the drain). Which granules a team holds is left open (log 17). -/
def Obligations.FailureEvents : Prop :=
  ∀ (core : Nat) (s : State), s.mgmt.devState ≠ .frozen →
    (∀ slot g m base u, s.group? core slot = some g → s.team? g.team = some m → s.saveMates m = [m] → m.saving = some base →
      m.saveBad = false → m.saveRec = none → (∀ h ∈ s.groups, h.team = m.key → s.deferNow h = false) → s.readyToSave m = true → s.saveTeams [m] = .ok u →
      ∃ t x, exec (.teamSave core slot) s = .next t ∧ x ∈ t.saved ∧ x.team.key = m.key ∧ x.addr = base ∧
        (∀ h ∈ t.groups, h.team ≠ m.key) ∧ t.team? m.key = none) ∧
    (∀ off m l, s.teamsOn core = [m] → Config.granules ≤ m.granules → m.shape ≤ 1 → s.launch? m.key.uid = some l →
      (∀ h ∈ s.groups, h.team = m.key → h.cursor = none) →
      ∃ t l', exec (.poolUncorrectableError core off) s = .next t ∧ (∀ h ∈ t.groups, h.team ≠ m.key) ∧
        t.launch? m.key.uid = some l' ∧ (l.record.idem = true → m.key.origin = false → m.relaunched = false →
          ∃ w ∈ l'.waiting, w.key = m.key ∧ w.relaunch = true)) ∧
    (∀ sec, s.poison.contains sec = false →
      ∃ t, exec (.sliceUncorrectableError sec) s = .next t ∧ t = { s with poison := s.poison ++ [sec] }) ∧
    (core < 240 * s.variant.dies → s.frozen.contains core = false →
      ∃ t, exec (.coreSelfCheckError core) s = .next t ∧ t = { s with frozen := s.frozen ++ [core] }) ∧
    (∀ slot g, s.group? core slot = some g → s.isReady g = true → g.readyAt + 1048576 ≤ s.clock → s.frozen.contains core = false →
      ∃ t, exec (.coreIssueWatchdog core slot) s = .next t ∧ t = { s with frozen := s.frozen ++ [core] }) ∧
    (s.frozen.contains core = true →
      (∀ n, s.nextStandby (dieOf core) = some n → (s.engine core).queue = [] → s.dead.contains core = false →
        ∃ t, exec (.migrationComplete core) s = .next t ∧ t.frozen = s.frozen.filter (fun c => c != core) ∧ t.physOf core = n ∧
          t.standby = (s.standby.filter fun x => !(x.1 == dieOf core && x.2 == n)) ∧ t.teams = s.teams) ∧
      (s.nextStandby (dieOf core) = none → s.dead.contains core = false →
        ∃ t, exec (.migrationComplete core) s = .next t ∧ (∀ m ∈ t.teams, m.core = core → m.migrating = true) ∧
          t.frozen = s.frozen ∧ t.dead = s.dead ++ [core])) ∧
    (∀ slot g d reg f p, s.group? core slot = some g → g.drain = some (d, reg, f) → f < 4 → s.part? g.part = some p →
      (∀ h ∈ s.groups, h.part = g.part → s.openAccess d h = false) → p.held = [] → s.hostQ = [] →
      ∃ t h p', exec (.tlbconfComplete core slot) s = .next t ∧ t.group? core slot = some h ∧ h.drain = none ∧
        (reg ≠ 0#6 → (h.frag f).rd reg = 1#64) ∧ t.part? g.part = some p' ∧ p'.drains = dropFirst d p.drains ∧
        ∀ e ∈ t.tlb, e.part = g.part → e.drained d = true → ∃ k ∈ p'.drains, e.drained k = true)

/-- R2, R4, R352, R451, R452, R455, R456: while PREP is 1, a BAR2 access reads or writes the bytes of the quota at its offset; later it goes
through the partition's tables; no earlier write of the function through the same link waits (R453). A write of HERR or of a register of a function changes that register. A peer access goes
through the tables of the partition whose export matches, and fails without one. A read of a register of BAR0 answers its fields,
and a peer window entry of a part without peer ports reads 0 (R4). How a refused access ends is the model's (log 58). -/
def Obligations.HostAccesses : Prop :=
  ∀ (link : Fin 2) (part : Nat) (s : State) (p : Partition), s.mgmt.devState ≠ .frozen → s.part? part = some p → s.hostClear ⟨link, part⟩ = true →
    (∀ offset n pas u, (if p.prep then
        u = s ∧ offset + n ≤ 2 ^ 36 ∧ pas = (List.range n).filterMap (fun i => p.quotaByte (offset + i)) ∧ pas.length = n ∧
          pas.any (poisoned s) = false
        else offset + n ≤ 2 ^ 36 ∧ hostVa s part false (BitVec.ofNat 64 (p.w2base.toNat * 2 ^ 36 + offset)) n = (.ok pas, u)) →
      ∃ t, exec (.hostBar2Read ⟨link, part⟩ offset n) s = .next t ∧ t.hostOut = s.hostOut ++ [.data (some part) (readAt s.mem pas)] ∧ t.mem = s.mem) ∧
    (∀ offset bytes pas u, (if p.prep then
        u = s ∧ offset + bytes.length ≤ 2 ^ 36 ∧ pas = (List.range bytes.length).filterMap (fun i => p.quotaByte (offset + i)) ∧
          pas.length = bytes.length
        else offset + bytes.length ≤ 2 ^ 36 ∧
          hostVa s part true (BitVec.ofNat 64 (p.w2base.toNat * 2 ^ 36 + offset)) bytes.length = (.ok pas, u)) → (∀ a ∈ pas, outside a = false) →
      ∃ t, exec (.hostBar2Write ⟨link, part⟩ offset bytes) s = .next t ∧ t.mem = writeAt s.mem pas bytes ∧ t.hostOut = s.hostOut ∧ t.tags = s.tags) ∧
    (∃ t p', exec (.herrClear ⟨link, part⟩) s = .next t ∧ t.part? part = some p' ∧ p' = { p with herr := false }) ∧
    (∀ v : Word, (∃ t p', exec (.registerWrite (some ⟨link, part⟩) 0x0800 v) s = .next t ∧ t.part? part = some p' ∧ p' = { p with seed := v }) ∧
      (∃ t p', exec (.registerWrite (some ⟨link, part⟩) 0x0808 v) s = .next t ∧ t.part? part = some p' ∧ p' = { p with w2base := v.setWidth 19 }) ∧
      ∀ n, n < 64 → (p.queueAt n).en = false →
        ∃ t p', exec (.registerWrite (some ⟨link, part⟩) (32 * n) v) s = .next t ∧ t.part? part = some p' ∧
          p'.queueAt n = { p.queueAt n with qbase := v &&& 0x007FFFFFFFFFFF00#64 }) ∧
    (∀ port rpkg rpart addr n,
      (s.exportOf port rpkg rpart = none → ∃ t, exec (.peerWindowAccess port rpkg rpart addr n none) s = .next t ∧
        t.hostOut = s.hostOut ++ [.unsupported none] ∧ t.mem = s.mem) ∧
      ∀ w pas u, s.exportOf port rpkg rpart = some w → w.value.toNat / 2 ^ 36 % 64 = part → p.prep = false →
        let va := BitVec.ofNat 64 (w.value.toNat % 2 ^ 19 * 2 ^ 36 + addr % 2 ^ 45)
        (hostVa s part false va n = (.ok pas, u) → ∃ t, exec (.peerWindowAccess port rpkg rpart addr n none) s = .next t ∧
          t.hostOut = s.hostOut ++ [.data none (readAt s.mem pas)] ∧ t.mem = s.mem) ∧
        ∀ bytes, hostVa s part true va bytes.length = (.ok pas, u) → (∀ a ∈ pas, outside a = false) →
          ∃ t, exec (.peerWindowAccess port rpkg rpart addr n (some bytes)) s = .next t ∧ t.mem = writeAt s.mem pas bytes) ∧
    ∀ rest, s.mgmt.devState = .ready →
      let answers := fun (fn : Option HostPort) (o v : Nat) => s.agenda = .read fn o :: rest →
        step s = .next { s with agenda := rest, hostOut := s.hostOut ++ [.data (fn.map (·.part)) (leBytes 8 v)] }
      (∀ n, n < 64 → let q := p.queueAt n
        answers (some ⟨link, part⟩) (32 * n) q.qbase.toNat ∧ answers (some ⟨link, part⟩) (32 * n + 16) q.head.toNat ∧
        answers (some ⟨link, part⟩) (32 * n + 24) q.tail.toNat ∧ (q.log2n ≤ 16 → answers (some ⟨link, part⟩) (32 * n + 8)
          (q.en.toNat * 2 ^ 31 + q.err.toNat * 2 ^ 30 + q.ecode.toNat * 2 ^ 16 + q.log2n))) ∧
      answers (some ⟨link, part⟩) 0x0800 p.seed.toNat ∧ answers (some ⟨link, part⟩) 0x0808 p.w2base.toNat ∧
      answers (some ⟨link, part⟩) 0x0810 (p.haltcode.toNat * 2 ^ 8 + p.herr.toNat * 4 + p.prep.toNat * 2 + p.halted.toNat) ∧
      answers none 0x0000 (s.variant.capBits false) ∧
      ∀ o, 0x4000 ≤ o → o < 0x5000 → o % 8 = 0 → s.variant.hasPeer = false → answers none o 0

/-- R404, R406, R436, R439 to R441, R456 to R458, R460 to R462: the commands of a device that is ready. CREATE of a descriptor that
passes its checks adds the partition, in preparation, with its quota at zero; START takes its control block and accepts its
supervisor launch; HALT halts it with code 2; DESTROY leaves nothing of it: no launch, team, group, saved team, bin, write-back or TLB entry,
no session that is not revoked, no cluster or quota block; and where it shares nothing with the others (`Apart`), what is theirs stays.
SLICE, SUPERVISOR and POWERCAP set what they name; ATTEST,
GETCERT and BBREAD answer their bytes. Each ends with GO at 0 and status 0. HALT, SLICE, POWERCAP and FLASH act on a frozen device too. Operands, and the codes of refused commands, are the model's (log 27, log 53, log 55),
and so is that START and SUPERVISOR accept the supervisor launch at once and answer then (DESIGN CHOICE, log 52). -/
def Obligations.Commands : Prop :=
  ∀ (s : State),
    let done := fun (t : State) => t.mgmt.command.getLsbD 63 = false ∧ t.mgmt.status = 0#64
    (s.mgmt.devState = .ready →
      (∀ desc, desc.length = 4680 → let p := s.newPartition desc
        s.createBad p desc = false →
        ∃ t, exec (.create desc) s = .next t ∧ done t ∧ t.parts = s.parts ++ [p] ∧ p.prep = true ∧
          ∀ a, sget t.mem a = if inQuota s.variant p a then 0#8 else sget s.mem a) ∧
      (∀ part p, s.part? part = some p →
        (∀ bs u v, p.prep = true → p.halted = false → devRead s part 0 p.tqcb 64 = (.ok bs, u) → controlOk bs = true →
          let p1 := { p with tqBase := BitVec.ofNat 64 (fieldAt bs 0 8), tqLog := fieldAt bs 8 1, prep := false }
          (u.modPart part fun _ => p1).placeSupervisor p1 = some v →
          ∃ t l, exec (.start part) s = .next t ∧ done t ∧ t.part? part = some p1 ∧ t.launches = s.launches ++ [l] ∧ l.super = true ∧
            l.part = part) ∧
        (∃ t, exec (.destroy part) s = .next t ∧ done t ∧ t.part? part = none ∧
          (∀ l ∈ t.launches, l.part ≠ part) ∧ (∀ m ∈ t.teams, m.part ≠ part) ∧ (∀ g ∈ t.groups, g.part ≠ part) ∧
          (∀ y ∈ t.saved, y.part ≠ part) ∧ (∀ e ∈ t.tlb, e.part ≠ part) ∧ (∀ k ∈ t.backs, k.g.part ≠ part) ∧
          (∀ k ∈ t.bins, ∀ l ∈ s.launches, l.part = part → k.uid ≠ l.uid) ∧
          (∀ y ∈ t.sessions, (y.opened = true → y.part0 = some part ∨ y.part1 = some part → y.revoked = true) ∧
            (y.opened = false → y.part0.or y.part1 ≠ some part)) ∧
          (∀ q ∈ t.parts, q.num ≠ part ∧
            ∃ q0 ∈ s.parts, q.num = q0.num ∧ q.clusters = q0.clusters ∧ q.q1 = q0.q1 ∧ q.q2 = q0.q2) ∧
          (Apart s part → t.parts = (s.parts.filter fun q => q.num != part) ∧ t.mem = s.mem ∧
            (∀ g ∈ s.groups, g.part ≠ part → g ∈ t.groups) ∧ (∀ m ∈ s.teams, m.part ≠ part → m ∈ t.teams) ∧
            (∀ y ∈ s.saved, y.part ≠ part → y ∈ t.saved) ∧ (∀ l ∈ s.launches, l.part ≠ part → l ∈ t.launches) ∧
            ∀ e ∈ s.tlb, e.part ≠ part → e ∈ t.tlb)) ∧
        (∀ v, p.prep = false → p.halted = false → (∀ l ∈ s.launches, l.part = part → l.super = true → l.done = true) →
          s.placeSupervisor p = some v →
          ∃ t l, exec (.supervisor part) s = .next t ∧ done t ∧ t.launches = s.launches ++ [l] ∧ l.super = true ∧ l.part = part) ∧
        ∀ nonce, ∃ t, exec (.attest none part nonce) s = .next t ∧ done t ∧ t.mem = s.mem ∧
          t.hostOut = s.hostOut ++ [.data none (s.report p nonce), .irq none 0]) ∧
      (∃ t, exec (.getcert none) s = .next t ∧ done t ∧ t.hostOut = s.hostOut ++ [.data none certificate, .irq none 0]) ∧
      (∀ die first, die < s.variant.dies → ∃ t bs, exec (.bbread die first) s = .next t ∧ done t ∧
        t.hostOut = s.hostOut ++ [.data none bs, .irq none 0] ∧
        ∀ n e, n < 64 → s.bbox.find? (fun e => e.die == die && e.seq == BitVec.ofNat 32 (first + n)) = some e →
          (bs.drop (64 * n)).take 64 = e.bytes) ∧
      ∃ t, exec .freeze s = .next t ∧ t.mgmt.devState = .frozen) ∧
    (s.mgmt.devState = .ready ∨ s.mgmt.devState = .frozen →
      (∀ part p, s.part? part = some p →
        (p.halted = false → ∃ t, exec (.halt part) s = .next t ∧ done t ∧
          t.part? part = some { p with halted := true, haltcode := 2#8 }) ∧
        ∀ n, ∃ t, exec (.slice part n) s = .next t ∧ done t ∧ t.part? part = some { p with slice := n.toNat }) ∧
      (∀ watts, 1200 ≤ watts → watts ≤ 2400 → ∃ t, exec (.powercap watts) s = .next t ∧ done t ∧ t.mgmt.pcap = watts) ∧
      ∀ image, s.mgmt.verifies image = true → ∃ t, exec (.flash image) s = .next t ∧ done t ∧
        if image.firmware then t.mgmt.fw = image ∧ t.mgmt.cfg = s.mgmt.cfg else t.mgmt.cfg = image ∧ t.mgmt.fw = s.mgmt.fw)

/-- R459 to R462: FREEZE_N freezes the device, and its release does not start it; a frozen device reads out bytes and changes
nothing else: the number of groups and the last trap cause of the core, in the model's places (DESIGN CHOICE, log 55), and nothing but status
words where DEBUG is 0; a reset makes the device ready when both images verify, and puts it in recovery otherwise, and keeps the black boxes, which power-on
clears; both keep flash, and the core clock starts again at 0 (R90). That memory reads zero then is the model's, as are the reset values that
R459 does not give (DESIGN CHOICE, log 4, log 3). -/
def Obligations.BringUps : Prop :=
  ∀ (s : State),
    (∃ t, exec .freezeN s = .next t ∧ t = { s with mgmt := { s.mgmt with devState := .frozen } }) ∧
    exec .freezeNRelease s = .next s ∧
    (∀ core first n, s.mgmt.devState = .frozen → core < 240 * s.variant.dies → first + n < 2 ^ 64 →
      ∃ t bs, exec (.readout core first n) s = .next t ∧ t.mgmt.status = 0#64 ∧ t.groups = s.groups ∧ t.mem = s.mem ∧
        t.mgmt.devState = .frozen ∧ bs.length = n ∧ (0 < n → HostOut.data none bs ∈ t.hostOut) ∧
        ∀ i, i < n →
          (8 ≤ first + i → first + i < 16 →
            bs[i]? = (leBytes 8 (s.groups.filter fun g => g.core == core).length)[first + i - 8]?) ∧
          (16 ≤ first + i → first + i < 24 → bs[i]? = (leBytes 8 (sget s.lastTrap core).toNat)[first + i - 16]?) ∧
          (24 ≤ first + i → s.mgmt.debug = false → bs[i]? = some 0#8)) ∧
    (∃ t, exec .resetRelease s = .next t ∧ t.groups = [] ∧ t.parts = [] ∧ t.launches = [] ∧ t.mem = [] ∧ t.tags = [] ∧ t.bbox = s.bbox ∧ t.clock = 0 ∧
      t.mgmt.fw = s.mgmt.fw ∧ t.mgmt.cfg = s.mgmt.cfg ∧
      t.mgmt.devState = if s.mgmt.verifies s.mgmt.fw = true ∧ s.mgmt.verifies s.mgmt.cfg = true ∧ s.mgmt.fw.firmware = true ∧
        s.mgmt.cfg.firmware = false then .ready else .recovery) ∧
    (∃ t, exec .powerOn s = .next t ∧ t.groups = [] ∧ t.parts = [] ∧ t.mem = [] ∧ t.bbox = [] ∧ t.mgmt.fw = s.mgmt.fw ∧
      t.mgmt.cfg = s.mgmt.cfg ∧ t.mgmt.devState = .booting)

/-- R417, R445 to R448, R454, R463: a beat error makes a lane send again; an audit of up to 8 lost credits gives them back, and a larger
difference, or a fifth mismatch within 2,000,000 cycles, retrains the lane; a retraining that succeeds starts it afresh in every class, and the third failure takes the link down; a failed router's
channels are fenced and the partitions that need it halt; a dead port, the power cap and the trip act as R454 and R463 say. Which links and routers a number names, and what the traffic has moved FREE and RET by when an audit comes, is the model's (log 30, log 31). -/
def Obligations.FabricEvents : Prop :=
  ∀ (s : State), s.mgmt.devState ≠ .frozen →
    (∀ lane, let x := s.laneAt lane
      (s.variant.hasLane lane = false → exec (.linkBeatError lane) s = .next s ∧ (∀ v, exec (.linkAudit lane v) s = .next s) ∧
        ∀ b, exec (.linkRetrainComplete lane b) s = .next s) ∧
      (x.down = false → s.variant.hasLane lane = true →
      (∃ t, exec (.linkBeatError lane) s = .next t ∧ t.laneAt lane = { x with resend := x.resend + 1 }) ∧
      (∀ freed, let w := (x.audited lane.cls freed s.draws).1
        let d := (freed - w.ret).toNat
        let recent := (x.mismatches.filter fun k => decide (s.fclock < k + 2000000)).length
        x.retraining = false →
        (d = 0 → ∃ t, exec (.linkAudit lane freed) s = .next t ∧ t.laneAt lane = x.setWin lane.cls w) ∧
        (0 < d → ∃ t, exec (.linkAudit lane freed) s = .next t ∧ (t.laneAt lane).mismatches.length = recent + 1 ∧
          (t.laneAt lane).win lane.cls = (if d ≤ 8 then ⟨w.free + d, freed⟩ else w) ∧
          (t.laneAt lane).retraining = decide (8 < d ∨ 4 ≤ recent))) ∧
      (x.retraining = true → (∃ t, exec (.linkRetrainComplete lane true) s = .next t ∧ (t.laneAt lane).retraining = false ∧
          (∀ c, (t.laneAt lane).win c = ⟨(t.laneAt lane).units, 0#32⟩) ∧ (t.laneAt lane).mismatches = [] ∧ (t.laneAt lane).failures = 0) ∧
        (x.failures < 2 → ∃ t, exec (.linkRetrainComplete lane false) s = .next t ∧ (t.laneAt lane).failures = x.failures + 1) ∧
        (2 ≤ x.failures → ∃ t, exec (.linkRetrainComplete lane false) s = .next t ∧
          (∀ i c, i < 100 → c < 4 → (t.laneAt ⟨lane.link, i, c⟩).down = true) ∧
          ∀ die, s.variant.link lane.link = some (.hub die) → ∀ q ∈ s.parts, q.touches s.variant die = true →
            ∃ p', t.part? q.num = some p' ∧ p'.halted = true)))) ∧
    (∀ die router, die < s.variant.dies → router < 32 → s.failed.contains (die, router) = false →
      (∃ t, exec (.routerSelfCheckError die router) s = .next t ∧ t.failed = s.failed ++ [(die, router)] ∧ t.parts = s.parts) ∧
      ∃ t, exec (.routerStallTimeout die router) s = .next t ∧ t.failed = s.failed ++ [(die, router)] ∧ t.parts = s.parts) ∧
    (∀ die router, s.failed.contains (die, router) = true → ∃ t, exec (.routerFenceComplete die router) s = .next t ∧
      (∀ r, r < 32 → channel router r = true → (die, router, r) ∈ t.fenced) ∧
      ∀ q ∈ s.parts, s.needsRouter q die router = true → ∃ p', t.part? q.num = some p' ∧ p'.halted = true) ∧
    (∀ port, port < s.variant.cxlPorts → s.deadPorts.contains port = false →
      ∃ t, exec (.cxlPortDown port) s = .next t ∧ t.deadPorts = s.deadPorts ++ [port] ∧ t.mem = s.mem) ∧
    (∀ die watts celsius, (s.mgmt.pcap < watts ∨ 105 ≤ celsius) → ∃ t, exec (.powerCapExceeded watts ⟨die, celsius⟩) s = .next t ∧
      t.mgmt.withheld = true ∧ t.mgmt.power = watts ∧ t.mgmt.tmax = celsius ∧ t.groups = s.groups) ∧
    (∀ watts celsius, watts ≤ s.mgmt.pcap → celsius < 105 → ∃ t, exec (.withheldIssueCauseClears watts celsius) s = .next t ∧
      t.mgmt.withheld = false ∧ t.groups = s.groups) ∧
    (∀ die celsius, 115 ≤ celsius → ∃ t, exec (.thermalTrip die celsius) s = .next t ∧ t.mgmt.devState = .frozen ∧
      ∀ q ∈ s.parts, ∃ p', t.part? q.num = some p' ∧ p'.halted = true) ∧
    ∃ t, exec .correctableError s = .next t ∧ t = { s with mgmt := { s.mgmt with cecnt := s.mgmt.cecnt + 1#64 } }

/-- R131 to R136, R440: a word whose charge is above %ibudget, or whose sectors and grant are above %mbudget, does not issue: with a handler
and no landing in progress, its group lands at %land with its unit in %lret, the cause in %lcause and the reserves as its budgets; else
it is pre-empted hard, its budgets and INRES as they were, and its team is to be saved, or its partition halts when it is a supervisor
group's. The words are those that come to a charge, by `Asks`; a hint word is charged 1 at its own issue (R46). What `gtript` counts is
the model's (DESIGN CHOICE, log 42). -/
def Obligations.ShortBudgets : Prop :=
  (∀ (i : Instr) (s : State) (g : Group) (x : Ctx) (u n : Nat), Reaches i s g x → Asks x s g i u n →
    let c := (g.frag x.fid).owes ((useIn x.hs i).charge + u)
    g.ibud < c ∨ g.mbud < (g.frag x.fid).owes n →
    shortPath i s g x.core x.slot x.fid (if g.ibud < c then 1#2 else 2#2) x.unit) ∧
  (∀ (i : Instr) (s : State) (g : Group) (x : Ctx), Comes i s g x → g.aside.isSome = true → bannedAside i = true →
    g.ibud < (g.frag x.fid).owes (useIn x.hs i).charge → shortPath i s g x.core x.slot x.fid 1#2 x.unit) ∧
  ∀ (i : Instr) (s : State) (core slot fid : Nat) (g : Group),
    Sys2Proof.Machine.Instr.isHint i = true → s.cur = some (core, slot, fid) → s.group? core slot = some g → fid < 4 →
    (g.frag fid).state = .ready → g.ibud = 0 → shortPath i s g core slot fid 1#2 (g.frag fid).pc

/-- R68, R400 to R402: a word that a check of R68 stops traps before it is charged: delivered in-group, at its unit as the return PC,
with the cause and the address field of the check; delivered to the supervisor, it stops its group at its unit. A privileged word
of a group that is not is stopped with PRIV, and a vector register beyond the allocation with VREG and its number. -/
def Obligations.PreciseTraps : Prop :=
  (∀ (i : Instr) (s : State) (core slot fid : Nat) (g : Group) (c : Cause) (a : Word),
    isEvent i = false → Sys2Proof.Machine.Instr.isHint i = false → s.cur = some (core, slot, fid) → s.group? core slot = some g → fid < 4 →
    (g.frag fid).state = .ready → unitFault s g (g.frag fid).hints i = some (c, a) →
    let unit := (g.frag fid).pc
    let args := TrapArgs.precise c a unit
    ∃ t h, exec i s = .next t ∧ t.group? core slot = some h ∧ h.ibud = g.ibud ∧ h.mbud = g.mbud ∧ h.icnt = g.icnt ∧ h.v = g.v ∧
      h.k = g.k ∧ (∀ f, f < 4 → (h.frag f).s = (g.frag f).s) ∧
      (g.takesInGroup args = true → trapsOnly s t core slot c h ∧ (h.frag fid).pc = g.trap.tvec ∧
        h.stack = g.stack ++ [⟨true, fid, BitVec.ofNat 8 c.code, unit, (g.frag fid).mask, false⟩] ∧ h.trap.cause = BitVec.ofNat 8 c.code ∧
        h.trap.taddr = a ∧ h.trap.tmask = (g.frag fid).mask ∧ h.trap.frag = BitVec.ofNat 2 fid ∧ h.trap.defer = false) ∧
      (g.takesInGroup args = false → h.stopped = some fid ∧ (h.frag fid).pc = unit ∧ h.stack = g.stack)) ∧
  (∀ (i : Instr) (s : State) (g : Group), g.privl = false →
    ((∃ st a, i = .tlbdrain st a) ∨ (∃ st d a, i = .tlbconf st d a) ∨ (∃ st a b, i = .ctxsv st a b) ∨
      (∃ st a b, i = .ctxld st a b) ∨
      (s.variant.hasGate = true ∧ ∃ st d a, i = .gsess st d a)) →
    unitFault s g [] i = some (.priv, wordOf i)) ∧
  (∀ (i : Instr) (s : State) (g : Group) (x : Ctx), Comes i s g x → g.aside.isSome = true → bannedAside i = true →
    (g.frag x.fid).owes (useIn x.hs i).charge ≤ g.ibud → trapsCharged i s g x (.precise .illegal (wordOf i) x.unit)) ∧
  ∀ (st : BitVec 3) (pk : BitVec 2) (d a : BitVec 6) (s : State) (g : Group), g.valloc ≤ d.toNat →
    unitFault s g [] (.vmovS st pk d a) = some (.vreg, BitVec.ofNat 64 d.toNat)

/-- R40, R46, R68, R112: a step that issues a group's next word runs the instruction that the word at its fragment's place decodes
to, and the first word of a unit with hint words once the whole unit passes its checks, and in a deterministic launch once its instruction word
neither waits nor ends the quantum (R378); a group of a selection that has issued a word no longer stands as yielded (R49, `afterChoice`); a step
that meets an event of the agenda runs that event. The word is the four bytes of memory at the translated address, the
lowest first. The order of the turns is the model's (log 1). -/
def Obligations.StepRunsDecoded : Prop :=
  (∀ (s : State) (rest : List Agent) (core slot fid : Nat) (g : Group) (w : BitVec 32) (t : State) (i : Instr),
    let s1 : State := { s with agenda := rest }
    s.agenda = .issue core slot :: rest → s.mgmt.withheld = false → s.mgmt.devState = .ready → s1.group? core slot = some g →
    s1.candidate g = some fid → ((s1.choice core (s1.slotClass g fid)).elim false fun y => y.1.slot == slot) = true →
    s1.deferNow g = false → (s1.boundary g = false ∨ g.clampPend = false ∨ s1.isDet g = true) →
    ((g.frag fid).hints = [] → hintWord w = false) →
    s1.fetchWord g.part (.ofCore g.core) ((g.frag fid).pc + BitVec.ofNat 64 (4 * (g.frag fid).hints.length)) = (.word w, t) →
    decode w = .ok i →
    step s = mapNext (s1.afterChoice core slot (s1.slotClass g fid)) (exec i { t with cur := some (g.core, g.slot, fid) })) ∧
  (∀ (s : State) (rest : List Agent) (core slot fid : Nat) (g : Group) (w : BitVec 32) (t u : State) (i : Instr)
      (ws : List (BitVec 32)) (v : Option (BitVec 32)) (h : Instr) (is : List Instr),
    let s1 : State := { s with agenda := rest }
    s.agenda = .issue core slot :: rest → s.mgmt.withheld = false → s.mgmt.devState = .ready → s1.group? core slot = some g →
    s1.candidate g = some fid → ((s1.choice core (s1.slotClass g fid)).elim false fun y => y.1.slot == slot) = true →
    (g.frag fid).hints = [] → s1.deferNow g = false → (s1.boundary g = false ∨ g.clampPend = false ∨ s1.isDet g = true) →
    s1.fetchWord g.part (.ofCore g.core) (g.frag fid).pc = (.word w, t) → hintWord w = true →
    t.fetchUnit g.part (.ofCore g.core) ((g.frag fid).pc + 4#64) 9007199254740992 [w] = (.ok (ws, v), u) → unitOf u g ws v = .ok (h :: is, i) →
    quantumBefore (u.isDet g) g 0 i = false → (u.isDet g = true → (u.withUnit g fid (h :: is)).unitWaits g.core g.slot fid i = none) →
    step s = mapNext (s1.afterChoice core slot (s1.slotClass g fid)) (exec h { u with cur := some (g.core, g.slot, fid) })) ∧
  (∀ (s : State) (rest : List Agent) (i : Instr), s.agenda = .event i :: rest → isEvent i = true →
    step s = exec i { s with agenda := rest }) ∧
  ∀ (s t : State) (part : Nat) (site : Site) (a : Word) (pa e : Nat), a.toNat < 2 ^ 55 → Machine.translate s part site a.toNat = (.ok pa e, t) →
    natBit e 6 = false → natBit e 3 = false → poisoned t pa = false →
    s.fetchWord part site a =
      (.word (wordOfBytes (sget t.mem pa) (sget t.mem (pa + 1)) (sget t.mem (pa + 2)) (sget t.mem (pa + 3))), t)

/-- R40, R41, R45, R55 to R65: words written bit by bit from the opcode map stand for their instructions, one of every family. -/
def Obligations.DecodeWords : Prop :=
  decode 0b00000000011100010100011100100100#32 = .ok (.add 1#3 3#2 5#6 7#6 9#6) ∧
  decode 0b00010000011100010100011100001001#32 = .ok (.addi 1#3 3#2 5#6 7#6 9#8) ∧
  decode 0b00100000010000000000000000000011#32 = .ok (.bra 1#3 3#14) ∧
  decode 0b00100010010000000000000000000011#32 = .ok (.call 1#3 3#14) ∧
  decode 0b00100100010000001100010100011110#32 = .ok (.split 1#3 3#6 5#4 7#6) ∧
  decode 0b00100110010000000000000000000010#32 = .ok (.brk 1#3) ∧
  decode 0b00101000010000001100010100000001#32 = .ok (.gets 1#3 3#6 5#6) ∧
  decode 0b00101110010000001100010100011110#32 = .ok (.topup 1#3 3#6 5#6 7#6) ∧
  decode 0b00101100010000000000000000000011#32 = .ok (.land 1#3 3#14) ∧
  decode 0b11000000010000001100010100011100#32 = .ok (.ebind 1#3 3#3 5#6 7#6) ∧
  decode 0b11000010010000001100010100011110#32 = .ok (.mpost 1#3 3#6 5#6 7#6) ∧
  decode 0b11000110010000000000001100010100#32 = .ok (.pegwait 1#3 3#6 5#6) ∧
  decode 0b11001000010000001100010100011101#32 = .ok (.seal 1#3 3#6 5#6 7#6 1#2) ∧
  decode 0b01000000011100010100011100100111#32 = .ok (.vadd 1#3 3#2 5#6 7#6 9#6 1#1 1#1) ∧
  decode 0b01010110011110011100100100101111#32 = .ok (.vcmp 1#3 3#2 5#3 7#4 9#6 11#6 1#1) ∧
  decode 0b01011010011100010100011100001001#32 = .ok (.vaddi 1#3 3#2 5#6 7#6 9#8) ∧
  decode 0b01101100011100010100011100100101#32 = .ok (.fadd 1#3 3#2 5#6 7#6 9#6 1#1) ∧
  decode 0b01110100011110011100100100101111#32 = .ok (.fcmp 1#3 3#2 5#3 7#4 9#6 11#6 1#1) ∧
  decode 0b01111100011100010100011100101100#32 = .ok (.cvt 1#3 3#2 5#6 7#6 1#3 3#3) ∧
  decode 0b01111110010000001100010100011100#32 = .ok (.kand 1#3 3#4 5#4 7#4) ∧
  decode 0b01111110010000001100010101000011#32 = .ok (.kget 1#3 3#6 5#4) ∧
  decode 0b01100110011100010100011100100101#32 = .ok (.vperm 1#3 3#2 5#6 7#6 9#6 1#1) ∧
  decode 0b01101010011100010100011100100100#32 = .ok (.vred 1#3 3#2 5#6 7#6 9#6) ∧
  decode 0b01110110011100010100000000100100#32 = .ok (.rand 1#3 3#2 5#6) ∧
  decode 0b10000000011100010100011100100111#32 = .ok (.ldv 1#3 3#2 5#6 7#6 9#6 3#2) ∧
  decode 0b10000100011100010100011100000001#32 = .ok (.ldx 1#3 3#2 5#6 7#6 1#2) ∧
  decode 0b10010100011100010100011100000111#32 = .ok (.ldacq 1#3 3#2 5#6 7#6 1#3 1#1) ∧
  decode 0b10001000011100010100011100100111#32 = .ok (.lds 1#3 3#2 5#6 7#6 9#6 3#2) ∧
  decode 0b10001100011100010100011100100111#32 = .ok (.ldp 1#3 3#2 5#6 7#6 9#6 3#2) ∧
  decode 0b10010000011100010100011100100111#32 = .ok (.ldb 1#3 3#2 5#6 7#4 9#6 3#2) ∧
  decode 0b10100110010000001100010100011100#32 = .ok (.bdset 1#3 3#4 5#6 7#6) ∧
  decode 0b10011000011100010100011100100111#32 = .ok (.atom 1#3 3#2 5#6 7#6 9#6 1#1) ∧
  decode 0b10011100011100010100011100100111#32 = .ok (.red 1#3 3#2 5#6 7#6 9#6 1#1) ∧
  decode 0b10011110010000000000000000001100#32 = .ok (.fence 1#3 3#3) ∧
  decode 0b10100010011100010100011100000000#32 = .ok (.tagst 1#3 3#2 5#6 7#6) ∧
  decode 0b10110000010000001100010100011101#32 = .ok (.cpyFromGlobal 1#3 3#6 5#6 7#6 1#2) ∧
  decode 0b10110110010000001100010100000001#32 = .ok (.cpyt 1#3 3#6 5#6 1#1) ∧
  decode 0b11010000010000001100010100011100#32 = .ok (.tld 1#3 3#3 5#6 7#6) ∧
  decode 0b11010100011110111100000100001100#32 = .ok (.mma 1#3 3#2 5#3 7#3 1#3 3#3) ∧
  decode 0b11010110011101011100101100110110#32 = .ok (.mmaq 1#3 3#2 2#3 7#3 9#6 3#3 5#3 2#2) ∧
  decode 0b11011000011100010100011100100101#32 = .ok (.accrd 1#3 3#2 5#6 7#3 9#6) ∧
  decode 0b11100010010000001100000000000001#32 = .ok (.gtrip 1#3 3#6 1#2) ∧
  decode 0b11101000010000001100010100000010#32 = .ok (.gfin 1#3 3#6 5#6 2#2) ∧
  decode 0b11101100010000001100010100011101#32 = .ok (.gmaskt 1#3 3#3 5#3 7#3) ∧
  decode 0b11100000010000001100010100000000#32 = .ok (.gsess 1#3 3#6 5#6) ∧
  decode 0b11110000010000001100010100000000#32 = .ok (.launch 1#3 3#6 5#6) ∧
  decode 0b11110100010000001100010100011100#32 = .ok (.spawn 1#3 3#6 5#6 7#6) ∧
  decode 0b11111000010000000000001100000000#32 = .ok (.tlbdrain 1#3 3#6) ∧
  decode 0b11111010010000000000001100010100#32 = .ok (.ctxsv 1#3 3#6 5#6) ∧
  decode 0b11111110000000000000000000000001#32 = .ok (.imx 1#22) ∧
  decode 0b11111110010000000000100011111111#32 = .ok (.mod 1#3 3#5 1#1 1#1 1#1 1#1 1#1 1#1) ∧
  decode 0b11111110100000000000000000000111#32 = .ok (.sch 1#1 1#1 1#1) ∧
  decode 0#32 = .error .zeroWord

/-- R41 to R67: decoding the word of a well-formed instruction gives the instruction back, and a word that decodes is the word
of its well-formed instruction: no bit of an encoding is dropped, and no two words are one instruction. -/
def Obligations.DecodeEncode : Prop :=
  (∀ i w, Sys2Proof.Instr.wellFormed i = true → encode i = some w → decode w = .ok i) ∧
  ∀ i w, decode w = .ok i → encode i = some w ∧ Sys2Proof.Instr.wellFormed i = true

/-- R459: reset holds nothing: no partition, launch, team or group, no byte of memory but zeros, the device booting. The values
that R459 does not give are the model's (log 3, log 4). -/
def Obligations.ResetState : Prop :=
  State.reset.parts = [] ∧ State.reset.launches = [] ∧ State.reset.teams = [] ∧ State.reset.groups = [] ∧ State.reset.saved = [] ∧
  State.reset.frozen = [] ∧ State.reset.mgmt.devState = .booting ∧ (∀ a, sget State.reset.mem a = 0#8) ∧ ∀ a, sget State.reset.tags a = 0#4

/-- Memory and its tags have their canonical form at reset, the model's (DESIGN CHOICE, log 4). -/
def Obligations.ResetInv : Prop := State.reset.Inv

/-- In every step, memory and its tags keep their canonical form: equal memories stay equal data (log 4). -/
def Obligations.StepKeepsMemoryForm : Prop :=
  ∀ s t : State, s.Inv → step s = .next t → t.Inv

/-- R460: FREEZE_N low freezes the device, and so does FREEZE while it is ready; no event but a reset or power-on ends that, and
until then no core runs, no group, team or byte of memory changes, and no cycle passes (the agenda of log 1 goes on). -/
def Obligations.FrozenStays : Prop :=
  ∀ s : State,
    (∃ t, exec .freezeN s = .next t ∧ t = { s with mgmt := { s.mgmt with devState := .frozen } }) ∧
    (s.mgmt.devState = .ready → ∃ t, exec .freeze s = .next t ∧ t.mgmt.devState = .frozen) ∧
    (s.mgmt.devState = .frozen → exec .freezeNRelease s = .next s) ∧
    (∀ i t, s.mgmt.devState = .frozen → isEvent i = true → exec i s = .next t → i = .resetRelease ∨ i = .powerOn ∨
      (t.mgmt.devState = .frozen ∧ t.groups = s.groups ∧ t.teams = s.teams ∧ t.mem = s.mem ∧ t.tags = s.tags ∧ t.clock = s.clock ∧
        t.fclock = s.fclock)) ∧
    (s.mgmt.devState = .frozen → s.agenda = [] → step s = .next s) ∧
    (∀ a rest, s.mgmt.devState = .frozen → s.agenda = a :: rest → (∀ i, a ≠ .event i) → (∀ fn o, a ≠ .read fn o) →
      step s = .next { s with agenda := rest }) ∧
    ∀ fn o rest, s.mgmt.devState = .frozen → s.agenda = .read fn o :: rest →
      ∃ out q, step s = .next { s with agenda := rest, hostOut := out, hostQ := q }
end

