-- ==== Sys2Proof/Laws/State.lean ====
section
/-! SUPPORT. Laws/State.lean: what each update of the state and of a group leaves alone, field by field, and what it leaves in
the field it writes. -/

namespace Sys2Proof.Machine

/-! What `State.setGroup` leaves alone. -/
@[simp] theorem State.setGroup_variant (s : State) (g : Group) : (s.setGroup g).variant = s.variant := rfl
@[simp] theorem State.setGroup_clock (s : State) (g : Group) : (s.setGroup g).clock = s.clock := rfl
@[simp] theorem State.setGroup_fclock (s : State) (g : Group) : (s.setGroup g).fclock = s.fclock := rfl
@[simp] theorem State.setGroup_agenda (s : State) (g : Group) : (s.setGroup g).agenda = s.agenda := rfl
@[simp] theorem State.setGroup_cur (s : State) (g : Group) : (s.setGroup g).cur = s.cur := rfl
@[simp] theorem State.setGroup_draws (s : State) (g : Group) : (s.setGroup g).draws = s.draws := rfl
@[simp] theorem State.setGroup_mem (s : State) (g : Group) : (s.setGroup g).mem = s.mem := rfl
@[simp] theorem State.setGroup_tags (s : State) (g : Group) : (s.setGroup g).tags = s.tags := rfl
@[simp] theorem State.setGroup_poison (s : State) (g : Group) : (s.setGroup g).poison = s.poison := rfl
@[simp] theorem State.setGroup_deadPorts (s : State) (g : Group) : (s.setGroup g).deadPorts = s.deadPorts := rfl
@[simp] theorem State.setGroup_parts (s : State) (g : Group) : (s.setGroup g).parts = s.parts := rfl
@[simp] theorem State.setGroup_launches (s : State) (g : Group) : (s.setGroup g).launches = s.launches := rfl
@[simp] theorem State.setGroup_teams (s : State) (g : Group) : (s.setGroup g).teams = s.teams := rfl
@[simp] theorem State.setGroup_left (s : State) (g : Group) : (s.setGroup g).left = s.left := rfl
@[simp] theorem State.setGroup_saved (s : State) (g : Group) : (s.setGroup g).saved = s.saved := rfl
@[simp] theorem State.setGroup_backs (s : State) (g : Group) : (s.setGroup g).backs = s.backs := rfl
@[simp] theorem State.setGroup_pegs (s : State) (g : Group) : (s.setGroup g).pegs = s.pegs := rfl
@[simp] theorem State.setGroup_engines (s : State) (g : Group) : (s.setGroup g).engines = s.engines := rfl
@[simp] theorem State.setGroup_bins (s : State) (g : Group) : (s.setGroup g).bins = s.bins := rfl
@[simp] theorem State.setGroup_sessions (s : State) (g : Group) : (s.setGroup g).sessions = s.sessions := rfl
@[simp] theorem State.setGroup_pairs (s : State) (g : Group) : (s.setGroup g).pairs = s.pairs := rfl
@[simp] theorem State.setGroup_tlb (s : State) (g : Group) : (s.setGroup g).tlb = s.tlb := rfl
@[simp] theorem State.setGroup_nextUid (s : State) (g : Group) : (s.setGroup g).nextUid = s.nextUid := rfl
@[simp] theorem State.setGroup_nextReq (s : State) (g : Group) : (s.setGroup g).nextReq = s.nextReq := rfl
@[simp] theorem State.setGroup_nextSeq (s : State) (g : Group) : (s.setGroup g).nextSeq = s.nextSeq := rfl
@[simp] theorem State.setGroup_keys (s : State) (g : Group) : (s.setGroup g).keys = s.keys := rfl
@[simp] theorem State.setGroup_mgmt (s : State) (g : Group) : (s.setGroup g).mgmt = s.mgmt := rfl
@[simp] theorem State.setGroup_standby (s : State) (g : Group) : (s.setGroup g).standby = s.standby := rfl
@[simp] theorem State.setGroup_phys (s : State) (g : Group) : (s.setGroup g).phys = s.phys := rfl
@[simp] theorem State.setGroup_frozen (s : State) (g : Group) : (s.setGroup g).frozen = s.frozen := rfl
@[simp] theorem State.setGroup_dead (s : State) (g : Group) : (s.setGroup g).dead = s.dead := rfl
@[simp] theorem State.setGroup_links (s : State) (g : Group) : (s.setGroup g).links = s.links := rfl
@[simp] theorem State.setGroup_fenced (s : State) (g : Group) : (s.setGroup g).fenced = s.fenced := rfl
@[simp] theorem State.setGroup_failed (s : State) (g : Group) : (s.setGroup g).failed = s.failed := rfl
@[simp] theorem State.setGroup_bbox (s : State) (g : Group) : (s.setGroup g).bbox = s.bbox := rfl
@[simp] theorem State.setGroup_bboxSeq (s : State) (g : Group) : (s.setGroup g).bboxSeq = s.bboxSeq := rfl
@[simp] theorem State.setGroup_peerWins (s : State) (g : Group) : (s.setGroup g).peerWins = s.peerWins := rfl
@[simp] theorem State.setGroup_hostQ (s : State) (g : Group) : (s.setGroup g).hostQ = s.hostQ := rfl
@[simp] theorem State.setGroup_hostOut (s : State) (g : Group) : (s.setGroup g).hostOut = s.hostOut := rfl
@[simp] theorem State.setGroup_lastTrap (s : State) (g : Group) : (s.setGroup g).lastTrap = s.lastTrap := rfl

/-! What `State.modGroup` leaves alone. -/
@[simp] theorem State.modGroup_variant (s : State) (c k : Nat) (f : Group → Group) : (s.modGroup c k f).variant = s.variant := by
  unfold State.modGroup; split <;> rfl
@[simp] theorem State.modGroup_clock (s : State) (c k : Nat) (f : Group → Group) : (s.modGroup c k f).clock = s.clock := by
  unfold State.modGroup; split <;> rfl
@[simp] theorem State.modGroup_fclock (s : State) (c k : Nat) (f : Group → Group) : (s.modGroup c k f).fclock = s.fclock := by
  unfold State.modGroup; split <;> rfl
@[simp] theorem State.modGroup_agenda (s : State) (c k : Nat) (f : Group → Group) : (s.modGroup c k f).agenda = s.agenda := by
  unfold State.modGroup; split <;> rfl
@[simp] theorem State.modGroup_cur (s : State) (c k : Nat) (f : Group → Group) : (s.modGroup c k f).cur = s.cur := by
  unfold State.modGroup; split <;> rfl
@[simp] theorem State.modGroup_draws (s : State) (c k : Nat) (f : Group → Group) : (s.modGroup c k f).draws = s.draws := by
  unfold State.modGroup; split <;> rfl
@[simp] theorem State.modGroup_mem (s : State) (c k : Nat) (f : Group → Group) : (s.modGroup c k f).mem = s.mem := by
  unfold State.modGroup; split <;> rfl
@[simp] theorem State.modGroup_tags (s : State) (c k : Nat) (f : Group → Group) : (s.modGroup c k f).tags = s.tags := by
  unfold State.modGroup; split <;> rfl
@[simp] theorem State.modGroup_poison (s : State) (c k : Nat) (f : Group → Group) : (s.modGroup c k f).poison = s.poison := by
  unfold State.modGroup; split <;> rfl
@[simp] theorem State.modGroup_deadPorts (s : State) (c k : Nat) (f : Group → Group) : (s.modGroup c k f).deadPorts = s.deadPorts := by
  unfold State.modGroup; split <;> rfl
@[simp] theorem State.modGroup_parts (s : State) (c k : Nat) (f : Group → Group) : (s.modGroup c k f).parts = s.parts := by
  unfold State.modGroup; split <;> rfl
@[simp] theorem State.modGroup_launches (s : State) (c k : Nat) (f : Group → Group) : (s.modGroup c k f).launches = s.launches := by
  unfold State.modGroup; split <;> rfl
@[simp] theorem State.modGroup_teams (s : State) (c k : Nat) (f : Group → Group) : (s.modGroup c k f).teams = s.teams := by
  unfold State.modGroup; split <;> rfl
@[simp] theorem State.modGroup_left (s : State) (c k : Nat) (f : Group → Group) : (s.modGroup c k f).left = s.left := by
  unfold State.modGroup; split <;> rfl
@[simp] theorem State.modGroup_saved (s : State) (c k : Nat) (f : Group → Group) : (s.modGroup c k f).saved = s.saved := by
  unfold State.modGroup; split <;> rfl
@[simp] theorem State.modGroup_backs (s : State) (c k : Nat) (f : Group → Group) : (s.modGroup c k f).backs = s.backs := by
  unfold State.modGroup; split <;> rfl
@[simp] theorem State.modGroup_pegs (s : State) (c k : Nat) (f : Group → Group) : (s.modGroup c k f).pegs = s.pegs := by
  unfold State.modGroup; split <;> rfl
@[simp] theorem State.modGroup_engines (s : State) (c k : Nat) (f : Group → Group) : (s.modGroup c k f).engines = s.engines := by
  unfold State.modGroup; split <;> rfl
@[simp] theorem State.modGroup_bins (s : State) (c k : Nat) (f : Group → Group) : (s.modGroup c k f).bins = s.bins := by
  unfold State.modGroup; split <;> rfl
@[simp] theorem State.modGroup_sessions (s : State) (c k : Nat) (f : Group → Group) : (s.modGroup c k f).sessions = s.sessions := by
  unfold State.modGroup; split <;> rfl
@[simp] theorem State.modGroup_pairs (s : State) (c k : Nat) (f : Group → Group) : (s.modGroup c k f).pairs = s.pairs := by
  unfold State.modGroup; split <;> rfl
@[simp] theorem State.modGroup_tlb (s : State) (c k : Nat) (f : Group → Group) : (s.modGroup c k f).tlb = s.tlb := by
  unfold State.modGroup; split <;> rfl
@[simp] theorem State.modGroup_nextUid (s : State) (c k : Nat) (f : Group → Group) : (s.modGroup c k f).nextUid = s.nextUid := by
  unfold State.modGroup; split <;> rfl
@[simp] theorem State.modGroup_nextReq (s : State) (c k : Nat) (f : Group → Group) : (s.modGroup c k f).nextReq = s.nextReq := by
  unfold State.modGroup; split <;> rfl
@[simp] theorem State.modGroup_nextSeq (s : State) (c k : Nat) (f : Group → Group) : (s.modGroup c k f).nextSeq = s.nextSeq := by
  unfold State.modGroup; split <;> rfl
@[simp] theorem State.modGroup_keys (s : State) (c k : Nat) (f : Group → Group) : (s.modGroup c k f).keys = s.keys := by
  unfold State.modGroup; split <;> rfl
@[simp] theorem State.modGroup_mgmt (s : State) (c k : Nat) (f : Group → Group) : (s.modGroup c k f).mgmt = s.mgmt := by
  unfold State.modGroup; split <;> rfl
@[simp] theorem State.modGroup_standby (s : State) (c k : Nat) (f : Group → Group) : (s.modGroup c k f).standby = s.standby := by
  unfold State.modGroup; split <;> rfl
@[simp] theorem State.modGroup_phys (s : State) (c k : Nat) (f : Group → Group) : (s.modGroup c k f).phys = s.phys := by
  unfold State.modGroup; split <;> rfl
@[simp] theorem State.modGroup_frozen (s : State) (c k : Nat) (f : Group → Group) : (s.modGroup c k f).frozen = s.frozen := by
  unfold State.modGroup; split <;> rfl
@[simp] theorem State.modGroup_dead (s : State) (c k : Nat) (f : Group → Group) : (s.modGroup c k f).dead = s.dead := by
  unfold State.modGroup; split <;> rfl
@[simp] theorem State.modGroup_links (s : State) (c k : Nat) (f : Group → Group) : (s.modGroup c k f).links = s.links := by
  unfold State.modGroup; split <;> rfl
@[simp] theorem State.modGroup_fenced (s : State) (c k : Nat) (f : Group → Group) : (s.modGroup c k f).fenced = s.fenced := by
  unfold State.modGroup; split <;> rfl
@[simp] theorem State.modGroup_failed (s : State) (c k : Nat) (f : Group → Group) : (s.modGroup c k f).failed = s.failed := by
  unfold State.modGroup; split <;> rfl
@[simp] theorem State.modGroup_bbox (s : State) (c k : Nat) (f : Group → Group) : (s.modGroup c k f).bbox = s.bbox := by
  unfold State.modGroup; split <;> rfl
@[simp] theorem State.modGroup_bboxSeq (s : State) (c k : Nat) (f : Group → Group) : (s.modGroup c k f).bboxSeq = s.bboxSeq := by
  unfold State.modGroup; split <;> rfl
@[simp] theorem State.modGroup_peerWins (s : State) (c k : Nat) (f : Group → Group) : (s.modGroup c k f).peerWins = s.peerWins := by
  unfold State.modGroup; split <;> rfl
@[simp] theorem State.modGroup_hostQ (s : State) (c k : Nat) (f : Group → Group) : (s.modGroup c k f).hostQ = s.hostQ := by
  unfold State.modGroup; split <;> rfl
@[simp] theorem State.modGroup_hostOut (s : State) (c k : Nat) (f : Group → Group) : (s.modGroup c k f).hostOut = s.hostOut := by
  unfold State.modGroup; split <;> rfl
@[simp] theorem State.modGroup_lastTrap (s : State) (c k : Nat) (f : Group → Group) : (s.modGroup c k f).lastTrap = s.lastTrap := by
  unfold State.modGroup; split <;> rfl

/-! What `State.modTeam` leaves alone. -/
@[simp] theorem State.modTeam_variant (s : State) (k : TeamKey) (f : Team → Team) : (s.modTeam k f).variant = s.variant := rfl
@[simp] theorem State.modTeam_clock (s : State) (k : TeamKey) (f : Team → Team) : (s.modTeam k f).clock = s.clock := rfl
@[simp] theorem State.modTeam_fclock (s : State) (k : TeamKey) (f : Team → Team) : (s.modTeam k f).fclock = s.fclock := rfl
@[simp] theorem State.modTeam_agenda (s : State) (k : TeamKey) (f : Team → Team) : (s.modTeam k f).agenda = s.agenda := rfl
@[simp] theorem State.modTeam_cur (s : State) (k : TeamKey) (f : Team → Team) : (s.modTeam k f).cur = s.cur := rfl
@[simp] theorem State.modTeam_draws (s : State) (k : TeamKey) (f : Team → Team) : (s.modTeam k f).draws = s.draws := rfl
@[simp] theorem State.modTeam_mem (s : State) (k : TeamKey) (f : Team → Team) : (s.modTeam k f).mem = s.mem := rfl
@[simp] theorem State.modTeam_tags (s : State) (k : TeamKey) (f : Team → Team) : (s.modTeam k f).tags = s.tags := rfl
@[simp] theorem State.modTeam_poison (s : State) (k : TeamKey) (f : Team → Team) : (s.modTeam k f).poison = s.poison := rfl
@[simp] theorem State.modTeam_deadPorts (s : State) (k : TeamKey) (f : Team → Team) : (s.modTeam k f).deadPorts = s.deadPorts := rfl
@[simp] theorem State.modTeam_parts (s : State) (k : TeamKey) (f : Team → Team) : (s.modTeam k f).parts = s.parts := rfl
@[simp] theorem State.modTeam_launches (s : State) (k : TeamKey) (f : Team → Team) : (s.modTeam k f).launches = s.launches := rfl
@[simp] theorem State.modTeam_groups (s : State) (k : TeamKey) (f : Team → Team) : (s.modTeam k f).groups = s.groups := rfl
@[simp] theorem State.modTeam_left (s : State) (k : TeamKey) (f : Team → Team) : (s.modTeam k f).left = s.left := rfl
@[simp] theorem State.modTeam_saved (s : State) (k : TeamKey) (f : Team → Team) : (s.modTeam k f).saved = s.saved := rfl
@[simp] theorem State.modTeam_backs (s : State) (k : TeamKey) (f : Team → Team) : (s.modTeam k f).backs = s.backs := rfl
@[simp] theorem State.modTeam_pegs (s : State) (k : TeamKey) (f : Team → Team) : (s.modTeam k f).pegs = s.pegs := rfl
@[simp] theorem State.modTeam_engines (s : State) (k : TeamKey) (f : Team → Team) : (s.modTeam k f).engines = s.engines := rfl
@[simp] theorem State.modTeam_bins (s : State) (k : TeamKey) (f : Team → Team) : (s.modTeam k f).bins = s.bins := rfl
@[simp] theorem State.modTeam_sessions (s : State) (k : TeamKey) (f : Team → Team) : (s.modTeam k f).sessions = s.sessions := rfl
@[simp] theorem State.modTeam_pairs (s : State) (k : TeamKey) (f : Team → Team) : (s.modTeam k f).pairs = s.pairs := rfl
@[simp] theorem State.modTeam_tlb (s : State) (k : TeamKey) (f : Team → Team) : (s.modTeam k f).tlb = s.tlb := rfl
@[simp] theorem State.modTeam_nextUid (s : State) (k : TeamKey) (f : Team → Team) : (s.modTeam k f).nextUid = s.nextUid := rfl
@[simp] theorem State.modTeam_nextReq (s : State) (k : TeamKey) (f : Team → Team) : (s.modTeam k f).nextReq = s.nextReq := rfl
@[simp] theorem State.modTeam_nextSeq (s : State) (k : TeamKey) (f : Team → Team) : (s.modTeam k f).nextSeq = s.nextSeq := rfl
@[simp] theorem State.modTeam_keys (s : State) (k : TeamKey) (f : Team → Team) : (s.modTeam k f).keys = s.keys := rfl
@[simp] theorem State.modTeam_mgmt (s : State) (k : TeamKey) (f : Team → Team) : (s.modTeam k f).mgmt = s.mgmt := rfl
@[simp] theorem State.modTeam_standby (s : State) (k : TeamKey) (f : Team → Team) : (s.modTeam k f).standby = s.standby := rfl
@[simp] theorem State.modTeam_phys (s : State) (k : TeamKey) (f : Team → Team) : (s.modTeam k f).phys = s.phys := rfl
@[simp] theorem State.modTeam_frozen (s : State) (k : TeamKey) (f : Team → Team) : (s.modTeam k f).frozen = s.frozen := rfl
@[simp] theorem State.modTeam_dead (s : State) (k : TeamKey) (f : Team → Team) : (s.modTeam k f).dead = s.dead := rfl
@[simp] theorem State.modTeam_links (s : State) (k : TeamKey) (f : Team → Team) : (s.modTeam k f).links = s.links := rfl
@[simp] theorem State.modTeam_fenced (s : State) (k : TeamKey) (f : Team → Team) : (s.modTeam k f).fenced = s.fenced := rfl
@[simp] theorem State.modTeam_failed (s : State) (k : TeamKey) (f : Team → Team) : (s.modTeam k f).failed = s.failed := rfl
@[simp] theorem State.modTeam_bbox (s : State) (k : TeamKey) (f : Team → Team) : (s.modTeam k f).bbox = s.bbox := rfl
@[simp] theorem State.modTeam_bboxSeq (s : State) (k : TeamKey) (f : Team → Team) : (s.modTeam k f).bboxSeq = s.bboxSeq := rfl
@[simp] theorem State.modTeam_peerWins (s : State) (k : TeamKey) (f : Team → Team) : (s.modTeam k f).peerWins = s.peerWins := rfl
@[simp] theorem State.modTeam_hostQ (s : State) (k : TeamKey) (f : Team → Team) : (s.modTeam k f).hostQ = s.hostQ := rfl
@[simp] theorem State.modTeam_hostOut (s : State) (k : TeamKey) (f : Team → Team) : (s.modTeam k f).hostOut = s.hostOut := rfl
@[simp] theorem State.modTeam_lastTrap (s : State) (k : TeamKey) (f : Team → Team) : (s.modTeam k f).lastTrap = s.lastTrap := rfl

/-! What `State.modLaunch` leaves alone. -/
@[simp] theorem State.modLaunch_variant (s : State) (n : Nat) (f : Launch → Launch) : (s.modLaunch n f).variant = s.variant := rfl
@[simp] theorem State.modLaunch_clock (s : State) (n : Nat) (f : Launch → Launch) : (s.modLaunch n f).clock = s.clock := rfl
@[simp] theorem State.modLaunch_fclock (s : State) (n : Nat) (f : Launch → Launch) : (s.modLaunch n f).fclock = s.fclock := rfl
@[simp] theorem State.modLaunch_agenda (s : State) (n : Nat) (f : Launch → Launch) : (s.modLaunch n f).agenda = s.agenda := rfl
@[simp] theorem State.modLaunch_cur (s : State) (n : Nat) (f : Launch → Launch) : (s.modLaunch n f).cur = s.cur := rfl
@[simp] theorem State.modLaunch_draws (s : State) (n : Nat) (f : Launch → Launch) : (s.modLaunch n f).draws = s.draws := rfl
@[simp] theorem State.modLaunch_mem (s : State) (n : Nat) (f : Launch → Launch) : (s.modLaunch n f).mem = s.mem := rfl
@[simp] theorem State.modLaunch_tags (s : State) (n : Nat) (f : Launch → Launch) : (s.modLaunch n f).tags = s.tags := rfl
@[simp] theorem State.modLaunch_poison (s : State) (n : Nat) (f : Launch → Launch) : (s.modLaunch n f).poison = s.poison := rfl
@[simp] theorem State.modLaunch_deadPorts (s : State) (n : Nat) (f : Launch → Launch) : (s.modLaunch n f).deadPorts = s.deadPorts := rfl
@[simp] theorem State.modLaunch_parts (s : State) (n : Nat) (f : Launch → Launch) : (s.modLaunch n f).parts = s.parts := rfl
@[simp] theorem State.modLaunch_teams (s : State) (n : Nat) (f : Launch → Launch) : (s.modLaunch n f).teams = s.teams := rfl
@[simp] theorem State.modLaunch_groups (s : State) (n : Nat) (f : Launch → Launch) : (s.modLaunch n f).groups = s.groups := rfl
@[simp] theorem State.modLaunch_left (s : State) (n : Nat) (f : Launch → Launch) : (s.modLaunch n f).left = s.left := rfl
@[simp] theorem State.modLaunch_saved (s : State) (n : Nat) (f : Launch → Launch) : (s.modLaunch n f).saved = s.saved := rfl
@[simp] theorem State.modLaunch_backs (s : State) (n : Nat) (f : Launch → Launch) : (s.modLaunch n f).backs = s.backs := rfl
@[simp] theorem State.modLaunch_pegs (s : State) (n : Nat) (f : Launch → Launch) : (s.modLaunch n f).pegs = s.pegs := rfl
@[simp] theorem State.modLaunch_engines (s : State) (n : Nat) (f : Launch → Launch) : (s.modLaunch n f).engines = s.engines := rfl
@[simp] theorem State.modLaunch_bins (s : State) (n : Nat) (f : Launch → Launch) : (s.modLaunch n f).bins = s.bins := rfl
@[simp] theorem State.modLaunch_sessions (s : State) (n : Nat) (f : Launch → Launch) : (s.modLaunch n f).sessions = s.sessions := rfl
@[simp] theorem State.modLaunch_pairs (s : State) (n : Nat) (f : Launch → Launch) : (s.modLaunch n f).pairs = s.pairs := rfl
@[simp] theorem State.modLaunch_tlb (s : State) (n : Nat) (f : Launch → Launch) : (s.modLaunch n f).tlb = s.tlb := rfl
@[simp] theorem State.modLaunch_nextUid (s : State) (n : Nat) (f : Launch → Launch) : (s.modLaunch n f).nextUid = s.nextUid := rfl
@[simp] theorem State.modLaunch_nextReq (s : State) (n : Nat) (f : Launch → Launch) : (s.modLaunch n f).nextReq = s.nextReq := rfl
@[simp] theorem State.modLaunch_nextSeq (s : State) (n : Nat) (f : Launch → Launch) : (s.modLaunch n f).nextSeq = s.nextSeq := rfl
@[simp] theorem State.modLaunch_keys (s : State) (n : Nat) (f : Launch → Launch) : (s.modLaunch n f).keys = s.keys := rfl
@[simp] theorem State.modLaunch_mgmt (s : State) (n : Nat) (f : Launch → Launch) : (s.modLaunch n f).mgmt = s.mgmt := rfl
@[simp] theorem State.modLaunch_standby (s : State) (n : Nat) (f : Launch → Launch) : (s.modLaunch n f).standby = s.standby := rfl
@[simp] theorem State.modLaunch_phys (s : State) (n : Nat) (f : Launch → Launch) : (s.modLaunch n f).phys = s.phys := rfl
@[simp] theorem State.modLaunch_frozen (s : State) (n : Nat) (f : Launch → Launch) : (s.modLaunch n f).frozen = s.frozen := rfl
@[simp] theorem State.modLaunch_dead (s : State) (n : Nat) (f : Launch → Launch) : (s.modLaunch n f).dead = s.dead := rfl
@[simp] theorem State.modLaunch_links (s : State) (n : Nat) (f : Launch → Launch) : (s.modLaunch n f).links = s.links := rfl
@[simp] theorem State.modLaunch_fenced (s : State) (n : Nat) (f : Launch → Launch) : (s.modLaunch n f).fenced = s.fenced := rfl
@[simp] theorem State.modLaunch_failed (s : State) (n : Nat) (f : Launch → Launch) : (s.modLaunch n f).failed = s.failed := rfl
@[simp] theorem State.modLaunch_bbox (s : State) (n : Nat) (f : Launch → Launch) : (s.modLaunch n f).bbox = s.bbox := rfl
@[simp] theorem State.modLaunch_bboxSeq (s : State) (n : Nat) (f : Launch → Launch) : (s.modLaunch n f).bboxSeq = s.bboxSeq := rfl
@[simp] theorem State.modLaunch_peerWins (s : State) (n : Nat) (f : Launch → Launch) : (s.modLaunch n f).peerWins = s.peerWins := rfl
@[simp] theorem State.modLaunch_hostQ (s : State) (n : Nat) (f : Launch → Launch) : (s.modLaunch n f).hostQ = s.hostQ := rfl
@[simp] theorem State.modLaunch_hostOut (s : State) (n : Nat) (f : Launch → Launch) : (s.modLaunch n f).hostOut = s.hostOut := rfl
@[simp] theorem State.modLaunch_lastTrap (s : State) (n : Nat) (f : Launch → Launch) : (s.modLaunch n f).lastTrap = s.lastTrap := rfl

/-! What `State.modPart` leaves alone. -/
@[simp] theorem State.modPart_variant (s : State) (n : Nat) (f : Partition → Partition) : (s.modPart n f).variant = s.variant := rfl
@[simp] theorem State.modPart_clock (s : State) (n : Nat) (f : Partition → Partition) : (s.modPart n f).clock = s.clock := rfl
@[simp] theorem State.modPart_fclock (s : State) (n : Nat) (f : Partition → Partition) : (s.modPart n f).fclock = s.fclock := rfl
@[simp] theorem State.modPart_agenda (s : State) (n : Nat) (f : Partition → Partition) : (s.modPart n f).agenda = s.agenda := rfl
@[simp] theorem State.modPart_cur (s : State) (n : Nat) (f : Partition → Partition) : (s.modPart n f).cur = s.cur := rfl
@[simp] theorem State.modPart_draws (s : State) (n : Nat) (f : Partition → Partition) : (s.modPart n f).draws = s.draws := rfl
@[simp] theorem State.modPart_mem (s : State) (n : Nat) (f : Partition → Partition) : (s.modPart n f).mem = s.mem := rfl
@[simp] theorem State.modPart_tags (s : State) (n : Nat) (f : Partition → Partition) : (s.modPart n f).tags = s.tags := rfl
@[simp] theorem State.modPart_poison (s : State) (n : Nat) (f : Partition → Partition) : (s.modPart n f).poison = s.poison := rfl
@[simp] theorem State.modPart_deadPorts (s : State) (n : Nat) (f : Partition → Partition) : (s.modPart n f).deadPorts = s.deadPorts := rfl
@[simp] theorem State.modPart_launches (s : State) (n : Nat) (f : Partition → Partition) : (s.modPart n f).launches = s.launches := rfl
@[simp] theorem State.modPart_teams (s : State) (n : Nat) (f : Partition → Partition) : (s.modPart n f).teams = s.teams := rfl
@[simp] theorem State.modPart_groups (s : State) (n : Nat) (f : Partition → Partition) : (s.modPart n f).groups = s.groups := rfl
@[simp] theorem State.modPart_left (s : State) (n : Nat) (f : Partition → Partition) : (s.modPart n f).left = s.left := rfl
@[simp] theorem State.modPart_saved (s : State) (n : Nat) (f : Partition → Partition) : (s.modPart n f).saved = s.saved := rfl
@[simp] theorem State.modPart_backs (s : State) (n : Nat) (f : Partition → Partition) : (s.modPart n f).backs = s.backs := rfl
@[simp] theorem State.modPart_pegs (s : State) (n : Nat) (f : Partition → Partition) : (s.modPart n f).pegs = s.pegs := rfl
@[simp] theorem State.modPart_engines (s : State) (n : Nat) (f : Partition → Partition) : (s.modPart n f).engines = s.engines := rfl
@[simp] theorem State.modPart_bins (s : State) (n : Nat) (f : Partition → Partition) : (s.modPart n f).bins = s.bins := rfl
@[simp] theorem State.modPart_sessions (s : State) (n : Nat) (f : Partition → Partition) : (s.modPart n f).sessions = s.sessions := rfl
@[simp] theorem State.modPart_pairs (s : State) (n : Nat) (f : Partition → Partition) : (s.modPart n f).pairs = s.pairs := rfl
@[simp] theorem State.modPart_tlb (s : State) (n : Nat) (f : Partition → Partition) : (s.modPart n f).tlb = s.tlb := rfl
@[simp] theorem State.modPart_nextUid (s : State) (n : Nat) (f : Partition → Partition) : (s.modPart n f).nextUid = s.nextUid := rfl
@[simp] theorem State.modPart_nextReq (s : State) (n : Nat) (f : Partition → Partition) : (s.modPart n f).nextReq = s.nextReq := rfl
@[simp] theorem State.modPart_nextSeq (s : State) (n : Nat) (f : Partition → Partition) : (s.modPart n f).nextSeq = s.nextSeq := rfl
@[simp] theorem State.modPart_keys (s : State) (n : Nat) (f : Partition → Partition) : (s.modPart n f).keys = s.keys := rfl
@[simp] theorem State.modPart_mgmt (s : State) (n : Nat) (f : Partition → Partition) : (s.modPart n f).mgmt = s.mgmt := rfl
@[simp] theorem State.modPart_standby (s : State) (n : Nat) (f : Partition → Partition) : (s.modPart n f).standby = s.standby := rfl
@[simp] theorem State.modPart_phys (s : State) (n : Nat) (f : Partition → Partition) : (s.modPart n f).phys = s.phys := rfl
@[simp] theorem State.modPart_frozen (s : State) (n : Nat) (f : Partition → Partition) : (s.modPart n f).frozen = s.frozen := rfl
@[simp] theorem State.modPart_dead (s : State) (n : Nat) (f : Partition → Partition) : (s.modPart n f).dead = s.dead := rfl
@[simp] theorem State.modPart_links (s : State) (n : Nat) (f : Partition → Partition) : (s.modPart n f).links = s.links := rfl
@[simp] theorem State.modPart_fenced (s : State) (n : Nat) (f : Partition → Partition) : (s.modPart n f).fenced = s.fenced := rfl
@[simp] theorem State.modPart_failed (s : State) (n : Nat) (f : Partition → Partition) : (s.modPart n f).failed = s.failed := rfl
@[simp] theorem State.modPart_bbox (s : State) (n : Nat) (f : Partition → Partition) : (s.modPart n f).bbox = s.bbox := rfl
@[simp] theorem State.modPart_bboxSeq (s : State) (n : Nat) (f : Partition → Partition) : (s.modPart n f).bboxSeq = s.bboxSeq := rfl
@[simp] theorem State.modPart_peerWins (s : State) (n : Nat) (f : Partition → Partition) : (s.modPart n f).peerWins = s.peerWins := rfl
@[simp] theorem State.modPart_hostQ (s : State) (n : Nat) (f : Partition → Partition) : (s.modPart n f).hostQ = s.hostQ := rfl
@[simp] theorem State.modPart_hostOut (s : State) (n : Nat) (f : Partition → Partition) : (s.modPart n f).hostOut = s.hostOut := rfl
@[simp] theorem State.modPart_lastTrap (s : State) (n : Nat) (f : Partition → Partition) : (s.modPart n f).lastTrap = s.lastTrap := rfl

/-! What `State.irq` leaves alone. -/
@[simp] theorem State.irq_variant (s : State) (fn : Option Nat) (v : Nat) : (s.irq fn v).variant = s.variant := rfl
@[simp] theorem State.irq_clock (s : State) (fn : Option Nat) (v : Nat) : (s.irq fn v).clock = s.clock := rfl
@[simp] theorem State.irq_fclock (s : State) (fn : Option Nat) (v : Nat) : (s.irq fn v).fclock = s.fclock := rfl
@[simp] theorem State.irq_agenda (s : State) (fn : Option Nat) (v : Nat) : (s.irq fn v).agenda = s.agenda := rfl
@[simp] theorem State.irq_cur (s : State) (fn : Option Nat) (v : Nat) : (s.irq fn v).cur = s.cur := rfl
@[simp] theorem State.irq_draws (s : State) (fn : Option Nat) (v : Nat) : (s.irq fn v).draws = s.draws := rfl
@[simp] theorem State.irq_mem (s : State) (fn : Option Nat) (v : Nat) : (s.irq fn v).mem = s.mem := rfl
@[simp] theorem State.irq_tags (s : State) (fn : Option Nat) (v : Nat) : (s.irq fn v).tags = s.tags := rfl
@[simp] theorem State.irq_poison (s : State) (fn : Option Nat) (v : Nat) : (s.irq fn v).poison = s.poison := rfl
@[simp] theorem State.irq_deadPorts (s : State) (fn : Option Nat) (v : Nat) : (s.irq fn v).deadPorts = s.deadPorts := rfl
@[simp] theorem State.irq_parts (s : State) (fn : Option Nat) (v : Nat) : (s.irq fn v).parts = s.parts := rfl
@[simp] theorem State.irq_launches (s : State) (fn : Option Nat) (v : Nat) : (s.irq fn v).launches = s.launches := rfl
@[simp] theorem State.irq_teams (s : State) (fn : Option Nat) (v : Nat) : (s.irq fn v).teams = s.teams := rfl
@[simp] theorem State.irq_groups (s : State) (fn : Option Nat) (v : Nat) : (s.irq fn v).groups = s.groups := rfl
@[simp] theorem State.irq_left (s : State) (fn : Option Nat) (v : Nat) : (s.irq fn v).left = s.left := rfl
@[simp] theorem State.irq_saved (s : State) (fn : Option Nat) (v : Nat) : (s.irq fn v).saved = s.saved := rfl
@[simp] theorem State.irq_backs (s : State) (fn : Option Nat) (v : Nat) : (s.irq fn v).backs = s.backs := rfl
@[simp] theorem State.irq_pegs (s : State) (fn : Option Nat) (v : Nat) : (s.irq fn v).pegs = s.pegs := rfl
@[simp] theorem State.irq_engines (s : State) (fn : Option Nat) (v : Nat) : (s.irq fn v).engines = s.engines := rfl
@[simp] theorem State.irq_bins (s : State) (fn : Option Nat) (v : Nat) : (s.irq fn v).bins = s.bins := rfl
@[simp] theorem State.irq_sessions (s : State) (fn : Option Nat) (v : Nat) : (s.irq fn v).sessions = s.sessions := rfl
@[simp] theorem State.irq_pairs (s : State) (fn : Option Nat) (v : Nat) : (s.irq fn v).pairs = s.pairs := rfl
@[simp] theorem State.irq_tlb (s : State) (fn : Option Nat) (v : Nat) : (s.irq fn v).tlb = s.tlb := rfl
@[simp] theorem State.irq_nextUid (s : State) (fn : Option Nat) (v : Nat) : (s.irq fn v).nextUid = s.nextUid := rfl
@[simp] theorem State.irq_nextReq (s : State) (fn : Option Nat) (v : Nat) : (s.irq fn v).nextReq = s.nextReq := rfl
@[simp] theorem State.irq_nextSeq (s : State) (fn : Option Nat) (v : Nat) : (s.irq fn v).nextSeq = s.nextSeq := rfl
@[simp] theorem State.irq_keys (s : State) (fn : Option Nat) (v : Nat) : (s.irq fn v).keys = s.keys := rfl
@[simp] theorem State.irq_mgmt (s : State) (fn : Option Nat) (v : Nat) : (s.irq fn v).mgmt = s.mgmt := rfl
@[simp] theorem State.irq_standby (s : State) (fn : Option Nat) (v : Nat) : (s.irq fn v).standby = s.standby := rfl
@[simp] theorem State.irq_phys (s : State) (fn : Option Nat) (v : Nat) : (s.irq fn v).phys = s.phys := rfl
@[simp] theorem State.irq_frozen (s : State) (fn : Option Nat) (v : Nat) : (s.irq fn v).frozen = s.frozen := rfl
@[simp] theorem State.irq_dead (s : State) (fn : Option Nat) (v : Nat) : (s.irq fn v).dead = s.dead := rfl
@[simp] theorem State.irq_links (s : State) (fn : Option Nat) (v : Nat) : (s.irq fn v).links = s.links := rfl
@[simp] theorem State.irq_fenced (s : State) (fn : Option Nat) (v : Nat) : (s.irq fn v).fenced = s.fenced := rfl
@[simp] theorem State.irq_failed (s : State) (fn : Option Nat) (v : Nat) : (s.irq fn v).failed = s.failed := rfl
@[simp] theorem State.irq_bbox (s : State) (fn : Option Nat) (v : Nat) : (s.irq fn v).bbox = s.bbox := rfl
@[simp] theorem State.irq_bboxSeq (s : State) (fn : Option Nat) (v : Nat) : (s.irq fn v).bboxSeq = s.bboxSeq := rfl
@[simp] theorem State.irq_peerWins (s : State) (fn : Option Nat) (v : Nat) : (s.irq fn v).peerWins = s.peerWins := rfl
@[simp] theorem State.irq_hostQ (s : State) (fn : Option Nat) (v : Nat) : (s.irq fn v).hostQ = s.hostQ := rfl
@[simp] theorem State.irq_lastTrap (s : State) (fn : Option Nat) (v : Nat) : (s.irq fn v).lastTrap = s.lastTrap := rfl

/-! What `State.blackBox` leaves alone. -/
@[simp] theorem State.blackBox_variant (s : State) (d : Nat) (ty : BitVec 8) (p : Nat) (l : List Nat) : (s.blackBox d ty p l).variant = s.variant := rfl
@[simp] theorem State.blackBox_clock (s : State) (d : Nat) (ty : BitVec 8) (p : Nat) (l : List Nat) : (s.blackBox d ty p l).clock = s.clock := rfl
@[simp] theorem State.blackBox_fclock (s : State) (d : Nat) (ty : BitVec 8) (p : Nat) (l : List Nat) : (s.blackBox d ty p l).fclock = s.fclock := rfl
@[simp] theorem State.blackBox_agenda (s : State) (d : Nat) (ty : BitVec 8) (p : Nat) (l : List Nat) : (s.blackBox d ty p l).agenda = s.agenda := rfl
@[simp] theorem State.blackBox_cur (s : State) (d : Nat) (ty : BitVec 8) (p : Nat) (l : List Nat) : (s.blackBox d ty p l).cur = s.cur := rfl
@[simp] theorem State.blackBox_draws (s : State) (d : Nat) (ty : BitVec 8) (p : Nat) (l : List Nat) : (s.blackBox d ty p l).draws = s.draws := rfl
@[simp] theorem State.blackBox_mem (s : State) (d : Nat) (ty : BitVec 8) (p : Nat) (l : List Nat) : (s.blackBox d ty p l).mem = s.mem := rfl
@[simp] theorem State.blackBox_tags (s : State) (d : Nat) (ty : BitVec 8) (p : Nat) (l : List Nat) : (s.blackBox d ty p l).tags = s.tags := rfl
@[simp] theorem State.blackBox_poison (s : State) (d : Nat) (ty : BitVec 8) (p : Nat) (l : List Nat) : (s.blackBox d ty p l).poison = s.poison := rfl
@[simp] theorem State.blackBox_deadPorts (s : State) (d : Nat) (ty : BitVec 8) (p : Nat) (l : List Nat) : (s.blackBox d ty p l).deadPorts = s.deadPorts := rfl
@[simp] theorem State.blackBox_parts (s : State) (d : Nat) (ty : BitVec 8) (p : Nat) (l : List Nat) : (s.blackBox d ty p l).parts = s.parts := rfl
@[simp] theorem State.blackBox_launches (s : State) (d : Nat) (ty : BitVec 8) (p : Nat) (l : List Nat) : (s.blackBox d ty p l).launches = s.launches := rfl
@[simp] theorem State.blackBox_teams (s : State) (d : Nat) (ty : BitVec 8) (p : Nat) (l : List Nat) : (s.blackBox d ty p l).teams = s.teams := rfl
@[simp] theorem State.blackBox_groups (s : State) (d : Nat) (ty : BitVec 8) (p : Nat) (l : List Nat) : (s.blackBox d ty p l).groups = s.groups := rfl
@[simp] theorem State.blackBox_left (s : State) (d : Nat) (ty : BitVec 8) (p : Nat) (l : List Nat) : (s.blackBox d ty p l).left = s.left := rfl
@[simp] theorem State.blackBox_saved (s : State) (d : Nat) (ty : BitVec 8) (p : Nat) (l : List Nat) : (s.blackBox d ty p l).saved = s.saved := rfl
@[simp] theorem State.blackBox_backs (s : State) (d : Nat) (ty : BitVec 8) (p : Nat) (l : List Nat) : (s.blackBox d ty p l).backs = s.backs := rfl
@[simp] theorem State.blackBox_pegs (s : State) (d : Nat) (ty : BitVec 8) (p : Nat) (l : List Nat) : (s.blackBox d ty p l).pegs = s.pegs := rfl
@[simp] theorem State.blackBox_engines (s : State) (d : Nat) (ty : BitVec 8) (p : Nat) (l : List Nat) : (s.blackBox d ty p l).engines = s.engines := rfl
@[simp] theorem State.blackBox_bins (s : State) (d : Nat) (ty : BitVec 8) (p : Nat) (l : List Nat) : (s.blackBox d ty p l).bins = s.bins := rfl
@[simp] theorem State.blackBox_sessions (s : State) (d : Nat) (ty : BitVec 8) (p : Nat) (l : List Nat) : (s.blackBox d ty p l).sessions = s.sessions := rfl
@[simp] theorem State.blackBox_pairs (s : State) (d : Nat) (ty : BitVec 8) (p : Nat) (l : List Nat) : (s.blackBox d ty p l).pairs = s.pairs := rfl
@[simp] theorem State.blackBox_tlb (s : State) (d : Nat) (ty : BitVec 8) (p : Nat) (l : List Nat) : (s.blackBox d ty p l).tlb = s.tlb := rfl
@[simp] theorem State.blackBox_nextUid (s : State) (d : Nat) (ty : BitVec 8) (p : Nat) (l : List Nat) : (s.blackBox d ty p l).nextUid = s.nextUid := rfl
@[simp] theorem State.blackBox_nextReq (s : State) (d : Nat) (ty : BitVec 8) (p : Nat) (l : List Nat) : (s.blackBox d ty p l).nextReq = s.nextReq := rfl
@[simp] theorem State.blackBox_nextSeq (s : State) (d : Nat) (ty : BitVec 8) (p : Nat) (l : List Nat) : (s.blackBox d ty p l).nextSeq = s.nextSeq := rfl
@[simp] theorem State.blackBox_keys (s : State) (d : Nat) (ty : BitVec 8) (p : Nat) (l : List Nat) : (s.blackBox d ty p l).keys = s.keys := rfl
@[simp] theorem State.blackBox_mgmt (s : State) (d : Nat) (ty : BitVec 8) (p : Nat) (l : List Nat) : (s.blackBox d ty p l).mgmt = s.mgmt := rfl
@[simp] theorem State.blackBox_standby (s : State) (d : Nat) (ty : BitVec 8) (p : Nat) (l : List Nat) : (s.blackBox d ty p l).standby = s.standby := rfl
@[simp] theorem State.blackBox_phys (s : State) (d : Nat) (ty : BitVec 8) (p : Nat) (l : List Nat) : (s.blackBox d ty p l).phys = s.phys := rfl
@[simp] theorem State.blackBox_frozen (s : State) (d : Nat) (ty : BitVec 8) (p : Nat) (l : List Nat) : (s.blackBox d ty p l).frozen = s.frozen := rfl
@[simp] theorem State.blackBox_dead (s : State) (d : Nat) (ty : BitVec 8) (p : Nat) (l : List Nat) : (s.blackBox d ty p l).dead = s.dead := rfl
@[simp] theorem State.blackBox_links (s : State) (d : Nat) (ty : BitVec 8) (p : Nat) (l : List Nat) : (s.blackBox d ty p l).links = s.links := rfl
@[simp] theorem State.blackBox_fenced (s : State) (d : Nat) (ty : BitVec 8) (p : Nat) (l : List Nat) : (s.blackBox d ty p l).fenced = s.fenced := rfl
@[simp] theorem State.blackBox_failed (s : State) (d : Nat) (ty : BitVec 8) (p : Nat) (l : List Nat) : (s.blackBox d ty p l).failed = s.failed := rfl
@[simp] theorem State.blackBox_peerWins (s : State) (d : Nat) (ty : BitVec 8) (p : Nat) (l : List Nat) : (s.blackBox d ty p l).peerWins = s.peerWins := rfl
@[simp] theorem State.blackBox_hostQ (s : State) (d : Nat) (ty : BitVec 8) (p : Nat) (l : List Nat) : (s.blackBox d ty p l).hostQ = s.hostQ := rfl
@[simp] theorem State.blackBox_hostOut (s : State) (d : Nat) (ty : BitVec 8) (p : Nat) (l : List Nat) : (s.blackBox d ty p l).hostOut = s.hostOut := rfl
@[simp] theorem State.blackBox_lastTrap (s : State) (d : Nat) (ty : BitVec 8) (p : Nat) (l : List Nat) : (s.blackBox d ty p l).lastTrap = s.lastTrap := rfl

/-! What `State.haltPart` leaves alone. -/
@[simp] theorem State.haltPart_variant (s : State) (n c : Nat) : (s.haltPart n c).variant = s.variant := by
  unfold State.haltPart; split <;> [rfl; split <;> simp]
@[simp] theorem State.haltPart_clock (s : State) (n c : Nat) : (s.haltPart n c).clock = s.clock := by
  unfold State.haltPart; split <;> [rfl; split <;> simp]
@[simp] theorem State.haltPart_fclock (s : State) (n c : Nat) : (s.haltPart n c).fclock = s.fclock := by
  unfold State.haltPart; split <;> [rfl; split <;> simp]
@[simp] theorem State.haltPart_agenda (s : State) (n c : Nat) : (s.haltPart n c).agenda = s.agenda := by
  unfold State.haltPart; split <;> [rfl; split <;> simp]
@[simp] theorem State.haltPart_cur (s : State) (n c : Nat) : (s.haltPart n c).cur = s.cur := by
  unfold State.haltPart; split <;> [rfl; split <;> simp]
@[simp] theorem State.haltPart_draws (s : State) (n c : Nat) : (s.haltPart n c).draws = s.draws := by
  unfold State.haltPart; split <;> [rfl; split <;> simp]
@[simp] theorem State.haltPart_mem (s : State) (n c : Nat) : (s.haltPart n c).mem = s.mem := by
  unfold State.haltPart; split <;> [rfl; split <;> simp]
@[simp] theorem State.haltPart_tags (s : State) (n c : Nat) : (s.haltPart n c).tags = s.tags := by
  unfold State.haltPart; split <;> [rfl; split <;> simp]
@[simp] theorem State.haltPart_poison (s : State) (n c : Nat) : (s.haltPart n c).poison = s.poison := by
  unfold State.haltPart; split <;> [rfl; split <;> simp]
@[simp] theorem State.haltPart_deadPorts (s : State) (n c : Nat) : (s.haltPart n c).deadPorts = s.deadPorts := by
  unfold State.haltPart; split <;> [rfl; split <;> simp]
@[simp] theorem State.haltPart_launches (s : State) (n c : Nat) : (s.haltPart n c).launches = s.launches := by
  unfold State.haltPart; split <;> [rfl; split <;> simp]
@[simp] theorem State.haltPart_teams (s : State) (n c : Nat) : (s.haltPart n c).teams = s.teams := by
  unfold State.haltPart; split <;> [rfl; split <;> simp]
@[simp] theorem State.haltPart_groups (s : State) (n c : Nat) : (s.haltPart n c).groups = s.groups := by
  unfold State.haltPart; split <;> [rfl; split <;> simp]
@[simp] theorem State.haltPart_left (s : State) (n c : Nat) : (s.haltPart n c).left = s.left := by
  unfold State.haltPart; split <;> [rfl; split <;> simp]
@[simp] theorem State.haltPart_saved (s : State) (n c : Nat) : (s.haltPart n c).saved = s.saved := by
  unfold State.haltPart; split <;> [rfl; split <;> simp]
@[simp] theorem State.haltPart_backs (s : State) (n c : Nat) : (s.haltPart n c).backs = s.backs := by
  unfold State.haltPart; split <;> [rfl; split <;> simp]
@[simp] theorem State.haltPart_pegs (s : State) (n c : Nat) : (s.haltPart n c).pegs = s.pegs := by
  unfold State.haltPart; split <;> [rfl; split <;> simp]
@[simp] theorem State.haltPart_engines (s : State) (n c : Nat) : (s.haltPart n c).engines = s.engines := by
  unfold State.haltPart; split <;> [rfl; split <;> simp]
@[simp] theorem State.haltPart_bins (s : State) (n c : Nat) : (s.haltPart n c).bins = s.bins := by
  unfold State.haltPart; split <;> [rfl; split <;> simp]
@[simp] theorem State.haltPart_sessions (s : State) (n c : Nat) : (s.haltPart n c).sessions = s.sessions := by
  unfold State.haltPart; split <;> [rfl; split <;> simp]
@[simp] theorem State.haltPart_pairs (s : State) (n c : Nat) : (s.haltPart n c).pairs = s.pairs := by
  unfold State.haltPart; split <;> [rfl; split <;> simp]
@[simp] theorem State.haltPart_tlb (s : State) (n c : Nat) : (s.haltPart n c).tlb = s.tlb := by
  unfold State.haltPart; split <;> [rfl; split <;> simp]
@[simp] theorem State.haltPart_nextUid (s : State) (n c : Nat) : (s.haltPart n c).nextUid = s.nextUid := by
  unfold State.haltPart; split <;> [rfl; split <;> simp]
@[simp] theorem State.haltPart_nextReq (s : State) (n c : Nat) : (s.haltPart n c).nextReq = s.nextReq := by
  unfold State.haltPart; split <;> [rfl; split <;> simp]
@[simp] theorem State.haltPart_nextSeq (s : State) (n c : Nat) : (s.haltPart n c).nextSeq = s.nextSeq := by
  unfold State.haltPart; split <;> [rfl; split <;> simp]
@[simp] theorem State.haltPart_keys (s : State) (n c : Nat) : (s.haltPart n c).keys = s.keys := by
  unfold State.haltPart; split <;> [rfl; split <;> simp]
@[simp] theorem State.haltPart_mgmt (s : State) (n c : Nat) : (s.haltPart n c).mgmt = s.mgmt := by
  unfold State.haltPart; split <;> [rfl; split <;> simp]
@[simp] theorem State.haltPart_standby (s : State) (n c : Nat) : (s.haltPart n c).standby = s.standby := by
  unfold State.haltPart; split <;> [rfl; split <;> simp]
@[simp] theorem State.haltPart_phys (s : State) (n c : Nat) : (s.haltPart n c).phys = s.phys := by
  unfold State.haltPart; split <;> [rfl; split <;> simp]
@[simp] theorem State.haltPart_frozen (s : State) (n c : Nat) : (s.haltPart n c).frozen = s.frozen := by
  unfold State.haltPart; split <;> [rfl; split <;> simp]
@[simp] theorem State.haltPart_dead (s : State) (n c : Nat) : (s.haltPart n c).dead = s.dead := by
  unfold State.haltPart; split <;> [rfl; split <;> simp]
@[simp] theorem State.haltPart_links (s : State) (n c : Nat) : (s.haltPart n c).links = s.links := by
  unfold State.haltPart; split <;> [rfl; split <;> simp]
@[simp] theorem State.haltPart_fenced (s : State) (n c : Nat) : (s.haltPart n c).fenced = s.fenced := by
  unfold State.haltPart; split <;> [rfl; split <;> simp]
@[simp] theorem State.haltPart_failed (s : State) (n c : Nat) : (s.haltPart n c).failed = s.failed := by
  unfold State.haltPart; split <;> [rfl; split <;> simp]
@[simp] theorem State.haltPart_peerWins (s : State) (n c : Nat) : (s.haltPart n c).peerWins = s.peerWins := by
  unfold State.haltPart; split <;> [rfl; split <;> simp]
@[simp] theorem State.haltPart_hostQ (s : State) (n c : Nat) : (s.haltPart n c).hostQ = s.hostQ := by
  unfold State.haltPart; split <;> [rfl; split <;> simp]
@[simp] theorem State.haltPart_lastTrap (s : State) (n c : Nat) : (s.haltPart n c).lastTrap = s.lastTrap := by
  unfold State.haltPart; split <;> [rfl; split <;> simp]

/-! What `Group.setFrag` leaves alone. -/
@[simp] theorem Group.setFrag_part (g : Group) (n : Nat) (f : Frag) : (g.setFrag n f).part = g.part := rfl
@[simp] theorem Group.setFrag_team (g : Group) (n : Nat) (f : Frag) : (g.setFrag n f).team = g.team := rfl
@[simp] theorem Group.setFrag_gidx (g : Group) (n : Nat) (f : Frag) : (g.setFrag n f).gidx = g.gidx := rfl
@[simp] theorem Group.setFrag_core (g : Group) (n : Nat) (f : Frag) : (g.setFrag n f).core = g.core := rfl
@[simp] theorem Group.setFrag_slot (g : Group) (n : Nat) (f : Frag) : (g.setFrag n f).slot = g.slot := rfl
@[simp] theorem Group.setFrag_seq (g : Group) (n : Nat) (f : Frag) : (g.setFrag n f).seq = g.seq := rfl
@[simp] theorem Group.setFrag_cuttings (g : Group) (n : Nat) (f : Frag) : (g.setFrag n f).cuttings = g.cuttings := rfl
@[simp] theorem Group.setFrag_stack (g : Group) (n : Nat) (f : Frag) : (g.setFrag n f).stack = g.stack := rfl
@[simp] theorem Group.setFrag_seamCount (g : Group) (n : Nat) (f : Frag) : (g.setFrag n f).seamCount = g.seamCount := rfl
@[simp] theorem Group.setFrag_k (g : Group) (n : Nat) (f : Frag) : (g.setFrag n f).k = g.k := rfl
@[simp] theorem Group.setFrag_v (g : Group) (n : Nat) (f : Frag) : (g.setFrag n f).v = g.v := rfl
@[simp] theorem Group.setFrag_valloc (g : Group) (n : Nat) (f : Frag) : (g.setFrag n f).valloc = g.valloc := rfl
@[simp] theorem Group.setFrag_tiles (g : Group) (n : Nat) (f : Frag) : (g.setFrag n f).tiles = g.tiles := rfl
@[simp] theorem Group.setFrag_tc (g : Group) (n : Nat) (f : Frag) : (g.setFrag n f).tc = g.tc := rfl
@[simp] theorem Group.setFrag_accs (g : Group) (n : Nat) (f : Frag) : (g.setFrag n f).accs = g.accs := rfl
@[simp] theorem Group.setFrag_binds (g : Group) (n : Nat) (f : Frag) : (g.setFrag n f).binds = g.binds := rfl
@[simp] theorem Group.setFrag_b (g : Group) (n : Nat) (f : Frag) : (g.setFrag n f).b = g.b := rfl
@[simp] theorem Group.setFrag_slots (g : Group) (n : Nat) (f : Frag) : (g.setFrag n f).slots = g.slots := rfl
@[simp] theorem Group.setFrag_evm (g : Group) (n : Nat) (f : Frag) : (g.setFrag n f).evm = g.evm := rfl
@[simp] theorem Group.setFrag_evinfo (g : Group) (n : Nat) (f : Frag) : (g.setFrag n f).evinfo = g.evinfo := rfl
@[simp] theorem Group.setFrag_mailbox (g : Group) (n : Nat) (f : Frag) : (g.setFrag n f).mailbox = g.mailbox := rfl
@[simp] theorem Group.setFrag_ibud (g : Group) (n : Nat) (f : Frag) : (g.setFrag n f).ibud = g.ibud := rfl
@[simp] theorem Group.setFrag_mbud (g : Group) (n : Nat) (f : Frag) : (g.setFrag n f).mbud = g.mbud := rfl
@[simp] theorem Group.setFrag_landing (g : Group) (n : Nat) (f : Frag) : (g.setFrag n f).landing = g.landing := rfl
@[simp] theorem Group.setFrag_trap (g : Group) (n : Nat) (f : Frag) : (g.setFrag n f).trap = g.trap := rfl
@[simp] theorem Group.setFrag_fflags (g : Group) (n : Nat) (f : Frag) : (g.setFrag n f).fflags = g.fflags := rfl
@[simp] theorem Group.setFrag_flagsAt (g : Group) (n : Nat) (f : Frag) : (g.setFrag n f).flagsAt = g.flagsAt := rfl
@[simp] theorem Group.setFrag_rm (g : Group) (n : Nat) (f : Frag) : (g.setFrag n f).rm = g.rm := rfl
@[simp] theorem Group.setFrag_ftz (g : Group) (n : Nat) (f : Frag) : (g.setFrag n f).ftz = g.ftz := rfl
@[simp] theorem Group.setFrag_privl (g : Group) (n : Nat) (f : Frag) : (g.setFrag n f).privl = g.privl := rfl
@[simp] theorem Group.setFrag_lchk (g : Group) (n : Nat) (f : Frag) : (g.setFrag n f).lchk = g.lchk := rfl
@[simp] theorem Group.setFrag_uchk (g : Group) (n : Nat) (f : Frag) : (g.setFrag n f).uchk = g.uchk := rfl
@[simp] theorem Group.setFrag_icnt (g : Group) (n : Nat) (f : Frag) : (g.setFrag n f).icnt = g.icnt := rfl
@[simp] theorem Group.setFrag_retired (g : Group) (n : Nat) (f : Frag) : (g.setFrag n f).retired = g.retired := rfl
@[simp] theorem Group.setFrag_draws (g : Group) (n : Nat) (f : Frag) : (g.setFrag n f).draws = g.draws := rfl
@[simp] theorem Group.setFrag_sessValid (g : Group) (n : Nat) (f : Frag) : (g.setFrag n f).sessValid = g.sessValid := rfl
@[simp] theorem Group.setFrag_injArm (g : Group) (n : Nat) (f : Frag) : (g.setFrag n f).injArm = g.injArm := rfl
@[simp] theorem Group.setFrag_injKind (g : Group) (n : Nat) (f : Frag) : (g.setFrag n f).injKind = g.injKind := rfl
@[simp] theorem Group.setFrag_injAfter (g : Group) (n : Nat) (f : Frag) : (g.setFrag n f).injAfter = g.injAfter := rfl
@[simp] theorem Group.setFrag_injCount (g : Group) (n : Nat) (f : Frag) : (g.setFrag n f).injCount = g.injCount := rfl
@[simp] theorem Group.setFrag_qround (g : Group) (n : Nat) (f : Frag) : (g.setFrag n f).qround = g.qround := rfl
@[simp] theorem Group.setFrag_qcnt (g : Group) (n : Nat) (f : Frag) : (g.setFrag n f).qcnt = g.qcnt := rfl
@[simp] theorem Group.setFrag_atRound (g : Group) (n : Nat) (f : Frag) : (g.setFrag n f).atRound = g.atRound := rfl
@[simp] theorem Group.setFrag_vmarks (g : Group) (n : Nat) (f : Frag) : (g.setFrag n f).vmarks = g.vmarks := rfl
@[simp] theorem Group.setFrag_tmarks (g : Group) (n : Nat) (f : Frag) : (g.setFrag n f).tmarks = g.tmarks := rfl
@[simp] theorem Group.setFrag_cursor (g : Group) (n : Nat) (f : Frag) : (g.setFrag n f).cursor = g.cursor := rfl
@[simp] theorem Group.setFrag_drawn (g : Group) (n : Nat) (f : Frag) : (g.setFrag n f).drawn = g.drawn := rfl
@[simp] theorem Group.setFrag_gateSeq (g : Group) (n : Nat) (f : Frag) : (g.setFrag n f).gateSeq = g.gateSeq := rfl
@[simp] theorem Group.setFrag_skip (g : Group) (n : Nat) (f : Frag) : (g.setFrag n f).skip = g.skip := rfl
@[simp] theorem Group.setFrag_lost (g : Group) (n : Nat) (f : Frag) : (g.setFrag n f).lost = g.lost := rfl
@[simp] theorem Group.setFrag_bc (g : Group) (n : Nat) (f : Frag) : (g.setFrag n f).bc = g.bc := rfl
@[simp] theorem Group.setFrag_bm (g : Group) (n : Nat) (f : Frag) : (g.setFrag n f).bm = g.bm := rfl
@[simp] theorem Group.setFrag_bg (g : Group) (n : Nat) (f : Frag) : (g.setFrag n f).bg = g.bg := rfl
@[simp] theorem Group.setFrag_reqs (g : Group) (n : Nat) (f : Frag) : (g.setFrag n f).reqs = g.reqs := rfl
@[simp] theorem Group.setFrag_copies (g : Group) (n : Nat) (f : Frag) : (g.setFrag n f).copies = g.copies := rfl
@[simp] theorem Group.setFrag_gates (g : Group) (n : Nat) (f : Frag) : (g.setFrag n f).gates = g.gates := rfl
@[simp] theorem Group.setFrag_tlds (g : Group) (n : Nat) (f : Frag) : (g.setFrag n f).tlds = g.tlds := rfl
@[simp] theorem Group.setFrag_orphans (g : Group) (n : Nat) (f : Frag) : (g.setFrag n f).orphans = g.orphans := rfl
@[simp] theorem Group.setFrag_lastMma (g : Group) (n : Nat) (f : Frag) : (g.setFrag n f).lastMma = g.lastMma := rfl
@[simp] theorem Group.setFrag_deferred (g : Group) (n : Nat) (f : Frag) : (g.setFrag n f).deferred = g.deferred := rfl
@[simp] theorem Group.setFrag_deferHeld (g : Group) (n : Nat) (f : Frag) : (g.setFrag n f).deferHeld = g.deferHeld := rfl
@[simp] theorem Group.setFrag_groupHeld (g : Group) (n : Nat) (f : Frag) : (g.setFrag n f).groupHeld = g.groupHeld := rfl
@[simp] theorem Group.setFrag_stopped (g : Group) (n : Nat) (f : Frag) : (g.setFrag n f).stopped = g.stopped := rfl
@[simp] theorem Group.setFrag_halted (g : Group) (n : Nat) (f : Frag) : (g.setFrag n f).halted = g.halted := rfl
@[simp] theorem Group.setFrag_ending (g : Group) (n : Nat) (f : Frag) : (g.setFrag n f).ending = g.ending := rfl
@[simp] theorem Group.setFrag_clampPend (g : Group) (n : Nat) (f : Frag) : (g.setFrag n f).clampPend = g.clampPend := rfl
@[simp] theorem Group.setFrag_clampAt (g : Group) (n : Nat) (f : Frag) : (g.setFrag n f).clampAt = g.clampAt := rfl
@[simp] theorem Group.setFrag_sliceAt (g : Group) (n : Nat) (f : Frag) : (g.setFrag n f).sliceAt = g.sliceAt := rfl
@[simp] theorem Group.setFrag_boost (g : Group) (n : Nat) (f : Frag) : (g.setFrag n f).boost = g.boost := rfl
@[simp] theorem Group.setFrag_readyAt (g : Group) (n : Nat) (f : Frag) : (g.setFrag n f).readyAt = g.readyAt := rfl
@[simp] theorem Group.setFrag_lastIssue (g : Group) (n : Nat) (f : Frag) : (g.setFrag n f).lastIssue = g.lastIssue := rfl
@[simp] theorem Group.setFrag_lastCls (g : Group) (n : Nat) (f : Frag) : (g.setFrag n f).lastCls = g.lastCls := rfl
@[simp] theorem Group.setFrag_yielded (g : Group) (n : Nat) (f : Frag) : (g.setFrag n f).yielded = g.yielded := rfl
@[simp] theorem Group.setFrag_stopAt (g : Group) (n : Nat) (f : Frag) : (g.setFrag n f).stopAt = g.stopAt := rfl
@[simp] theorem Group.setFrag_haltAt (g : Group) (n : Nat) (f : Frag) : (g.setFrag n f).haltAt = g.haltAt := rfl
@[simp] theorem Group.setFrag_saving (g : Group) (n : Nat) (f : Frag) : (g.setFrag n f).saving = g.saving := rfl
@[simp] theorem Group.setFrag_drain (g : Group) (n : Nat) (f : Frag) : (g.setFrag n f).drain = g.drain := rfl
@[simp] theorem Group.setFrag_saves (g : Group) (n : Nat) (f : Frag) : (g.setFrag n f).saves = g.saves := rfl
@[simp] theorem Group.setFrag_parkCut (g : Group) (n : Nat) (f : Frag) : (g.setFrag n f).parkCut = g.parkCut := rfl
@[simp] theorem Group.setFrag_staged (g : Group) (n : Nat) (f : Frag) : (g.setFrag n f).staged = g.staged := rfl
@[simp] theorem Group.setFrag_commit (g : Group) (n : Nat) (f : Frag) : (g.setFrag n f).commit = g.commit := rfl
@[simp] theorem Group.setFrag_qdone (g : Group) (n : Nat) (f : Frag) : (g.setFrag n f).qdone = g.qdone := rfl
@[simp] theorem Group.setFrag_aside (g : Group) (n : Nat) (f : Frag) : (g.setFrag n f).aside = g.aside := rfl

/-! What `Group.modFrag` leaves alone. -/
@[simp] theorem Group.modFrag_part (g : Group) (n : Nat) (f : Frag → Frag) : (g.modFrag n f).part = g.part := rfl
@[simp] theorem Group.modFrag_team (g : Group) (n : Nat) (f : Frag → Frag) : (g.modFrag n f).team = g.team := rfl
@[simp] theorem Group.modFrag_gidx (g : Group) (n : Nat) (f : Frag → Frag) : (g.modFrag n f).gidx = g.gidx := rfl
@[simp] theorem Group.modFrag_core (g : Group) (n : Nat) (f : Frag → Frag) : (g.modFrag n f).core = g.core := rfl
@[simp] theorem Group.modFrag_slot (g : Group) (n : Nat) (f : Frag → Frag) : (g.modFrag n f).slot = g.slot := rfl
@[simp] theorem Group.modFrag_seq (g : Group) (n : Nat) (f : Frag → Frag) : (g.modFrag n f).seq = g.seq := rfl
@[simp] theorem Group.modFrag_cuttings (g : Group) (n : Nat) (f : Frag → Frag) : (g.modFrag n f).cuttings = g.cuttings := rfl
@[simp] theorem Group.modFrag_stack (g : Group) (n : Nat) (f : Frag → Frag) : (g.modFrag n f).stack = g.stack := rfl
@[simp] theorem Group.modFrag_seamCount (g : Group) (n : Nat) (f : Frag → Frag) : (g.modFrag n f).seamCount = g.seamCount := rfl
@[simp] theorem Group.modFrag_k (g : Group) (n : Nat) (f : Frag → Frag) : (g.modFrag n f).k = g.k := rfl
@[simp] theorem Group.modFrag_v (g : Group) (n : Nat) (f : Frag → Frag) : (g.modFrag n f).v = g.v := rfl
@[simp] theorem Group.modFrag_valloc (g : Group) (n : Nat) (f : Frag → Frag) : (g.modFrag n f).valloc = g.valloc := rfl
@[simp] theorem Group.modFrag_tiles (g : Group) (n : Nat) (f : Frag → Frag) : (g.modFrag n f).tiles = g.tiles := rfl
@[simp] theorem Group.modFrag_tc (g : Group) (n : Nat) (f : Frag → Frag) : (g.modFrag n f).tc = g.tc := rfl
@[simp] theorem Group.modFrag_accs (g : Group) (n : Nat) (f : Frag → Frag) : (g.modFrag n f).accs = g.accs := rfl
@[simp] theorem Group.modFrag_binds (g : Group) (n : Nat) (f : Frag → Frag) : (g.modFrag n f).binds = g.binds := rfl
@[simp] theorem Group.modFrag_b (g : Group) (n : Nat) (f : Frag → Frag) : (g.modFrag n f).b = g.b := rfl
@[simp] theorem Group.modFrag_slots (g : Group) (n : Nat) (f : Frag → Frag) : (g.modFrag n f).slots = g.slots := rfl
@[simp] theorem Group.modFrag_evm (g : Group) (n : Nat) (f : Frag → Frag) : (g.modFrag n f).evm = g.evm := rfl
@[simp] theorem Group.modFrag_evinfo (g : Group) (n : Nat) (f : Frag → Frag) : (g.modFrag n f).evinfo = g.evinfo := rfl
@[simp] theorem Group.modFrag_mailbox (g : Group) (n : Nat) (f : Frag → Frag) : (g.modFrag n f).mailbox = g.mailbox := rfl
@[simp] theorem Group.modFrag_ibud (g : Group) (n : Nat) (f : Frag → Frag) : (g.modFrag n f).ibud = g.ibud := rfl
@[simp] theorem Group.modFrag_mbud (g : Group) (n : Nat) (f : Frag → Frag) : (g.modFrag n f).mbud = g.mbud := rfl
@[simp] theorem Group.modFrag_landing (g : Group) (n : Nat) (f : Frag → Frag) : (g.modFrag n f).landing = g.landing := rfl
@[simp] theorem Group.modFrag_trap (g : Group) (n : Nat) (f : Frag → Frag) : (g.modFrag n f).trap = g.trap := rfl
@[simp] theorem Group.modFrag_fflags (g : Group) (n : Nat) (f : Frag → Frag) : (g.modFrag n f).fflags = g.fflags := rfl
@[simp] theorem Group.modFrag_flagsAt (g : Group) (n : Nat) (f : Frag → Frag) : (g.modFrag n f).flagsAt = g.flagsAt := rfl
@[simp] theorem Group.modFrag_rm (g : Group) (n : Nat) (f : Frag → Frag) : (g.modFrag n f).rm = g.rm := rfl
@[simp] theorem Group.modFrag_ftz (g : Group) (n : Nat) (f : Frag → Frag) : (g.modFrag n f).ftz = g.ftz := rfl
@[simp] theorem Group.modFrag_privl (g : Group) (n : Nat) (f : Frag → Frag) : (g.modFrag n f).privl = g.privl := rfl
@[simp] theorem Group.modFrag_lchk (g : Group) (n : Nat) (f : Frag → Frag) : (g.modFrag n f).lchk = g.lchk := rfl
@[simp] theorem Group.modFrag_uchk (g : Group) (n : Nat) (f : Frag → Frag) : (g.modFrag n f).uchk = g.uchk := rfl
@[simp] theorem Group.modFrag_icnt (g : Group) (n : Nat) (f : Frag → Frag) : (g.modFrag n f).icnt = g.icnt := rfl
@[simp] theorem Group.modFrag_retired (g : Group) (n : Nat) (f : Frag → Frag) : (g.modFrag n f).retired = g.retired := rfl
@[simp] theorem Group.modFrag_draws (g : Group) (n : Nat) (f : Frag → Frag) : (g.modFrag n f).draws = g.draws := rfl
@[simp] theorem Group.modFrag_sessValid (g : Group) (n : Nat) (f : Frag → Frag) : (g.modFrag n f).sessValid = g.sessValid := rfl
@[simp] theorem Group.modFrag_injArm (g : Group) (n : Nat) (f : Frag → Frag) : (g.modFrag n f).injArm = g.injArm := rfl
@[simp] theorem Group.modFrag_injKind (g : Group) (n : Nat) (f : Frag → Frag) : (g.modFrag n f).injKind = g.injKind := rfl
@[simp] theorem Group.modFrag_injAfter (g : Group) (n : Nat) (f : Frag → Frag) : (g.modFrag n f).injAfter = g.injAfter := rfl
@[simp] theorem Group.modFrag_injCount (g : Group) (n : Nat) (f : Frag → Frag) : (g.modFrag n f).injCount = g.injCount := rfl
@[simp] theorem Group.modFrag_qround (g : Group) (n : Nat) (f : Frag → Frag) : (g.modFrag n f).qround = g.qround := rfl
@[simp] theorem Group.modFrag_qcnt (g : Group) (n : Nat) (f : Frag → Frag) : (g.modFrag n f).qcnt = g.qcnt := rfl
@[simp] theorem Group.modFrag_atRound (g : Group) (n : Nat) (f : Frag → Frag) : (g.modFrag n f).atRound = g.atRound := rfl
@[simp] theorem Group.modFrag_vmarks (g : Group) (n : Nat) (f : Frag → Frag) : (g.modFrag n f).vmarks = g.vmarks := rfl
@[simp] theorem Group.modFrag_tmarks (g : Group) (n : Nat) (f : Frag → Frag) : (g.modFrag n f).tmarks = g.tmarks := rfl
@[simp] theorem Group.modFrag_cursor (g : Group) (n : Nat) (f : Frag → Frag) : (g.modFrag n f).cursor = g.cursor := rfl
@[simp] theorem Group.modFrag_drawn (g : Group) (n : Nat) (f : Frag → Frag) : (g.modFrag n f).drawn = g.drawn := rfl
@[simp] theorem Group.modFrag_gateSeq (g : Group) (n : Nat) (f : Frag → Frag) : (g.modFrag n f).gateSeq = g.gateSeq := rfl
@[simp] theorem Group.modFrag_skip (g : Group) (n : Nat) (f : Frag → Frag) : (g.modFrag n f).skip = g.skip := rfl
@[simp] theorem Group.modFrag_lost (g : Group) (n : Nat) (f : Frag → Frag) : (g.modFrag n f).lost = g.lost := rfl
@[simp] theorem Group.modFrag_bc (g : Group) (n : Nat) (f : Frag → Frag) : (g.modFrag n f).bc = g.bc := rfl
@[simp] theorem Group.modFrag_bm (g : Group) (n : Nat) (f : Frag → Frag) : (g.modFrag n f).bm = g.bm := rfl
@[simp] theorem Group.modFrag_bg (g : Group) (n : Nat) (f : Frag → Frag) : (g.modFrag n f).bg = g.bg := rfl
@[simp] theorem Group.modFrag_reqs (g : Group) (n : Nat) (f : Frag → Frag) : (g.modFrag n f).reqs = g.reqs := rfl
@[simp] theorem Group.modFrag_copies (g : Group) (n : Nat) (f : Frag → Frag) : (g.modFrag n f).copies = g.copies := rfl
@[simp] theorem Group.modFrag_gates (g : Group) (n : Nat) (f : Frag → Frag) : (g.modFrag n f).gates = g.gates := rfl
@[simp] theorem Group.modFrag_tlds (g : Group) (n : Nat) (f : Frag → Frag) : (g.modFrag n f).tlds = g.tlds := rfl
@[simp] theorem Group.modFrag_orphans (g : Group) (n : Nat) (f : Frag → Frag) : (g.modFrag n f).orphans = g.orphans := rfl
@[simp] theorem Group.modFrag_lastMma (g : Group) (n : Nat) (f : Frag → Frag) : (g.modFrag n f).lastMma = g.lastMma := rfl
@[simp] theorem Group.modFrag_deferred (g : Group) (n : Nat) (f : Frag → Frag) : (g.modFrag n f).deferred = g.deferred := rfl
@[simp] theorem Group.modFrag_deferHeld (g : Group) (n : Nat) (f : Frag → Frag) : (g.modFrag n f).deferHeld = g.deferHeld := rfl
@[simp] theorem Group.modFrag_groupHeld (g : Group) (n : Nat) (f : Frag → Frag) : (g.modFrag n f).groupHeld = g.groupHeld := rfl
@[simp] theorem Group.modFrag_stopped (g : Group) (n : Nat) (f : Frag → Frag) : (g.modFrag n f).stopped = g.stopped := rfl
@[simp] theorem Group.modFrag_halted (g : Group) (n : Nat) (f : Frag → Frag) : (g.modFrag n f).halted = g.halted := rfl
@[simp] theorem Group.modFrag_ending (g : Group) (n : Nat) (f : Frag → Frag) : (g.modFrag n f).ending = g.ending := rfl
@[simp] theorem Group.modFrag_clampPend (g : Group) (n : Nat) (f : Frag → Frag) : (g.modFrag n f).clampPend = g.clampPend := rfl
@[simp] theorem Group.modFrag_clampAt (g : Group) (n : Nat) (f : Frag → Frag) : (g.modFrag n f).clampAt = g.clampAt := rfl
@[simp] theorem Group.modFrag_sliceAt (g : Group) (n : Nat) (f : Frag → Frag) : (g.modFrag n f).sliceAt = g.sliceAt := rfl
@[simp] theorem Group.modFrag_boost (g : Group) (n : Nat) (f : Frag → Frag) : (g.modFrag n f).boost = g.boost := rfl
@[simp] theorem Group.modFrag_readyAt (g : Group) (n : Nat) (f : Frag → Frag) : (g.modFrag n f).readyAt = g.readyAt := rfl
@[simp] theorem Group.modFrag_lastIssue (g : Group) (n : Nat) (f : Frag → Frag) : (g.modFrag n f).lastIssue = g.lastIssue := rfl
@[simp] theorem Group.modFrag_lastCls (g : Group) (n : Nat) (f : Frag → Frag) : (g.modFrag n f).lastCls = g.lastCls := rfl
@[simp] theorem Group.modFrag_yielded (g : Group) (n : Nat) (f : Frag → Frag) : (g.modFrag n f).yielded = g.yielded := rfl
@[simp] theorem Group.modFrag_stopAt (g : Group) (n : Nat) (f : Frag → Frag) : (g.modFrag n f).stopAt = g.stopAt := rfl
@[simp] theorem Group.modFrag_haltAt (g : Group) (n : Nat) (f : Frag → Frag) : (g.modFrag n f).haltAt = g.haltAt := rfl
@[simp] theorem Group.modFrag_saving (g : Group) (n : Nat) (f : Frag → Frag) : (g.modFrag n f).saving = g.saving := rfl
@[simp] theorem Group.modFrag_drain (g : Group) (n : Nat) (f : Frag → Frag) : (g.modFrag n f).drain = g.drain := rfl
@[simp] theorem Group.modFrag_saves (g : Group) (n : Nat) (f : Frag → Frag) : (g.modFrag n f).saves = g.saves := rfl
@[simp] theorem Group.modFrag_parkCut (g : Group) (n : Nat) (f : Frag → Frag) : (g.modFrag n f).parkCut = g.parkCut := rfl
@[simp] theorem Group.modFrag_staged (g : Group) (n : Nat) (f : Frag → Frag) : (g.modFrag n f).staged = g.staged := rfl
@[simp] theorem Group.modFrag_commit (g : Group) (n : Nat) (f : Frag → Frag) : (g.modFrag n f).commit = g.commit := rfl
@[simp] theorem Group.modFrag_qdone (g : Group) (n : Nat) (f : Frag → Frag) : (g.modFrag n f).qdone = g.qdone := rfl
@[simp] theorem Group.modFrag_aside (g : Group) (n : Nat) (f : Frag → Frag) : (g.modFrag n f).aside = g.aside := rfl

/-! What `Group.wrV` leaves alone. -/
@[simp] theorem Group.wrV_part (g : Group) (n : BitVec 6) (m : Mask) (x : Lanes) : (g.wrV n m x).part = g.part := rfl
@[simp] theorem Group.wrV_team (g : Group) (n : BitVec 6) (m : Mask) (x : Lanes) : (g.wrV n m x).team = g.team := rfl
@[simp] theorem Group.wrV_gidx (g : Group) (n : BitVec 6) (m : Mask) (x : Lanes) : (g.wrV n m x).gidx = g.gidx := rfl
@[simp] theorem Group.wrV_core (g : Group) (n : BitVec 6) (m : Mask) (x : Lanes) : (g.wrV n m x).core = g.core := rfl
@[simp] theorem Group.wrV_slot (g : Group) (n : BitVec 6) (m : Mask) (x : Lanes) : (g.wrV n m x).slot = g.slot := rfl
@[simp] theorem Group.wrV_seq (g : Group) (n : BitVec 6) (m : Mask) (x : Lanes) : (g.wrV n m x).seq = g.seq := rfl
@[simp] theorem Group.wrV_cuttings (g : Group) (n : BitVec 6) (m : Mask) (x : Lanes) : (g.wrV n m x).cuttings = g.cuttings := rfl
@[simp] theorem Group.wrV_frags (g : Group) (n : BitVec 6) (m : Mask) (x : Lanes) : (g.wrV n m x).frags = g.frags := rfl
@[simp] theorem Group.wrV_stack (g : Group) (n : BitVec 6) (m : Mask) (x : Lanes) : (g.wrV n m x).stack = g.stack := rfl
@[simp] theorem Group.wrV_seamCount (g : Group) (n : BitVec 6) (m : Mask) (x : Lanes) : (g.wrV n m x).seamCount = g.seamCount := rfl
@[simp] theorem Group.wrV_k (g : Group) (n : BitVec 6) (m : Mask) (x : Lanes) : (g.wrV n m x).k = g.k := rfl
@[simp] theorem Group.wrV_valloc (g : Group) (n : BitVec 6) (m : Mask) (x : Lanes) : (g.wrV n m x).valloc = g.valloc := rfl
@[simp] theorem Group.wrV_tiles (g : Group) (n : BitVec 6) (m : Mask) (x : Lanes) : (g.wrV n m x).tiles = g.tiles := rfl
@[simp] theorem Group.wrV_tc (g : Group) (n : BitVec 6) (m : Mask) (x : Lanes) : (g.wrV n m x).tc = g.tc := rfl
@[simp] theorem Group.wrV_accs (g : Group) (n : BitVec 6) (m : Mask) (x : Lanes) : (g.wrV n m x).accs = g.accs := rfl
@[simp] theorem Group.wrV_binds (g : Group) (n : BitVec 6) (m : Mask) (x : Lanes) : (g.wrV n m x).binds = g.binds := rfl
@[simp] theorem Group.wrV_b (g : Group) (n : BitVec 6) (m : Mask) (x : Lanes) : (g.wrV n m x).b = g.b := rfl
@[simp] theorem Group.wrV_slots (g : Group) (n : BitVec 6) (m : Mask) (x : Lanes) : (g.wrV n m x).slots = g.slots := rfl
@[simp] theorem Group.wrV_evm (g : Group) (n : BitVec 6) (m : Mask) (x : Lanes) : (g.wrV n m x).evm = g.evm := rfl
@[simp] theorem Group.wrV_evinfo (g : Group) (n : BitVec 6) (m : Mask) (x : Lanes) : (g.wrV n m x).evinfo = g.evinfo := rfl
@[simp] theorem Group.wrV_mailbox (g : Group) (n : BitVec 6) (m : Mask) (x : Lanes) : (g.wrV n m x).mailbox = g.mailbox := rfl
@[simp] theorem Group.wrV_ibud (g : Group) (n : BitVec 6) (m : Mask) (x : Lanes) : (g.wrV n m x).ibud = g.ibud := rfl
@[simp] theorem Group.wrV_mbud (g : Group) (n : BitVec 6) (m : Mask) (x : Lanes) : (g.wrV n m x).mbud = g.mbud := rfl
@[simp] theorem Group.wrV_landing (g : Group) (n : BitVec 6) (m : Mask) (x : Lanes) : (g.wrV n m x).landing = g.landing := rfl
@[simp] theorem Group.wrV_trap (g : Group) (n : BitVec 6) (m : Mask) (x : Lanes) : (g.wrV n m x).trap = g.trap := rfl
@[simp] theorem Group.wrV_fflags (g : Group) (n : BitVec 6) (m : Mask) (x : Lanes) : (g.wrV n m x).fflags = g.fflags := rfl
@[simp] theorem Group.wrV_flagsAt (g : Group) (n : BitVec 6) (m : Mask) (x : Lanes) : (g.wrV n m x).flagsAt = g.flagsAt := rfl
@[simp] theorem Group.wrV_rm (g : Group) (n : BitVec 6) (m : Mask) (x : Lanes) : (g.wrV n m x).rm = g.rm := rfl
@[simp] theorem Group.wrV_ftz (g : Group) (n : BitVec 6) (m : Mask) (x : Lanes) : (g.wrV n m x).ftz = g.ftz := rfl
@[simp] theorem Group.wrV_privl (g : Group) (n : BitVec 6) (m : Mask) (x : Lanes) : (g.wrV n m x).privl = g.privl := rfl
@[simp] theorem Group.wrV_lchk (g : Group) (n : BitVec 6) (m : Mask) (x : Lanes) : (g.wrV n m x).lchk = g.lchk := rfl
@[simp] theorem Group.wrV_uchk (g : Group) (n : BitVec 6) (m : Mask) (x : Lanes) : (g.wrV n m x).uchk = g.uchk := rfl
@[simp] theorem Group.wrV_icnt (g : Group) (n : BitVec 6) (m : Mask) (x : Lanes) : (g.wrV n m x).icnt = g.icnt := rfl
@[simp] theorem Group.wrV_retired (g : Group) (n : BitVec 6) (m : Mask) (x : Lanes) : (g.wrV n m x).retired = g.retired := rfl
@[simp] theorem Group.wrV_draws (g : Group) (n : BitVec 6) (m : Mask) (x : Lanes) : (g.wrV n m x).draws = g.draws := rfl
@[simp] theorem Group.wrV_sessValid (g : Group) (n : BitVec 6) (m : Mask) (x : Lanes) : (g.wrV n m x).sessValid = g.sessValid := rfl
@[simp] theorem Group.wrV_injArm (g : Group) (n : BitVec 6) (m : Mask) (x : Lanes) : (g.wrV n m x).injArm = g.injArm := rfl
@[simp] theorem Group.wrV_injKind (g : Group) (n : BitVec 6) (m : Mask) (x : Lanes) : (g.wrV n m x).injKind = g.injKind := rfl
@[simp] theorem Group.wrV_injAfter (g : Group) (n : BitVec 6) (m : Mask) (x : Lanes) : (g.wrV n m x).injAfter = g.injAfter := rfl
@[simp] theorem Group.wrV_injCount (g : Group) (n : BitVec 6) (m : Mask) (x : Lanes) : (g.wrV n m x).injCount = g.injCount := rfl
@[simp] theorem Group.wrV_qround (g : Group) (n : BitVec 6) (m : Mask) (x : Lanes) : (g.wrV n m x).qround = g.qround := rfl
@[simp] theorem Group.wrV_qcnt (g : Group) (n : BitVec 6) (m : Mask) (x : Lanes) : (g.wrV n m x).qcnt = g.qcnt := rfl
@[simp] theorem Group.wrV_atRound (g : Group) (n : BitVec 6) (m : Mask) (x : Lanes) : (g.wrV n m x).atRound = g.atRound := rfl
@[simp] theorem Group.wrV_vmarks (g : Group) (n : BitVec 6) (m : Mask) (x : Lanes) : (g.wrV n m x).vmarks = g.vmarks := rfl
@[simp] theorem Group.wrV_tmarks (g : Group) (n : BitVec 6) (m : Mask) (x : Lanes) : (g.wrV n m x).tmarks = g.tmarks := rfl
@[simp] theorem Group.wrV_cursor (g : Group) (n : BitVec 6) (m : Mask) (x : Lanes) : (g.wrV n m x).cursor = g.cursor := rfl
@[simp] theorem Group.wrV_drawn (g : Group) (n : BitVec 6) (m : Mask) (x : Lanes) : (g.wrV n m x).drawn = g.drawn := rfl
@[simp] theorem Group.wrV_gateSeq (g : Group) (n : BitVec 6) (m : Mask) (x : Lanes) : (g.wrV n m x).gateSeq = g.gateSeq := rfl
@[simp] theorem Group.wrV_skip (g : Group) (n : BitVec 6) (m : Mask) (x : Lanes) : (g.wrV n m x).skip = g.skip := rfl
@[simp] theorem Group.wrV_lost (g : Group) (n : BitVec 6) (m : Mask) (x : Lanes) : (g.wrV n m x).lost = g.lost := rfl
@[simp] theorem Group.wrV_bc (g : Group) (n : BitVec 6) (m : Mask) (x : Lanes) : (g.wrV n m x).bc = g.bc := rfl
@[simp] theorem Group.wrV_bm (g : Group) (n : BitVec 6) (m : Mask) (x : Lanes) : (g.wrV n m x).bm = g.bm := rfl
@[simp] theorem Group.wrV_bg (g : Group) (n : BitVec 6) (m : Mask) (x : Lanes) : (g.wrV n m x).bg = g.bg := rfl
@[simp] theorem Group.wrV_reqs (g : Group) (n : BitVec 6) (m : Mask) (x : Lanes) : (g.wrV n m x).reqs = g.reqs := rfl
@[simp] theorem Group.wrV_copies (g : Group) (n : BitVec 6) (m : Mask) (x : Lanes) : (g.wrV n m x).copies = g.copies := rfl
@[simp] theorem Group.wrV_gates (g : Group) (n : BitVec 6) (m : Mask) (x : Lanes) : (g.wrV n m x).gates = g.gates := rfl
@[simp] theorem Group.wrV_tlds (g : Group) (n : BitVec 6) (m : Mask) (x : Lanes) : (g.wrV n m x).tlds = g.tlds := rfl
@[simp] theorem Group.wrV_orphans (g : Group) (n : BitVec 6) (m : Mask) (x : Lanes) : (g.wrV n m x).orphans = g.orphans := rfl
@[simp] theorem Group.wrV_lastMma (g : Group) (n : BitVec 6) (m : Mask) (x : Lanes) : (g.wrV n m x).lastMma = g.lastMma := rfl
@[simp] theorem Group.wrV_deferred (g : Group) (n : BitVec 6) (m : Mask) (x : Lanes) : (g.wrV n m x).deferred = g.deferred := rfl
@[simp] theorem Group.wrV_deferHeld (g : Group) (n : BitVec 6) (m : Mask) (x : Lanes) : (g.wrV n m x).deferHeld = g.deferHeld := rfl
@[simp] theorem Group.wrV_groupHeld (g : Group) (n : BitVec 6) (m : Mask) (x : Lanes) : (g.wrV n m x).groupHeld = g.groupHeld := rfl
@[simp] theorem Group.wrV_stopped (g : Group) (n : BitVec 6) (m : Mask) (x : Lanes) : (g.wrV n m x).stopped = g.stopped := rfl
@[simp] theorem Group.wrV_halted (g : Group) (n : BitVec 6) (m : Mask) (x : Lanes) : (g.wrV n m x).halted = g.halted := rfl
@[simp] theorem Group.wrV_ending (g : Group) (n : BitVec 6) (m : Mask) (x : Lanes) : (g.wrV n m x).ending = g.ending := rfl
@[simp] theorem Group.wrV_clampPend (g : Group) (n : BitVec 6) (m : Mask) (x : Lanes) : (g.wrV n m x).clampPend = g.clampPend := rfl
@[simp] theorem Group.wrV_clampAt (g : Group) (n : BitVec 6) (m : Mask) (x : Lanes) : (g.wrV n m x).clampAt = g.clampAt := rfl
@[simp] theorem Group.wrV_sliceAt (g : Group) (n : BitVec 6) (m : Mask) (x : Lanes) : (g.wrV n m x).sliceAt = g.sliceAt := rfl
@[simp] theorem Group.wrV_boost (g : Group) (n : BitVec 6) (m : Mask) (x : Lanes) : (g.wrV n m x).boost = g.boost := rfl
@[simp] theorem Group.wrV_readyAt (g : Group) (n : BitVec 6) (m : Mask) (x : Lanes) : (g.wrV n m x).readyAt = g.readyAt := rfl
@[simp] theorem Group.wrV_lastIssue (g : Group) (n : BitVec 6) (m : Mask) (x : Lanes) : (g.wrV n m x).lastIssue = g.lastIssue := rfl
@[simp] theorem Group.wrV_lastCls (g : Group) (n : BitVec 6) (m : Mask) (x : Lanes) : (g.wrV n m x).lastCls = g.lastCls := rfl
@[simp] theorem Group.wrV_yielded (g : Group) (n : BitVec 6) (m : Mask) (x : Lanes) : (g.wrV n m x).yielded = g.yielded := rfl
@[simp] theorem Group.wrV_stopAt (g : Group) (n : BitVec 6) (m : Mask) (x : Lanes) : (g.wrV n m x).stopAt = g.stopAt := rfl
@[simp] theorem Group.wrV_haltAt (g : Group) (n : BitVec 6) (m : Mask) (x : Lanes) : (g.wrV n m x).haltAt = g.haltAt := rfl
@[simp] theorem Group.wrV_saving (g : Group) (n : BitVec 6) (m : Mask) (x : Lanes) : (g.wrV n m x).saving = g.saving := rfl
@[simp] theorem Group.wrV_drain (g : Group) (n : BitVec 6) (m : Mask) (x : Lanes) : (g.wrV n m x).drain = g.drain := rfl
@[simp] theorem Group.wrV_saves (g : Group) (n : BitVec 6) (m : Mask) (x : Lanes) : (g.wrV n m x).saves = g.saves := rfl
@[simp] theorem Group.wrV_parkCut (g : Group) (n : BitVec 6) (m : Mask) (x : Lanes) : (g.wrV n m x).parkCut = g.parkCut := rfl
@[simp] theorem Group.wrV_staged (g : Group) (n : BitVec 6) (m : Mask) (x : Lanes) : (g.wrV n m x).staged = g.staged := rfl
@[simp] theorem Group.wrV_commit (g : Group) (n : BitVec 6) (m : Mask) (x : Lanes) : (g.wrV n m x).commit = g.commit := rfl
@[simp] theorem Group.wrV_qdone (g : Group) (n : BitVec 6) (m : Mask) (x : Lanes) : (g.wrV n m x).qdone = g.qdone := rfl
@[simp] theorem Group.wrV_aside (g : Group) (n : BitVec 6) (m : Mask) (x : Lanes) : (g.wrV n m x).aside = g.aside := rfl

/-! What `Group.wrK` leaves alone. -/
@[simp] theorem Group.wrK_part (g : Group) (n : BitVec 4) (m x : Mask) : (g.wrK n m x).part = g.part := by
  unfold Group.wrK; split <;> rfl
@[simp] theorem Group.wrK_team (g : Group) (n : BitVec 4) (m x : Mask) : (g.wrK n m x).team = g.team := by
  unfold Group.wrK; split <;> rfl
@[simp] theorem Group.wrK_gidx (g : Group) (n : BitVec 4) (m x : Mask) : (g.wrK n m x).gidx = g.gidx := by
  unfold Group.wrK; split <;> rfl
@[simp] theorem Group.wrK_core (g : Group) (n : BitVec 4) (m x : Mask) : (g.wrK n m x).core = g.core := by
  unfold Group.wrK; split <;> rfl
@[simp] theorem Group.wrK_slot (g : Group) (n : BitVec 4) (m x : Mask) : (g.wrK n m x).slot = g.slot := by
  unfold Group.wrK; split <;> rfl
@[simp] theorem Group.wrK_seq (g : Group) (n : BitVec 4) (m x : Mask) : (g.wrK n m x).seq = g.seq := by
  unfold Group.wrK; split <;> rfl
@[simp] theorem Group.wrK_cuttings (g : Group) (n : BitVec 4) (m x : Mask) : (g.wrK n m x).cuttings = g.cuttings := by
  unfold Group.wrK; split <;> rfl
@[simp] theorem Group.wrK_frags (g : Group) (n : BitVec 4) (m x : Mask) : (g.wrK n m x).frags = g.frags := by
  unfold Group.wrK; split <;> rfl
@[simp] theorem Group.wrK_stack (g : Group) (n : BitVec 4) (m x : Mask) : (g.wrK n m x).stack = g.stack := by
  unfold Group.wrK; split <;> rfl
@[simp] theorem Group.wrK_seamCount (g : Group) (n : BitVec 4) (m x : Mask) : (g.wrK n m x).seamCount = g.seamCount := by
  unfold Group.wrK; split <;> rfl
@[simp] theorem Group.wrK_v (g : Group) (n : BitVec 4) (m x : Mask) : (g.wrK n m x).v = g.v := by
  unfold Group.wrK; split <;> rfl
@[simp] theorem Group.wrK_valloc (g : Group) (n : BitVec 4) (m x : Mask) : (g.wrK n m x).valloc = g.valloc := by
  unfold Group.wrK; split <;> rfl
@[simp] theorem Group.wrK_tiles (g : Group) (n : BitVec 4) (m x : Mask) : (g.wrK n m x).tiles = g.tiles := by
  unfold Group.wrK; split <;> rfl
@[simp] theorem Group.wrK_tc (g : Group) (n : BitVec 4) (m x : Mask) : (g.wrK n m x).tc = g.tc := by
  unfold Group.wrK; split <;> rfl
@[simp] theorem Group.wrK_accs (g : Group) (n : BitVec 4) (m x : Mask) : (g.wrK n m x).accs = g.accs := by
  unfold Group.wrK; split <;> rfl
@[simp] theorem Group.wrK_binds (g : Group) (n : BitVec 4) (m x : Mask) : (g.wrK n m x).binds = g.binds := by
  unfold Group.wrK; split <;> rfl
@[simp] theorem Group.wrK_b (g : Group) (n : BitVec 4) (m x : Mask) : (g.wrK n m x).b = g.b := by
  unfold Group.wrK; split <;> rfl
@[simp] theorem Group.wrK_slots (g : Group) (n : BitVec 4) (m x : Mask) : (g.wrK n m x).slots = g.slots := by
  unfold Group.wrK; split <;> rfl
@[simp] theorem Group.wrK_evm (g : Group) (n : BitVec 4) (m x : Mask) : (g.wrK n m x).evm = g.evm := by
  unfold Group.wrK; split <;> rfl
@[simp] theorem Group.wrK_evinfo (g : Group) (n : BitVec 4) (m x : Mask) : (g.wrK n m x).evinfo = g.evinfo := by
  unfold Group.wrK; split <;> rfl
@[simp] theorem Group.wrK_mailbox (g : Group) (n : BitVec 4) (m x : Mask) : (g.wrK n m x).mailbox = g.mailbox := by
  unfold Group.wrK; split <;> rfl
@[simp] theorem Group.wrK_ibud (g : Group) (n : BitVec 4) (m x : Mask) : (g.wrK n m x).ibud = g.ibud := by
  unfold Group.wrK; split <;> rfl
@[simp] theorem Group.wrK_mbud (g : Group) (n : BitVec 4) (m x : Mask) : (g.wrK n m x).mbud = g.mbud := by
  unfold Group.wrK; split <;> rfl
@[simp] theorem Group.wrK_landing (g : Group) (n : BitVec 4) (m x : Mask) : (g.wrK n m x).landing = g.landing := by
  unfold Group.wrK; split <;> rfl
@[simp] theorem Group.wrK_trap (g : Group) (n : BitVec 4) (m x : Mask) : (g.wrK n m x).trap = g.trap := by
  unfold Group.wrK; split <;> rfl
@[simp] theorem Group.wrK_fflags (g : Group) (n : BitVec 4) (m x : Mask) : (g.wrK n m x).fflags = g.fflags := by
  unfold Group.wrK; split <;> rfl
@[simp] theorem Group.wrK_flagsAt (g : Group) (n : BitVec 4) (m x : Mask) : (g.wrK n m x).flagsAt = g.flagsAt := by
  unfold Group.wrK; split <;> rfl
@[simp] theorem Group.wrK_rm (g : Group) (n : BitVec 4) (m x : Mask) : (g.wrK n m x).rm = g.rm := by
  unfold Group.wrK; split <;> rfl
@[simp] theorem Group.wrK_ftz (g : Group) (n : BitVec 4) (m x : Mask) : (g.wrK n m x).ftz = g.ftz := by
  unfold Group.wrK; split <;> rfl
@[simp] theorem Group.wrK_privl (g : Group) (n : BitVec 4) (m x : Mask) : (g.wrK n m x).privl = g.privl := by
  unfold Group.wrK; split <;> rfl
@[simp] theorem Group.wrK_lchk (g : Group) (n : BitVec 4) (m x : Mask) : (g.wrK n m x).lchk = g.lchk := by
  unfold Group.wrK; split <;> rfl
@[simp] theorem Group.wrK_uchk (g : Group) (n : BitVec 4) (m x : Mask) : (g.wrK n m x).uchk = g.uchk := by
  unfold Group.wrK; split <;> rfl
@[simp] theorem Group.wrK_icnt (g : Group) (n : BitVec 4) (m x : Mask) : (g.wrK n m x).icnt = g.icnt := by
  unfold Group.wrK; split <;> rfl
@[simp] theorem Group.wrK_retired (g : Group) (n : BitVec 4) (m x : Mask) : (g.wrK n m x).retired = g.retired := by
  unfold Group.wrK; split <;> rfl
@[simp] theorem Group.wrK_draws (g : Group) (n : BitVec 4) (m x : Mask) : (g.wrK n m x).draws = g.draws := by
  unfold Group.wrK; split <;> rfl
@[simp] theorem Group.wrK_sessValid (g : Group) (n : BitVec 4) (m x : Mask) : (g.wrK n m x).sessValid = g.sessValid := by
  unfold Group.wrK; split <;> rfl
@[simp] theorem Group.wrK_injArm (g : Group) (n : BitVec 4) (m x : Mask) : (g.wrK n m x).injArm = g.injArm := by
  unfold Group.wrK; split <;> rfl
@[simp] theorem Group.wrK_injKind (g : Group) (n : BitVec 4) (m x : Mask) : (g.wrK n m x).injKind = g.injKind := by
  unfold Group.wrK; split <;> rfl
@[simp] theorem Group.wrK_injAfter (g : Group) (n : BitVec 4) (m x : Mask) : (g.wrK n m x).injAfter = g.injAfter := by
  unfold Group.wrK; split <;> rfl
@[simp] theorem Group.wrK_injCount (g : Group) (n : BitVec 4) (m x : Mask) : (g.wrK n m x).injCount = g.injCount := by
  unfold Group.wrK; split <;> rfl
@[simp] theorem Group.wrK_qround (g : Group) (n : BitVec 4) (m x : Mask) : (g.wrK n m x).qround = g.qround := by
  unfold Group.wrK; split <;> rfl
@[simp] theorem Group.wrK_qcnt (g : Group) (n : BitVec 4) (m x : Mask) : (g.wrK n m x).qcnt = g.qcnt := by
  unfold Group.wrK; split <;> rfl
@[simp] theorem Group.wrK_atRound (g : Group) (n : BitVec 4) (m x : Mask) : (g.wrK n m x).atRound = g.atRound := by
  unfold Group.wrK; split <;> rfl
@[simp] theorem Group.wrK_vmarks (g : Group) (n : BitVec 4) (m x : Mask) : (g.wrK n m x).vmarks = g.vmarks := by
  unfold Group.wrK; split <;> rfl
@[simp] theorem Group.wrK_tmarks (g : Group) (n : BitVec 4) (m x : Mask) : (g.wrK n m x).tmarks = g.tmarks := by
  unfold Group.wrK; split <;> rfl
@[simp] theorem Group.wrK_cursor (g : Group) (n : BitVec 4) (m x : Mask) : (g.wrK n m x).cursor = g.cursor := by
  unfold Group.wrK; split <;> rfl
@[simp] theorem Group.wrK_drawn (g : Group) (n : BitVec 4) (m x : Mask) : (g.wrK n m x).drawn = g.drawn := by
  unfold Group.wrK; split <;> rfl
@[simp] theorem Group.wrK_gateSeq (g : Group) (n : BitVec 4) (m x : Mask) : (g.wrK n m x).gateSeq = g.gateSeq := by
  unfold Group.wrK; split <;> rfl
@[simp] theorem Group.wrK_skip (g : Group) (n : BitVec 4) (m x : Mask) : (g.wrK n m x).skip = g.skip := by
  unfold Group.wrK; split <;> rfl
@[simp] theorem Group.wrK_lost (g : Group) (n : BitVec 4) (m x : Mask) : (g.wrK n m x).lost = g.lost := by
  unfold Group.wrK; split <;> rfl
@[simp] theorem Group.wrK_bc (g : Group) (n : BitVec 4) (m x : Mask) : (g.wrK n m x).bc = g.bc := by
  unfold Group.wrK; split <;> rfl
@[simp] theorem Group.wrK_bm (g : Group) (n : BitVec 4) (m x : Mask) : (g.wrK n m x).bm = g.bm := by
  unfold Group.wrK; split <;> rfl
@[simp] theorem Group.wrK_bg (g : Group) (n : BitVec 4) (m x : Mask) : (g.wrK n m x).bg = g.bg := by
  unfold Group.wrK; split <;> rfl
@[simp] theorem Group.wrK_reqs (g : Group) (n : BitVec 4) (m x : Mask) : (g.wrK n m x).reqs = g.reqs := by
  unfold Group.wrK; split <;> rfl
@[simp] theorem Group.wrK_copies (g : Group) (n : BitVec 4) (m x : Mask) : (g.wrK n m x).copies = g.copies := by
  unfold Group.wrK; split <;> rfl
@[simp] theorem Group.wrK_gates (g : Group) (n : BitVec 4) (m x : Mask) : (g.wrK n m x).gates = g.gates := by
  unfold Group.wrK; split <;> rfl
@[simp] theorem Group.wrK_tlds (g : Group) (n : BitVec 4) (m x : Mask) : (g.wrK n m x).tlds = g.tlds := by
  unfold Group.wrK; split <;> rfl
@[simp] theorem Group.wrK_orphans (g : Group) (n : BitVec 4) (m x : Mask) : (g.wrK n m x).orphans = g.orphans := by
  unfold Group.wrK; split <;> rfl
@[simp] theorem Group.wrK_lastMma (g : Group) (n : BitVec 4) (m x : Mask) : (g.wrK n m x).lastMma = g.lastMma := by
  unfold Group.wrK; split <;> rfl
@[simp] theorem Group.wrK_deferred (g : Group) (n : BitVec 4) (m x : Mask) : (g.wrK n m x).deferred = g.deferred := by
  unfold Group.wrK; split <;> rfl
@[simp] theorem Group.wrK_deferHeld (g : Group) (n : BitVec 4) (m x : Mask) : (g.wrK n m x).deferHeld = g.deferHeld := by
  unfold Group.wrK; split <;> rfl
@[simp] theorem Group.wrK_groupHeld (g : Group) (n : BitVec 4) (m x : Mask) : (g.wrK n m x).groupHeld = g.groupHeld := by
  unfold Group.wrK; split <;> rfl
@[simp] theorem Group.wrK_stopped (g : Group) (n : BitVec 4) (m x : Mask) : (g.wrK n m x).stopped = g.stopped := by
  unfold Group.wrK; split <;> rfl
@[simp] theorem Group.wrK_halted (g : Group) (n : BitVec 4) (m x : Mask) : (g.wrK n m x).halted = g.halted := by
  unfold Group.wrK; split <;> rfl
@[simp] theorem Group.wrK_ending (g : Group) (n : BitVec 4) (m x : Mask) : (g.wrK n m x).ending = g.ending := by
  unfold Group.wrK; split <;> rfl
@[simp] theorem Group.wrK_clampPend (g : Group) (n : BitVec 4) (m x : Mask) : (g.wrK n m x).clampPend = g.clampPend := by
  unfold Group.wrK; split <;> rfl
@[simp] theorem Group.wrK_clampAt (g : Group) (n : BitVec 4) (m x : Mask) : (g.wrK n m x).clampAt = g.clampAt := by
  unfold Group.wrK; split <;> rfl
@[simp] theorem Group.wrK_sliceAt (g : Group) (n : BitVec 4) (m x : Mask) : (g.wrK n m x).sliceAt = g.sliceAt := by
  unfold Group.wrK; split <;> rfl
@[simp] theorem Group.wrK_boost (g : Group) (n : BitVec 4) (m x : Mask) : (g.wrK n m x).boost = g.boost := by
  unfold Group.wrK; split <;> rfl
@[simp] theorem Group.wrK_readyAt (g : Group) (n : BitVec 4) (m x : Mask) : (g.wrK n m x).readyAt = g.readyAt := by
  unfold Group.wrK; split <;> rfl
@[simp] theorem Group.wrK_lastIssue (g : Group) (n : BitVec 4) (m x : Mask) : (g.wrK n m x).lastIssue = g.lastIssue := by
  unfold Group.wrK; split <;> rfl
@[simp] theorem Group.wrK_lastCls (g : Group) (n : BitVec 4) (m x : Mask) : (g.wrK n m x).lastCls = g.lastCls := by
  unfold Group.wrK; split <;> rfl
@[simp] theorem Group.wrK_yielded (g : Group) (n : BitVec 4) (m x : Mask) : (g.wrK n m x).yielded = g.yielded := by
  unfold Group.wrK; split <;> rfl
@[simp] theorem Group.wrK_stopAt (g : Group) (n : BitVec 4) (m x : Mask) : (g.wrK n m x).stopAt = g.stopAt := by
  unfold Group.wrK; split <;> rfl
@[simp] theorem Group.wrK_haltAt (g : Group) (n : BitVec 4) (m x : Mask) : (g.wrK n m x).haltAt = g.haltAt := by
  unfold Group.wrK; split <;> rfl
@[simp] theorem Group.wrK_saving (g : Group) (n : BitVec 4) (m x : Mask) : (g.wrK n m x).saving = g.saving := by
  unfold Group.wrK; split <;> rfl
@[simp] theorem Group.wrK_drain (g : Group) (n : BitVec 4) (m x : Mask) : (g.wrK n m x).drain = g.drain := by
  unfold Group.wrK; split <;> rfl
@[simp] theorem Group.wrK_saves (g : Group) (n : BitVec 4) (m x : Mask) : (g.wrK n m x).saves = g.saves := by
  unfold Group.wrK; split <;> rfl
@[simp] theorem Group.wrK_parkCut (g : Group) (n : BitVec 4) (m x : Mask) : (g.wrK n m x).parkCut = g.parkCut := by
  unfold Group.wrK; split <;> rfl
@[simp] theorem Group.wrK_staged (g : Group) (n : BitVec 4) (m x : Mask) : (g.wrK n m x).staged = g.staged := by
  unfold Group.wrK; split <;> rfl
@[simp] theorem Group.wrK_commit (g : Group) (n : BitVec 4) (m x : Mask) : (g.wrK n m x).commit = g.commit := by
  unfold Group.wrK; split <;> rfl
@[simp] theorem Group.wrK_qdone (g : Group) (n : BitVec 4) (m x : Mask) : (g.wrK n m x).qdone = g.qdone := by
  unfold Group.wrK; split <;> rfl
@[simp] theorem Group.wrK_aside (g : Group) (n : BitVec 4) (m x : Mask) : (g.wrK n m x).aside = g.aside := by
  unfold Group.wrK; split <;> rfl

/-! What `Group.setTile` leaves alone. -/
@[simp] theorem Group.setTile_part (g : Group) (n : Nat) (x : SMap 8) : (g.setTile n x).part = g.part := rfl
@[simp] theorem Group.setTile_team (g : Group) (n : Nat) (x : SMap 8) : (g.setTile n x).team = g.team := rfl
@[simp] theorem Group.setTile_gidx (g : Group) (n : Nat) (x : SMap 8) : (g.setTile n x).gidx = g.gidx := rfl
@[simp] theorem Group.setTile_core (g : Group) (n : Nat) (x : SMap 8) : (g.setTile n x).core = g.core := rfl
@[simp] theorem Group.setTile_slot (g : Group) (n : Nat) (x : SMap 8) : (g.setTile n x).slot = g.slot := rfl
@[simp] theorem Group.setTile_seq (g : Group) (n : Nat) (x : SMap 8) : (g.setTile n x).seq = g.seq := rfl
@[simp] theorem Group.setTile_cuttings (g : Group) (n : Nat) (x : SMap 8) : (g.setTile n x).cuttings = g.cuttings := rfl
@[simp] theorem Group.setTile_frags (g : Group) (n : Nat) (x : SMap 8) : (g.setTile n x).frags = g.frags := rfl
@[simp] theorem Group.setTile_stack (g : Group) (n : Nat) (x : SMap 8) : (g.setTile n x).stack = g.stack := rfl
@[simp] theorem Group.setTile_seamCount (g : Group) (n : Nat) (x : SMap 8) : (g.setTile n x).seamCount = g.seamCount := rfl
@[simp] theorem Group.setTile_k (g : Group) (n : Nat) (x : SMap 8) : (g.setTile n x).k = g.k := rfl
@[simp] theorem Group.setTile_v (g : Group) (n : Nat) (x : SMap 8) : (g.setTile n x).v = g.v := rfl
@[simp] theorem Group.setTile_valloc (g : Group) (n : Nat) (x : SMap 8) : (g.setTile n x).valloc = g.valloc := rfl
@[simp] theorem Group.setTile_tc (g : Group) (n : Nat) (x : SMap 8) : (g.setTile n x).tc = g.tc := rfl
@[simp] theorem Group.setTile_accs (g : Group) (n : Nat) (x : SMap 8) : (g.setTile n x).accs = g.accs := rfl
@[simp] theorem Group.setTile_binds (g : Group) (n : Nat) (x : SMap 8) : (g.setTile n x).binds = g.binds := rfl
@[simp] theorem Group.setTile_b (g : Group) (n : Nat) (x : SMap 8) : (g.setTile n x).b = g.b := rfl
@[simp] theorem Group.setTile_slots (g : Group) (n : Nat) (x : SMap 8) : (g.setTile n x).slots = g.slots := rfl
@[simp] theorem Group.setTile_evm (g : Group) (n : Nat) (x : SMap 8) : (g.setTile n x).evm = g.evm := rfl
@[simp] theorem Group.setTile_evinfo (g : Group) (n : Nat) (x : SMap 8) : (g.setTile n x).evinfo = g.evinfo := rfl
@[simp] theorem Group.setTile_mailbox (g : Group) (n : Nat) (x : SMap 8) : (g.setTile n x).mailbox = g.mailbox := rfl
@[simp] theorem Group.setTile_ibud (g : Group) (n : Nat) (x : SMap 8) : (g.setTile n x).ibud = g.ibud := rfl
@[simp] theorem Group.setTile_mbud (g : Group) (n : Nat) (x : SMap 8) : (g.setTile n x).mbud = g.mbud := rfl
@[simp] theorem Group.setTile_landing (g : Group) (n : Nat) (x : SMap 8) : (g.setTile n x).landing = g.landing := rfl
@[simp] theorem Group.setTile_trap (g : Group) (n : Nat) (x : SMap 8) : (g.setTile n x).trap = g.trap := rfl
@[simp] theorem Group.setTile_fflags (g : Group) (n : Nat) (x : SMap 8) : (g.setTile n x).fflags = g.fflags := rfl
@[simp] theorem Group.setTile_flagsAt (g : Group) (n : Nat) (x : SMap 8) : (g.setTile n x).flagsAt = g.flagsAt := rfl
@[simp] theorem Group.setTile_rm (g : Group) (n : Nat) (x : SMap 8) : (g.setTile n x).rm = g.rm := rfl
@[simp] theorem Group.setTile_ftz (g : Group) (n : Nat) (x : SMap 8) : (g.setTile n x).ftz = g.ftz := rfl
@[simp] theorem Group.setTile_privl (g : Group) (n : Nat) (x : SMap 8) : (g.setTile n x).privl = g.privl := rfl
@[simp] theorem Group.setTile_lchk (g : Group) (n : Nat) (x : SMap 8) : (g.setTile n x).lchk = g.lchk := rfl
@[simp] theorem Group.setTile_uchk (g : Group) (n : Nat) (x : SMap 8) : (g.setTile n x).uchk = g.uchk := rfl
@[simp] theorem Group.setTile_icnt (g : Group) (n : Nat) (x : SMap 8) : (g.setTile n x).icnt = g.icnt := rfl
@[simp] theorem Group.setTile_retired (g : Group) (n : Nat) (x : SMap 8) : (g.setTile n x).retired = g.retired := rfl
@[simp] theorem Group.setTile_draws (g : Group) (n : Nat) (x : SMap 8) : (g.setTile n x).draws = g.draws := rfl
@[simp] theorem Group.setTile_sessValid (g : Group) (n : Nat) (x : SMap 8) : (g.setTile n x).sessValid = g.sessValid := rfl
@[simp] theorem Group.setTile_injArm (g : Group) (n : Nat) (x : SMap 8) : (g.setTile n x).injArm = g.injArm := rfl
@[simp] theorem Group.setTile_injKind (g : Group) (n : Nat) (x : SMap 8) : (g.setTile n x).injKind = g.injKind := rfl
@[simp] theorem Group.setTile_injAfter (g : Group) (n : Nat) (x : SMap 8) : (g.setTile n x).injAfter = g.injAfter := rfl
@[simp] theorem Group.setTile_injCount (g : Group) (n : Nat) (x : SMap 8) : (g.setTile n x).injCount = g.injCount := rfl
@[simp] theorem Group.setTile_qround (g : Group) (n : Nat) (x : SMap 8) : (g.setTile n x).qround = g.qround := rfl
@[simp] theorem Group.setTile_qcnt (g : Group) (n : Nat) (x : SMap 8) : (g.setTile n x).qcnt = g.qcnt := rfl
@[simp] theorem Group.setTile_atRound (g : Group) (n : Nat) (x : SMap 8) : (g.setTile n x).atRound = g.atRound := rfl
@[simp] theorem Group.setTile_vmarks (g : Group) (n : Nat) (x : SMap 8) : (g.setTile n x).vmarks = g.vmarks := rfl
@[simp] theorem Group.setTile_tmarks (g : Group) (n : Nat) (x : SMap 8) : (g.setTile n x).tmarks = g.tmarks := rfl
@[simp] theorem Group.setTile_cursor (g : Group) (n : Nat) (x : SMap 8) : (g.setTile n x).cursor = g.cursor := rfl
@[simp] theorem Group.setTile_drawn (g : Group) (n : Nat) (x : SMap 8) : (g.setTile n x).drawn = g.drawn := rfl
@[simp] theorem Group.setTile_gateSeq (g : Group) (n : Nat) (x : SMap 8) : (g.setTile n x).gateSeq = g.gateSeq := rfl
@[simp] theorem Group.setTile_skip (g : Group) (n : Nat) (x : SMap 8) : (g.setTile n x).skip = g.skip := rfl
@[simp] theorem Group.setTile_lost (g : Group) (n : Nat) (x : SMap 8) : (g.setTile n x).lost = g.lost := rfl
@[simp] theorem Group.setTile_bc (g : Group) (n : Nat) (x : SMap 8) : (g.setTile n x).bc = g.bc := rfl
@[simp] theorem Group.setTile_bm (g : Group) (n : Nat) (x : SMap 8) : (g.setTile n x).bm = g.bm := rfl
@[simp] theorem Group.setTile_bg (g : Group) (n : Nat) (x : SMap 8) : (g.setTile n x).bg = g.bg := rfl
@[simp] theorem Group.setTile_reqs (g : Group) (n : Nat) (x : SMap 8) : (g.setTile n x).reqs = g.reqs := rfl
@[simp] theorem Group.setTile_copies (g : Group) (n : Nat) (x : SMap 8) : (g.setTile n x).copies = g.copies := rfl
@[simp] theorem Group.setTile_gates (g : Group) (n : Nat) (x : SMap 8) : (g.setTile n x).gates = g.gates := rfl
@[simp] theorem Group.setTile_tlds (g : Group) (n : Nat) (x : SMap 8) : (g.setTile n x).tlds = g.tlds := rfl
@[simp] theorem Group.setTile_orphans (g : Group) (n : Nat) (x : SMap 8) : (g.setTile n x).orphans = g.orphans := rfl
@[simp] theorem Group.setTile_lastMma (g : Group) (n : Nat) (x : SMap 8) : (g.setTile n x).lastMma = g.lastMma := rfl
@[simp] theorem Group.setTile_deferred (g : Group) (n : Nat) (x : SMap 8) : (g.setTile n x).deferred = g.deferred := rfl
@[simp] theorem Group.setTile_deferHeld (g : Group) (n : Nat) (x : SMap 8) : (g.setTile n x).deferHeld = g.deferHeld := rfl
@[simp] theorem Group.setTile_groupHeld (g : Group) (n : Nat) (x : SMap 8) : (g.setTile n x).groupHeld = g.groupHeld := rfl
@[simp] theorem Group.setTile_stopped (g : Group) (n : Nat) (x : SMap 8) : (g.setTile n x).stopped = g.stopped := rfl
@[simp] theorem Group.setTile_halted (g : Group) (n : Nat) (x : SMap 8) : (g.setTile n x).halted = g.halted := rfl
@[simp] theorem Group.setTile_ending (g : Group) (n : Nat) (x : SMap 8) : (g.setTile n x).ending = g.ending := rfl
@[simp] theorem Group.setTile_clampPend (g : Group) (n : Nat) (x : SMap 8) : (g.setTile n x).clampPend = g.clampPend := rfl
@[simp] theorem Group.setTile_clampAt (g : Group) (n : Nat) (x : SMap 8) : (g.setTile n x).clampAt = g.clampAt := rfl
@[simp] theorem Group.setTile_sliceAt (g : Group) (n : Nat) (x : SMap 8) : (g.setTile n x).sliceAt = g.sliceAt := rfl
@[simp] theorem Group.setTile_boost (g : Group) (n : Nat) (x : SMap 8) : (g.setTile n x).boost = g.boost := rfl
@[simp] theorem Group.setTile_readyAt (g : Group) (n : Nat) (x : SMap 8) : (g.setTile n x).readyAt = g.readyAt := rfl
@[simp] theorem Group.setTile_lastIssue (g : Group) (n : Nat) (x : SMap 8) : (g.setTile n x).lastIssue = g.lastIssue := rfl
@[simp] theorem Group.setTile_lastCls (g : Group) (n : Nat) (x : SMap 8) : (g.setTile n x).lastCls = g.lastCls := rfl
@[simp] theorem Group.setTile_yielded (g : Group) (n : Nat) (x : SMap 8) : (g.setTile n x).yielded = g.yielded := rfl
@[simp] theorem Group.setTile_stopAt (g : Group) (n : Nat) (x : SMap 8) : (g.setTile n x).stopAt = g.stopAt := rfl
@[simp] theorem Group.setTile_haltAt (g : Group) (n : Nat) (x : SMap 8) : (g.setTile n x).haltAt = g.haltAt := rfl
@[simp] theorem Group.setTile_saving (g : Group) (n : Nat) (x : SMap 8) : (g.setTile n x).saving = g.saving := rfl
@[simp] theorem Group.setTile_drain (g : Group) (n : Nat) (x : SMap 8) : (g.setTile n x).drain = g.drain := rfl
@[simp] theorem Group.setTile_saves (g : Group) (n : Nat) (x : SMap 8) : (g.setTile n x).saves = g.saves := rfl
@[simp] theorem Group.setTile_parkCut (g : Group) (n : Nat) (x : SMap 8) : (g.setTile n x).parkCut = g.parkCut := rfl
@[simp] theorem Group.setTile_staged (g : Group) (n : Nat) (x : SMap 8) : (g.setTile n x).staged = g.staged := rfl
@[simp] theorem Group.setTile_commit (g : Group) (n : Nat) (x : SMap 8) : (g.setTile n x).commit = g.commit := rfl
@[simp] theorem Group.setTile_qdone (g : Group) (n : Nat) (x : SMap 8) : (g.setTile n x).qdone = g.qdone := rfl
@[simp] theorem Group.setTile_aside (g : Group) (n : Nat) (x : SMap 8) : (g.setTile n x).aside = g.aside := rfl

/-! What `Group.setShape` leaves alone. -/
@[simp] theorem Group.setShape_part (g : Group) (n : Nat) (x : TileShape) : (g.setShape n x).part = g.part := rfl
@[simp] theorem Group.setShape_team (g : Group) (n : Nat) (x : TileShape) : (g.setShape n x).team = g.team := rfl
@[simp] theorem Group.setShape_gidx (g : Group) (n : Nat) (x : TileShape) : (g.setShape n x).gidx = g.gidx := rfl
@[simp] theorem Group.setShape_core (g : Group) (n : Nat) (x : TileShape) : (g.setShape n x).core = g.core := rfl
@[simp] theorem Group.setShape_slot (g : Group) (n : Nat) (x : TileShape) : (g.setShape n x).slot = g.slot := rfl
@[simp] theorem Group.setShape_seq (g : Group) (n : Nat) (x : TileShape) : (g.setShape n x).seq = g.seq := rfl
@[simp] theorem Group.setShape_cuttings (g : Group) (n : Nat) (x : TileShape) : (g.setShape n x).cuttings = g.cuttings := rfl
@[simp] theorem Group.setShape_frags (g : Group) (n : Nat) (x : TileShape) : (g.setShape n x).frags = g.frags := rfl
@[simp] theorem Group.setShape_stack (g : Group) (n : Nat) (x : TileShape) : (g.setShape n x).stack = g.stack := rfl
@[simp] theorem Group.setShape_seamCount (g : Group) (n : Nat) (x : TileShape) : (g.setShape n x).seamCount = g.seamCount := rfl
@[simp] theorem Group.setShape_k (g : Group) (n : Nat) (x : TileShape) : (g.setShape n x).k = g.k := rfl
@[simp] theorem Group.setShape_v (g : Group) (n : Nat) (x : TileShape) : (g.setShape n x).v = g.v := rfl
@[simp] theorem Group.setShape_valloc (g : Group) (n : Nat) (x : TileShape) : (g.setShape n x).valloc = g.valloc := rfl
@[simp] theorem Group.setShape_tiles (g : Group) (n : Nat) (x : TileShape) : (g.setShape n x).tiles = g.tiles := rfl
@[simp] theorem Group.setShape_accs (g : Group) (n : Nat) (x : TileShape) : (g.setShape n x).accs = g.accs := rfl
@[simp] theorem Group.setShape_binds (g : Group) (n : Nat) (x : TileShape) : (g.setShape n x).binds = g.binds := rfl
@[simp] theorem Group.setShape_b (g : Group) (n : Nat) (x : TileShape) : (g.setShape n x).b = g.b := rfl
@[simp] theorem Group.setShape_slots (g : Group) (n : Nat) (x : TileShape) : (g.setShape n x).slots = g.slots := rfl
@[simp] theorem Group.setShape_evm (g : Group) (n : Nat) (x : TileShape) : (g.setShape n x).evm = g.evm := rfl
@[simp] theorem Group.setShape_evinfo (g : Group) (n : Nat) (x : TileShape) : (g.setShape n x).evinfo = g.evinfo := rfl
@[simp] theorem Group.setShape_mailbox (g : Group) (n : Nat) (x : TileShape) : (g.setShape n x).mailbox = g.mailbox := rfl
@[simp] theorem Group.setShape_ibud (g : Group) (n : Nat) (x : TileShape) : (g.setShape n x).ibud = g.ibud := rfl
@[simp] theorem Group.setShape_mbud (g : Group) (n : Nat) (x : TileShape) : (g.setShape n x).mbud = g.mbud := rfl
@[simp] theorem Group.setShape_landing (g : Group) (n : Nat) (x : TileShape) : (g.setShape n x).landing = g.landing := rfl
@[simp] theorem Group.setShape_trap (g : Group) (n : Nat) (x : TileShape) : (g.setShape n x).trap = g.trap := rfl
@[simp] theorem Group.setShape_fflags (g : Group) (n : Nat) (x : TileShape) : (g.setShape n x).fflags = g.fflags := rfl
@[simp] theorem Group.setShape_flagsAt (g : Group) (n : Nat) (x : TileShape) : (g.setShape n x).flagsAt = g.flagsAt := rfl
@[simp] theorem Group.setShape_rm (g : Group) (n : Nat) (x : TileShape) : (g.setShape n x).rm = g.rm := rfl
@[simp] theorem Group.setShape_ftz (g : Group) (n : Nat) (x : TileShape) : (g.setShape n x).ftz = g.ftz := rfl
@[simp] theorem Group.setShape_privl (g : Group) (n : Nat) (x : TileShape) : (g.setShape n x).privl = g.privl := rfl
@[simp] theorem Group.setShape_lchk (g : Group) (n : Nat) (x : TileShape) : (g.setShape n x).lchk = g.lchk := rfl
@[simp] theorem Group.setShape_uchk (g : Group) (n : Nat) (x : TileShape) : (g.setShape n x).uchk = g.uchk := rfl
@[simp] theorem Group.setShape_icnt (g : Group) (n : Nat) (x : TileShape) : (g.setShape n x).icnt = g.icnt := rfl
@[simp] theorem Group.setShape_retired (g : Group) (n : Nat) (x : TileShape) : (g.setShape n x).retired = g.retired := rfl
@[simp] theorem Group.setShape_draws (g : Group) (n : Nat) (x : TileShape) : (g.setShape n x).draws = g.draws := rfl
@[simp] theorem Group.setShape_sessValid (g : Group) (n : Nat) (x : TileShape) : (g.setShape n x).sessValid = g.sessValid := rfl
@[simp] theorem Group.setShape_injArm (g : Group) (n : Nat) (x : TileShape) : (g.setShape n x).injArm = g.injArm := rfl
@[simp] theorem Group.setShape_injKind (g : Group) (n : Nat) (x : TileShape) : (g.setShape n x).injKind = g.injKind := rfl
@[simp] theorem Group.setShape_injAfter (g : Group) (n : Nat) (x : TileShape) : (g.setShape n x).injAfter = g.injAfter := rfl
@[simp] theorem Group.setShape_injCount (g : Group) (n : Nat) (x : TileShape) : (g.setShape n x).injCount = g.injCount := rfl
@[simp] theorem Group.setShape_qround (g : Group) (n : Nat) (x : TileShape) : (g.setShape n x).qround = g.qround := rfl
@[simp] theorem Group.setShape_qcnt (g : Group) (n : Nat) (x : TileShape) : (g.setShape n x).qcnt = g.qcnt := rfl
@[simp] theorem Group.setShape_atRound (g : Group) (n : Nat) (x : TileShape) : (g.setShape n x).atRound = g.atRound := rfl
@[simp] theorem Group.setShape_vmarks (g : Group) (n : Nat) (x : TileShape) : (g.setShape n x).vmarks = g.vmarks := rfl
@[simp] theorem Group.setShape_tmarks (g : Group) (n : Nat) (x : TileShape) : (g.setShape n x).tmarks = g.tmarks := rfl
@[simp] theorem Group.setShape_cursor (g : Group) (n : Nat) (x : TileShape) : (g.setShape n x).cursor = g.cursor := rfl
@[simp] theorem Group.setShape_drawn (g : Group) (n : Nat) (x : TileShape) : (g.setShape n x).drawn = g.drawn := rfl
@[simp] theorem Group.setShape_gateSeq (g : Group) (n : Nat) (x : TileShape) : (g.setShape n x).gateSeq = g.gateSeq := rfl
@[simp] theorem Group.setShape_skip (g : Group) (n : Nat) (x : TileShape) : (g.setShape n x).skip = g.skip := rfl
@[simp] theorem Group.setShape_lost (g : Group) (n : Nat) (x : TileShape) : (g.setShape n x).lost = g.lost := rfl
@[simp] theorem Group.setShape_bc (g : Group) (n : Nat) (x : TileShape) : (g.setShape n x).bc = g.bc := rfl
@[simp] theorem Group.setShape_bm (g : Group) (n : Nat) (x : TileShape) : (g.setShape n x).bm = g.bm := rfl
@[simp] theorem Group.setShape_bg (g : Group) (n : Nat) (x : TileShape) : (g.setShape n x).bg = g.bg := rfl
@[simp] theorem Group.setShape_reqs (g : Group) (n : Nat) (x : TileShape) : (g.setShape n x).reqs = g.reqs := rfl
@[simp] theorem Group.setShape_copies (g : Group) (n : Nat) (x : TileShape) : (g.setShape n x).copies = g.copies := rfl
@[simp] theorem Group.setShape_gates (g : Group) (n : Nat) (x : TileShape) : (g.setShape n x).gates = g.gates := rfl
@[simp] theorem Group.setShape_tlds (g : Group) (n : Nat) (x : TileShape) : (g.setShape n x).tlds = g.tlds := rfl
@[simp] theorem Group.setShape_orphans (g : Group) (n : Nat) (x : TileShape) : (g.setShape n x).orphans = g.orphans := rfl
@[simp] theorem Group.setShape_lastMma (g : Group) (n : Nat) (x : TileShape) : (g.setShape n x).lastMma = g.lastMma := rfl
@[simp] theorem Group.setShape_deferred (g : Group) (n : Nat) (x : TileShape) : (g.setShape n x).deferred = g.deferred := rfl
@[simp] theorem Group.setShape_deferHeld (g : Group) (n : Nat) (x : TileShape) : (g.setShape n x).deferHeld = g.deferHeld := rfl
@[simp] theorem Group.setShape_groupHeld (g : Group) (n : Nat) (x : TileShape) : (g.setShape n x).groupHeld = g.groupHeld := rfl
@[simp] theorem Group.setShape_stopped (g : Group) (n : Nat) (x : TileShape) : (g.setShape n x).stopped = g.stopped := rfl
@[simp] theorem Group.setShape_halted (g : Group) (n : Nat) (x : TileShape) : (g.setShape n x).halted = g.halted := rfl
@[simp] theorem Group.setShape_ending (g : Group) (n : Nat) (x : TileShape) : (g.setShape n x).ending = g.ending := rfl
@[simp] theorem Group.setShape_clampPend (g : Group) (n : Nat) (x : TileShape) : (g.setShape n x).clampPend = g.clampPend := rfl
@[simp] theorem Group.setShape_clampAt (g : Group) (n : Nat) (x : TileShape) : (g.setShape n x).clampAt = g.clampAt := rfl
@[simp] theorem Group.setShape_sliceAt (g : Group) (n : Nat) (x : TileShape) : (g.setShape n x).sliceAt = g.sliceAt := rfl
@[simp] theorem Group.setShape_boost (g : Group) (n : Nat) (x : TileShape) : (g.setShape n x).boost = g.boost := rfl
@[simp] theorem Group.setShape_readyAt (g : Group) (n : Nat) (x : TileShape) : (g.setShape n x).readyAt = g.readyAt := rfl
@[simp] theorem Group.setShape_lastIssue (g : Group) (n : Nat) (x : TileShape) : (g.setShape n x).lastIssue = g.lastIssue := rfl
@[simp] theorem Group.setShape_lastCls (g : Group) (n : Nat) (x : TileShape) : (g.setShape n x).lastCls = g.lastCls := rfl
@[simp] theorem Group.setShape_yielded (g : Group) (n : Nat) (x : TileShape) : (g.setShape n x).yielded = g.yielded := rfl
@[simp] theorem Group.setShape_stopAt (g : Group) (n : Nat) (x : TileShape) : (g.setShape n x).stopAt = g.stopAt := rfl
@[simp] theorem Group.setShape_haltAt (g : Group) (n : Nat) (x : TileShape) : (g.setShape n x).haltAt = g.haltAt := rfl
@[simp] theorem Group.setShape_saving (g : Group) (n : Nat) (x : TileShape) : (g.setShape n x).saving = g.saving := rfl
@[simp] theorem Group.setShape_drain (g : Group) (n : Nat) (x : TileShape) : (g.setShape n x).drain = g.drain := rfl
@[simp] theorem Group.setShape_saves (g : Group) (n : Nat) (x : TileShape) : (g.setShape n x).saves = g.saves := rfl
@[simp] theorem Group.setShape_parkCut (g : Group) (n : Nat) (x : TileShape) : (g.setShape n x).parkCut = g.parkCut := rfl
@[simp] theorem Group.setShape_staged (g : Group) (n : Nat) (x : TileShape) : (g.setShape n x).staged = g.staged := rfl
@[simp] theorem Group.setShape_commit (g : Group) (n : Nat) (x : TileShape) : (g.setShape n x).commit = g.commit := rfl
@[simp] theorem Group.setShape_qdone (g : Group) (n : Nat) (x : TileShape) : (g.setShape n x).qdone = g.qdone := rfl
@[simp] theorem Group.setShape_aside (g : Group) (n : Nat) (x : TileShape) : (g.setShape n x).aside = g.aside := rfl

/-! What `Group.setAcc` leaves alone. -/
@[simp] theorem Group.setAcc_part (g : Group) (n : Nat) (x : SMap 32) : (g.setAcc n x).part = g.part := rfl
@[simp] theorem Group.setAcc_team (g : Group) (n : Nat) (x : SMap 32) : (g.setAcc n x).team = g.team := rfl
@[simp] theorem Group.setAcc_gidx (g : Group) (n : Nat) (x : SMap 32) : (g.setAcc n x).gidx = g.gidx := rfl
@[simp] theorem Group.setAcc_core (g : Group) (n : Nat) (x : SMap 32) : (g.setAcc n x).core = g.core := rfl
@[simp] theorem Group.setAcc_slot (g : Group) (n : Nat) (x : SMap 32) : (g.setAcc n x).slot = g.slot := rfl
@[simp] theorem Group.setAcc_seq (g : Group) (n : Nat) (x : SMap 32) : (g.setAcc n x).seq = g.seq := rfl
@[simp] theorem Group.setAcc_cuttings (g : Group) (n : Nat) (x : SMap 32) : (g.setAcc n x).cuttings = g.cuttings := rfl
@[simp] theorem Group.setAcc_frags (g : Group) (n : Nat) (x : SMap 32) : (g.setAcc n x).frags = g.frags := rfl
@[simp] theorem Group.setAcc_stack (g : Group) (n : Nat) (x : SMap 32) : (g.setAcc n x).stack = g.stack := rfl
@[simp] theorem Group.setAcc_seamCount (g : Group) (n : Nat) (x : SMap 32) : (g.setAcc n x).seamCount = g.seamCount := rfl
@[simp] theorem Group.setAcc_k (g : Group) (n : Nat) (x : SMap 32) : (g.setAcc n x).k = g.k := rfl
@[simp] theorem Group.setAcc_v (g : Group) (n : Nat) (x : SMap 32) : (g.setAcc n x).v = g.v := rfl
@[simp] theorem Group.setAcc_valloc (g : Group) (n : Nat) (x : SMap 32) : (g.setAcc n x).valloc = g.valloc := rfl
@[simp] theorem Group.setAcc_tiles (g : Group) (n : Nat) (x : SMap 32) : (g.setAcc n x).tiles = g.tiles := rfl
@[simp] theorem Group.setAcc_tc (g : Group) (n : Nat) (x : SMap 32) : (g.setAcc n x).tc = g.tc := rfl
@[simp] theorem Group.setAcc_binds (g : Group) (n : Nat) (x : SMap 32) : (g.setAcc n x).binds = g.binds := rfl
@[simp] theorem Group.setAcc_b (g : Group) (n : Nat) (x : SMap 32) : (g.setAcc n x).b = g.b := rfl
@[simp] theorem Group.setAcc_slots (g : Group) (n : Nat) (x : SMap 32) : (g.setAcc n x).slots = g.slots := rfl
@[simp] theorem Group.setAcc_evm (g : Group) (n : Nat) (x : SMap 32) : (g.setAcc n x).evm = g.evm := rfl
@[simp] theorem Group.setAcc_evinfo (g : Group) (n : Nat) (x : SMap 32) : (g.setAcc n x).evinfo = g.evinfo := rfl
@[simp] theorem Group.setAcc_mailbox (g : Group) (n : Nat) (x : SMap 32) : (g.setAcc n x).mailbox = g.mailbox := rfl
@[simp] theorem Group.setAcc_ibud (g : Group) (n : Nat) (x : SMap 32) : (g.setAcc n x).ibud = g.ibud := rfl
@[simp] theorem Group.setAcc_mbud (g : Group) (n : Nat) (x : SMap 32) : (g.setAcc n x).mbud = g.mbud := rfl
@[simp] theorem Group.setAcc_landing (g : Group) (n : Nat) (x : SMap 32) : (g.setAcc n x).landing = g.landing := rfl
@[simp] theorem Group.setAcc_trap (g : Group) (n : Nat) (x : SMap 32) : (g.setAcc n x).trap = g.trap := rfl
@[simp] theorem Group.setAcc_fflags (g : Group) (n : Nat) (x : SMap 32) : (g.setAcc n x).fflags = g.fflags := rfl
@[simp] theorem Group.setAcc_flagsAt (g : Group) (n : Nat) (x : SMap 32) : (g.setAcc n x).flagsAt = g.flagsAt := rfl
@[simp] theorem Group.setAcc_rm (g : Group) (n : Nat) (x : SMap 32) : (g.setAcc n x).rm = g.rm := rfl
@[simp] theorem Group.setAcc_ftz (g : Group) (n : Nat) (x : SMap 32) : (g.setAcc n x).ftz = g.ftz := rfl
@[simp] theorem Group.setAcc_privl (g : Group) (n : Nat) (x : SMap 32) : (g.setAcc n x).privl = g.privl := rfl
@[simp] theorem Group.setAcc_lchk (g : Group) (n : Nat) (x : SMap 32) : (g.setAcc n x).lchk = g.lchk := rfl
@[simp] theorem Group.setAcc_uchk (g : Group) (n : Nat) (x : SMap 32) : (g.setAcc n x).uchk = g.uchk := rfl
@[simp] theorem Group.setAcc_icnt (g : Group) (n : Nat) (x : SMap 32) : (g.setAcc n x).icnt = g.icnt := rfl
@[simp] theorem Group.setAcc_retired (g : Group) (n : Nat) (x : SMap 32) : (g.setAcc n x).retired = g.retired := rfl
@[simp] theorem Group.setAcc_draws (g : Group) (n : Nat) (x : SMap 32) : (g.setAcc n x).draws = g.draws := rfl
@[simp] theorem Group.setAcc_sessValid (g : Group) (n : Nat) (x : SMap 32) : (g.setAcc n x).sessValid = g.sessValid := rfl
@[simp] theorem Group.setAcc_injArm (g : Group) (n : Nat) (x : SMap 32) : (g.setAcc n x).injArm = g.injArm := rfl
@[simp] theorem Group.setAcc_injKind (g : Group) (n : Nat) (x : SMap 32) : (g.setAcc n x).injKind = g.injKind := rfl
@[simp] theorem Group.setAcc_injAfter (g : Group) (n : Nat) (x : SMap 32) : (g.setAcc n x).injAfter = g.injAfter := rfl
@[simp] theorem Group.setAcc_injCount (g : Group) (n : Nat) (x : SMap 32) : (g.setAcc n x).injCount = g.injCount := rfl
@[simp] theorem Group.setAcc_qround (g : Group) (n : Nat) (x : SMap 32) : (g.setAcc n x).qround = g.qround := rfl
@[simp] theorem Group.setAcc_qcnt (g : Group) (n : Nat) (x : SMap 32) : (g.setAcc n x).qcnt = g.qcnt := rfl
@[simp] theorem Group.setAcc_atRound (g : Group) (n : Nat) (x : SMap 32) : (g.setAcc n x).atRound = g.atRound := rfl
@[simp] theorem Group.setAcc_vmarks (g : Group) (n : Nat) (x : SMap 32) : (g.setAcc n x).vmarks = g.vmarks := rfl
@[simp] theorem Group.setAcc_tmarks (g : Group) (n : Nat) (x : SMap 32) : (g.setAcc n x).tmarks = g.tmarks := rfl
@[simp] theorem Group.setAcc_cursor (g : Group) (n : Nat) (x : SMap 32) : (g.setAcc n x).cursor = g.cursor := rfl
@[simp] theorem Group.setAcc_drawn (g : Group) (n : Nat) (x : SMap 32) : (g.setAcc n x).drawn = g.drawn := rfl
@[simp] theorem Group.setAcc_gateSeq (g : Group) (n : Nat) (x : SMap 32) : (g.setAcc n x).gateSeq = g.gateSeq := rfl
@[simp] theorem Group.setAcc_skip (g : Group) (n : Nat) (x : SMap 32) : (g.setAcc n x).skip = g.skip := rfl
@[simp] theorem Group.setAcc_lost (g : Group) (n : Nat) (x : SMap 32) : (g.setAcc n x).lost = g.lost := rfl
@[simp] theorem Group.setAcc_bc (g : Group) (n : Nat) (x : SMap 32) : (g.setAcc n x).bc = g.bc := rfl
@[simp] theorem Group.setAcc_bm (g : Group) (n : Nat) (x : SMap 32) : (g.setAcc n x).bm = g.bm := rfl
@[simp] theorem Group.setAcc_bg (g : Group) (n : Nat) (x : SMap 32) : (g.setAcc n x).bg = g.bg := rfl
@[simp] theorem Group.setAcc_reqs (g : Group) (n : Nat) (x : SMap 32) : (g.setAcc n x).reqs = g.reqs := rfl
@[simp] theorem Group.setAcc_copies (g : Group) (n : Nat) (x : SMap 32) : (g.setAcc n x).copies = g.copies := rfl
@[simp] theorem Group.setAcc_gates (g : Group) (n : Nat) (x : SMap 32) : (g.setAcc n x).gates = g.gates := rfl
@[simp] theorem Group.setAcc_tlds (g : Group) (n : Nat) (x : SMap 32) : (g.setAcc n x).tlds = g.tlds := rfl
@[simp] theorem Group.setAcc_orphans (g : Group) (n : Nat) (x : SMap 32) : (g.setAcc n x).orphans = g.orphans := rfl
@[simp] theorem Group.setAcc_lastMma (g : Group) (n : Nat) (x : SMap 32) : (g.setAcc n x).lastMma = g.lastMma := rfl
@[simp] theorem Group.setAcc_deferred (g : Group) (n : Nat) (x : SMap 32) : (g.setAcc n x).deferred = g.deferred := rfl
@[simp] theorem Group.setAcc_deferHeld (g : Group) (n : Nat) (x : SMap 32) : (g.setAcc n x).deferHeld = g.deferHeld := rfl
@[simp] theorem Group.setAcc_groupHeld (g : Group) (n : Nat) (x : SMap 32) : (g.setAcc n x).groupHeld = g.groupHeld := rfl
@[simp] theorem Group.setAcc_stopped (g : Group) (n : Nat) (x : SMap 32) : (g.setAcc n x).stopped = g.stopped := rfl
@[simp] theorem Group.setAcc_halted (g : Group) (n : Nat) (x : SMap 32) : (g.setAcc n x).halted = g.halted := rfl
@[simp] theorem Group.setAcc_ending (g : Group) (n : Nat) (x : SMap 32) : (g.setAcc n x).ending = g.ending := rfl
@[simp] theorem Group.setAcc_clampPend (g : Group) (n : Nat) (x : SMap 32) : (g.setAcc n x).clampPend = g.clampPend := rfl
@[simp] theorem Group.setAcc_clampAt (g : Group) (n : Nat) (x : SMap 32) : (g.setAcc n x).clampAt = g.clampAt := rfl
@[simp] theorem Group.setAcc_sliceAt (g : Group) (n : Nat) (x : SMap 32) : (g.setAcc n x).sliceAt = g.sliceAt := rfl
@[simp] theorem Group.setAcc_boost (g : Group) (n : Nat) (x : SMap 32) : (g.setAcc n x).boost = g.boost := rfl
@[simp] theorem Group.setAcc_readyAt (g : Group) (n : Nat) (x : SMap 32) : (g.setAcc n x).readyAt = g.readyAt := rfl
@[simp] theorem Group.setAcc_lastIssue (g : Group) (n : Nat) (x : SMap 32) : (g.setAcc n x).lastIssue = g.lastIssue := rfl
@[simp] theorem Group.setAcc_lastCls (g : Group) (n : Nat) (x : SMap 32) : (g.setAcc n x).lastCls = g.lastCls := rfl
@[simp] theorem Group.setAcc_yielded (g : Group) (n : Nat) (x : SMap 32) : (g.setAcc n x).yielded = g.yielded := rfl
@[simp] theorem Group.setAcc_stopAt (g : Group) (n : Nat) (x : SMap 32) : (g.setAcc n x).stopAt = g.stopAt := rfl
@[simp] theorem Group.setAcc_haltAt (g : Group) (n : Nat) (x : SMap 32) : (g.setAcc n x).haltAt = g.haltAt := rfl
@[simp] theorem Group.setAcc_saving (g : Group) (n : Nat) (x : SMap 32) : (g.setAcc n x).saving = g.saving := rfl
@[simp] theorem Group.setAcc_drain (g : Group) (n : Nat) (x : SMap 32) : (g.setAcc n x).drain = g.drain := rfl
@[simp] theorem Group.setAcc_saves (g : Group) (n : Nat) (x : SMap 32) : (g.setAcc n x).saves = g.saves := rfl
@[simp] theorem Group.setAcc_parkCut (g : Group) (n : Nat) (x : SMap 32) : (g.setAcc n x).parkCut = g.parkCut := rfl
@[simp] theorem Group.setAcc_staged (g : Group) (n : Nat) (x : SMap 32) : (g.setAcc n x).staged = g.staged := rfl
@[simp] theorem Group.setAcc_commit (g : Group) (n : Nat) (x : SMap 32) : (g.setAcc n x).commit = g.commit := rfl
@[simp] theorem Group.setAcc_qdone (g : Group) (n : Nat) (x : SMap 32) : (g.setAcc n x).qdone = g.qdone := rfl
@[simp] theorem Group.setAcc_aside (g : Group) (n : Nat) (x : SMap 32) : (g.setAcc n x).aside = g.aside := rfl

/-! What `Group.setBind` leaves alone. -/
@[simp] theorem Group.setBind_part (g : Group) (n : Nat) (x : List (BitVec 32)) : (g.setBind n x).part = g.part := rfl
@[simp] theorem Group.setBind_team (g : Group) (n : Nat) (x : List (BitVec 32)) : (g.setBind n x).team = g.team := rfl
@[simp] theorem Group.setBind_gidx (g : Group) (n : Nat) (x : List (BitVec 32)) : (g.setBind n x).gidx = g.gidx := rfl
@[simp] theorem Group.setBind_core (g : Group) (n : Nat) (x : List (BitVec 32)) : (g.setBind n x).core = g.core := rfl
@[simp] theorem Group.setBind_slot (g : Group) (n : Nat) (x : List (BitVec 32)) : (g.setBind n x).slot = g.slot := rfl
@[simp] theorem Group.setBind_seq (g : Group) (n : Nat) (x : List (BitVec 32)) : (g.setBind n x).seq = g.seq := rfl
@[simp] theorem Group.setBind_cuttings (g : Group) (n : Nat) (x : List (BitVec 32)) : (g.setBind n x).cuttings = g.cuttings := rfl
@[simp] theorem Group.setBind_frags (g : Group) (n : Nat) (x : List (BitVec 32)) : (g.setBind n x).frags = g.frags := rfl
@[simp] theorem Group.setBind_stack (g : Group) (n : Nat) (x : List (BitVec 32)) : (g.setBind n x).stack = g.stack := rfl
@[simp] theorem Group.setBind_seamCount (g : Group) (n : Nat) (x : List (BitVec 32)) : (g.setBind n x).seamCount = g.seamCount := rfl
@[simp] theorem Group.setBind_k (g : Group) (n : Nat) (x : List (BitVec 32)) : (g.setBind n x).k = g.k := rfl
@[simp] theorem Group.setBind_v (g : Group) (n : Nat) (x : List (BitVec 32)) : (g.setBind n x).v = g.v := rfl
@[simp] theorem Group.setBind_valloc (g : Group) (n : Nat) (x : List (BitVec 32)) : (g.setBind n x).valloc = g.valloc := rfl
@[simp] theorem Group.setBind_tiles (g : Group) (n : Nat) (x : List (BitVec 32)) : (g.setBind n x).tiles = g.tiles := rfl
@[simp] theorem Group.setBind_tc (g : Group) (n : Nat) (x : List (BitVec 32)) : (g.setBind n x).tc = g.tc := rfl
@[simp] theorem Group.setBind_accs (g : Group) (n : Nat) (x : List (BitVec 32)) : (g.setBind n x).accs = g.accs := rfl
@[simp] theorem Group.setBind_b (g : Group) (n : Nat) (x : List (BitVec 32)) : (g.setBind n x).b = g.b := rfl
@[simp] theorem Group.setBind_slots (g : Group) (n : Nat) (x : List (BitVec 32)) : (g.setBind n x).slots = g.slots := rfl
@[simp] theorem Group.setBind_evm (g : Group) (n : Nat) (x : List (BitVec 32)) : (g.setBind n x).evm = g.evm := rfl
@[simp] theorem Group.setBind_evinfo (g : Group) (n : Nat) (x : List (BitVec 32)) : (g.setBind n x).evinfo = g.evinfo := rfl
@[simp] theorem Group.setBind_mailbox (g : Group) (n : Nat) (x : List (BitVec 32)) : (g.setBind n x).mailbox = g.mailbox := rfl
@[simp] theorem Group.setBind_ibud (g : Group) (n : Nat) (x : List (BitVec 32)) : (g.setBind n x).ibud = g.ibud := rfl
@[simp] theorem Group.setBind_mbud (g : Group) (n : Nat) (x : List (BitVec 32)) : (g.setBind n x).mbud = g.mbud := rfl
@[simp] theorem Group.setBind_landing (g : Group) (n : Nat) (x : List (BitVec 32)) : (g.setBind n x).landing = g.landing := rfl
@[simp] theorem Group.setBind_trap (g : Group) (n : Nat) (x : List (BitVec 32)) : (g.setBind n x).trap = g.trap := rfl
@[simp] theorem Group.setBind_fflags (g : Group) (n : Nat) (x : List (BitVec 32)) : (g.setBind n x).fflags = g.fflags := rfl
@[simp] theorem Group.setBind_flagsAt (g : Group) (n : Nat) (x : List (BitVec 32)) : (g.setBind n x).flagsAt = g.flagsAt := rfl
@[simp] theorem Group.setBind_rm (g : Group) (n : Nat) (x : List (BitVec 32)) : (g.setBind n x).rm = g.rm := rfl
@[simp] theorem Group.setBind_ftz (g : Group) (n : Nat) (x : List (BitVec 32)) : (g.setBind n x).ftz = g.ftz := rfl
@[simp] theorem Group.setBind_privl (g : Group) (n : Nat) (x : List (BitVec 32)) : (g.setBind n x).privl = g.privl := rfl
@[simp] theorem Group.setBind_lchk (g : Group) (n : Nat) (x : List (BitVec 32)) : (g.setBind n x).lchk = g.lchk := rfl
@[simp] theorem Group.setBind_uchk (g : Group) (n : Nat) (x : List (BitVec 32)) : (g.setBind n x).uchk = g.uchk := rfl
@[simp] theorem Group.setBind_icnt (g : Group) (n : Nat) (x : List (BitVec 32)) : (g.setBind n x).icnt = g.icnt := rfl
@[simp] theorem Group.setBind_retired (g : Group) (n : Nat) (x : List (BitVec 32)) : (g.setBind n x).retired = g.retired := rfl
@[simp] theorem Group.setBind_draws (g : Group) (n : Nat) (x : List (BitVec 32)) : (g.setBind n x).draws = g.draws := rfl
@[simp] theorem Group.setBind_sessValid (g : Group) (n : Nat) (x : List (BitVec 32)) : (g.setBind n x).sessValid = g.sessValid := rfl
@[simp] theorem Group.setBind_injArm (g : Group) (n : Nat) (x : List (BitVec 32)) : (g.setBind n x).injArm = g.injArm := rfl
@[simp] theorem Group.setBind_injKind (g : Group) (n : Nat) (x : List (BitVec 32)) : (g.setBind n x).injKind = g.injKind := rfl
@[simp] theorem Group.setBind_injAfter (g : Group) (n : Nat) (x : List (BitVec 32)) : (g.setBind n x).injAfter = g.injAfter := rfl
@[simp] theorem Group.setBind_injCount (g : Group) (n : Nat) (x : List (BitVec 32)) : (g.setBind n x).injCount = g.injCount := rfl
@[simp] theorem Group.setBind_qround (g : Group) (n : Nat) (x : List (BitVec 32)) : (g.setBind n x).qround = g.qround := rfl
@[simp] theorem Group.setBind_qcnt (g : Group) (n : Nat) (x : List (BitVec 32)) : (g.setBind n x).qcnt = g.qcnt := rfl
@[simp] theorem Group.setBind_atRound (g : Group) (n : Nat) (x : List (BitVec 32)) : (g.setBind n x).atRound = g.atRound := rfl
@[simp] theorem Group.setBind_vmarks (g : Group) (n : Nat) (x : List (BitVec 32)) : (g.setBind n x).vmarks = g.vmarks := rfl
@[simp] theorem Group.setBind_tmarks (g : Group) (n : Nat) (x : List (BitVec 32)) : (g.setBind n x).tmarks = g.tmarks := rfl
@[simp] theorem Group.setBind_cursor (g : Group) (n : Nat) (x : List (BitVec 32)) : (g.setBind n x).cursor = g.cursor := rfl
@[simp] theorem Group.setBind_drawn (g : Group) (n : Nat) (x : List (BitVec 32)) : (g.setBind n x).drawn = g.drawn := rfl
@[simp] theorem Group.setBind_gateSeq (g : Group) (n : Nat) (x : List (BitVec 32)) : (g.setBind n x).gateSeq = g.gateSeq := rfl
@[simp] theorem Group.setBind_skip (g : Group) (n : Nat) (x : List (BitVec 32)) : (g.setBind n x).skip = g.skip := rfl
@[simp] theorem Group.setBind_lost (g : Group) (n : Nat) (x : List (BitVec 32)) : (g.setBind n x).lost = g.lost := rfl
@[simp] theorem Group.setBind_bc (g : Group) (n : Nat) (x : List (BitVec 32)) : (g.setBind n x).bc = g.bc := rfl
@[simp] theorem Group.setBind_bm (g : Group) (n : Nat) (x : List (BitVec 32)) : (g.setBind n x).bm = g.bm := rfl
@[simp] theorem Group.setBind_bg (g : Group) (n : Nat) (x : List (BitVec 32)) : (g.setBind n x).bg = g.bg := rfl
@[simp] theorem Group.setBind_reqs (g : Group) (n : Nat) (x : List (BitVec 32)) : (g.setBind n x).reqs = g.reqs := rfl
@[simp] theorem Group.setBind_copies (g : Group) (n : Nat) (x : List (BitVec 32)) : (g.setBind n x).copies = g.copies := rfl
@[simp] theorem Group.setBind_gates (g : Group) (n : Nat) (x : List (BitVec 32)) : (g.setBind n x).gates = g.gates := rfl
@[simp] theorem Group.setBind_tlds (g : Group) (n : Nat) (x : List (BitVec 32)) : (g.setBind n x).tlds = g.tlds := rfl
@[simp] theorem Group.setBind_orphans (g : Group) (n : Nat) (x : List (BitVec 32)) : (g.setBind n x).orphans = g.orphans := rfl
@[simp] theorem Group.setBind_lastMma (g : Group) (n : Nat) (x : List (BitVec 32)) : (g.setBind n x).lastMma = g.lastMma := rfl
@[simp] theorem Group.setBind_deferred (g : Group) (n : Nat) (x : List (BitVec 32)) : (g.setBind n x).deferred = g.deferred := rfl
@[simp] theorem Group.setBind_deferHeld (g : Group) (n : Nat) (x : List (BitVec 32)) : (g.setBind n x).deferHeld = g.deferHeld := rfl
@[simp] theorem Group.setBind_groupHeld (g : Group) (n : Nat) (x : List (BitVec 32)) : (g.setBind n x).groupHeld = g.groupHeld := rfl
@[simp] theorem Group.setBind_stopped (g : Group) (n : Nat) (x : List (BitVec 32)) : (g.setBind n x).stopped = g.stopped := rfl
@[simp] theorem Group.setBind_halted (g : Group) (n : Nat) (x : List (BitVec 32)) : (g.setBind n x).halted = g.halted := rfl
@[simp] theorem Group.setBind_ending (g : Group) (n : Nat) (x : List (BitVec 32)) : (g.setBind n x).ending = g.ending := rfl
@[simp] theorem Group.setBind_clampPend (g : Group) (n : Nat) (x : List (BitVec 32)) : (g.setBind n x).clampPend = g.clampPend := rfl
@[simp] theorem Group.setBind_clampAt (g : Group) (n : Nat) (x : List (BitVec 32)) : (g.setBind n x).clampAt = g.clampAt := rfl
@[simp] theorem Group.setBind_sliceAt (g : Group) (n : Nat) (x : List (BitVec 32)) : (g.setBind n x).sliceAt = g.sliceAt := rfl
@[simp] theorem Group.setBind_boost (g : Group) (n : Nat) (x : List (BitVec 32)) : (g.setBind n x).boost = g.boost := rfl
@[simp] theorem Group.setBind_readyAt (g : Group) (n : Nat) (x : List (BitVec 32)) : (g.setBind n x).readyAt = g.readyAt := rfl
@[simp] theorem Group.setBind_lastIssue (g : Group) (n : Nat) (x : List (BitVec 32)) : (g.setBind n x).lastIssue = g.lastIssue := rfl
@[simp] theorem Group.setBind_lastCls (g : Group) (n : Nat) (x : List (BitVec 32)) : (g.setBind n x).lastCls = g.lastCls := rfl
@[simp] theorem Group.setBind_yielded (g : Group) (n : Nat) (x : List (BitVec 32)) : (g.setBind n x).yielded = g.yielded := rfl
@[simp] theorem Group.setBind_stopAt (g : Group) (n : Nat) (x : List (BitVec 32)) : (g.setBind n x).stopAt = g.stopAt := rfl
@[simp] theorem Group.setBind_haltAt (g : Group) (n : Nat) (x : List (BitVec 32)) : (g.setBind n x).haltAt = g.haltAt := rfl
@[simp] theorem Group.setBind_saving (g : Group) (n : Nat) (x : List (BitVec 32)) : (g.setBind n x).saving = g.saving := rfl
@[simp] theorem Group.setBind_drain (g : Group) (n : Nat) (x : List (BitVec 32)) : (g.setBind n x).drain = g.drain := rfl
@[simp] theorem Group.setBind_saves (g : Group) (n : Nat) (x : List (BitVec 32)) : (g.setBind n x).saves = g.saves := rfl
@[simp] theorem Group.setBind_parkCut (g : Group) (n : Nat) (x : List (BitVec 32)) : (g.setBind n x).parkCut = g.parkCut := rfl
@[simp] theorem Group.setBind_staged (g : Group) (n : Nat) (x : List (BitVec 32)) : (g.setBind n x).staged = g.staged := rfl
@[simp] theorem Group.setBind_commit (g : Group) (n : Nat) (x : List (BitVec 32)) : (g.setBind n x).commit = g.commit := rfl
@[simp] theorem Group.setBind_qdone (g : Group) (n : Nat) (x : List (BitVec 32)) : (g.setBind n x).qdone = g.qdone := rfl
@[simp] theorem Group.setBind_aside (g : Group) (n : Nat) (x : List (BitVec 32)) : (g.setBind n x).aside = g.aside := rfl

/-! What `Group.setSlot` leaves alone. -/
@[simp] theorem Group.setSlot_part (g : Group) (n : Nat) (x : Option Binding) : (g.setSlot n x).part = g.part := rfl
@[simp] theorem Group.setSlot_team (g : Group) (n : Nat) (x : Option Binding) : (g.setSlot n x).team = g.team := rfl
@[simp] theorem Group.setSlot_gidx (g : Group) (n : Nat) (x : Option Binding) : (g.setSlot n x).gidx = g.gidx := rfl
@[simp] theorem Group.setSlot_core (g : Group) (n : Nat) (x : Option Binding) : (g.setSlot n x).core = g.core := rfl
@[simp] theorem Group.setSlot_slot (g : Group) (n : Nat) (x : Option Binding) : (g.setSlot n x).slot = g.slot := rfl
@[simp] theorem Group.setSlot_seq (g : Group) (n : Nat) (x : Option Binding) : (g.setSlot n x).seq = g.seq := rfl
@[simp] theorem Group.setSlot_cuttings (g : Group) (n : Nat) (x : Option Binding) : (g.setSlot n x).cuttings = g.cuttings := rfl
@[simp] theorem Group.setSlot_frags (g : Group) (n : Nat) (x : Option Binding) : (g.setSlot n x).frags = g.frags := rfl
@[simp] theorem Group.setSlot_stack (g : Group) (n : Nat) (x : Option Binding) : (g.setSlot n x).stack = g.stack := rfl
@[simp] theorem Group.setSlot_seamCount (g : Group) (n : Nat) (x : Option Binding) : (g.setSlot n x).seamCount = g.seamCount := rfl
@[simp] theorem Group.setSlot_k (g : Group) (n : Nat) (x : Option Binding) : (g.setSlot n x).k = g.k := rfl
@[simp] theorem Group.setSlot_v (g : Group) (n : Nat) (x : Option Binding) : (g.setSlot n x).v = g.v := rfl
@[simp] theorem Group.setSlot_valloc (g : Group) (n : Nat) (x : Option Binding) : (g.setSlot n x).valloc = g.valloc := rfl
@[simp] theorem Group.setSlot_tiles (g : Group) (n : Nat) (x : Option Binding) : (g.setSlot n x).tiles = g.tiles := rfl
@[simp] theorem Group.setSlot_tc (g : Group) (n : Nat) (x : Option Binding) : (g.setSlot n x).tc = g.tc := rfl
@[simp] theorem Group.setSlot_accs (g : Group) (n : Nat) (x : Option Binding) : (g.setSlot n x).accs = g.accs := rfl
@[simp] theorem Group.setSlot_binds (g : Group) (n : Nat) (x : Option Binding) : (g.setSlot n x).binds = g.binds := rfl
@[simp] theorem Group.setSlot_b (g : Group) (n : Nat) (x : Option Binding) : (g.setSlot n x).b = g.b := rfl
@[simp] theorem Group.setSlot_evm (g : Group) (n : Nat) (x : Option Binding) : (g.setSlot n x).evm = g.evm := rfl
@[simp] theorem Group.setSlot_evinfo (g : Group) (n : Nat) (x : Option Binding) : (g.setSlot n x).evinfo = g.evinfo := rfl
@[simp] theorem Group.setSlot_mailbox (g : Group) (n : Nat) (x : Option Binding) : (g.setSlot n x).mailbox = g.mailbox := rfl
@[simp] theorem Group.setSlot_ibud (g : Group) (n : Nat) (x : Option Binding) : (g.setSlot n x).ibud = g.ibud := rfl
@[simp] theorem Group.setSlot_mbud (g : Group) (n : Nat) (x : Option Binding) : (g.setSlot n x).mbud = g.mbud := rfl
@[simp] theorem Group.setSlot_landing (g : Group) (n : Nat) (x : Option Binding) : (g.setSlot n x).landing = g.landing := rfl
@[simp] theorem Group.setSlot_trap (g : Group) (n : Nat) (x : Option Binding) : (g.setSlot n x).trap = g.trap := rfl
@[simp] theorem Group.setSlot_fflags (g : Group) (n : Nat) (x : Option Binding) : (g.setSlot n x).fflags = g.fflags := rfl
@[simp] theorem Group.setSlot_flagsAt (g : Group) (n : Nat) (x : Option Binding) : (g.setSlot n x).flagsAt = g.flagsAt := rfl
@[simp] theorem Group.setSlot_rm (g : Group) (n : Nat) (x : Option Binding) : (g.setSlot n x).rm = g.rm := rfl
@[simp] theorem Group.setSlot_ftz (g : Group) (n : Nat) (x : Option Binding) : (g.setSlot n x).ftz = g.ftz := rfl
@[simp] theorem Group.setSlot_privl (g : Group) (n : Nat) (x : Option Binding) : (g.setSlot n x).privl = g.privl := rfl
@[simp] theorem Group.setSlot_lchk (g : Group) (n : Nat) (x : Option Binding) : (g.setSlot n x).lchk = g.lchk := rfl
@[simp] theorem Group.setSlot_uchk (g : Group) (n : Nat) (x : Option Binding) : (g.setSlot n x).uchk = g.uchk := rfl
@[simp] theorem Group.setSlot_icnt (g : Group) (n : Nat) (x : Option Binding) : (g.setSlot n x).icnt = g.icnt := rfl
@[simp] theorem Group.setSlot_retired (g : Group) (n : Nat) (x : Option Binding) : (g.setSlot n x).retired = g.retired := rfl
@[simp] theorem Group.setSlot_draws (g : Group) (n : Nat) (x : Option Binding) : (g.setSlot n x).draws = g.draws := rfl
@[simp] theorem Group.setSlot_sessValid (g : Group) (n : Nat) (x : Option Binding) : (g.setSlot n x).sessValid = g.sessValid := rfl
@[simp] theorem Group.setSlot_injArm (g : Group) (n : Nat) (x : Option Binding) : (g.setSlot n x).injArm = g.injArm := rfl
@[simp] theorem Group.setSlot_injKind (g : Group) (n : Nat) (x : Option Binding) : (g.setSlot n x).injKind = g.injKind := rfl
@[simp] theorem Group.setSlot_injAfter (g : Group) (n : Nat) (x : Option Binding) : (g.setSlot n x).injAfter = g.injAfter := rfl
@[simp] theorem Group.setSlot_injCount (g : Group) (n : Nat) (x : Option Binding) : (g.setSlot n x).injCount = g.injCount := rfl
@[simp] theorem Group.setSlot_qround (g : Group) (n : Nat) (x : Option Binding) : (g.setSlot n x).qround = g.qround := rfl
@[simp] theorem Group.setSlot_qcnt (g : Group) (n : Nat) (x : Option Binding) : (g.setSlot n x).qcnt = g.qcnt := rfl
@[simp] theorem Group.setSlot_atRound (g : Group) (n : Nat) (x : Option Binding) : (g.setSlot n x).atRound = g.atRound := rfl
@[simp] theorem Group.setSlot_vmarks (g : Group) (n : Nat) (x : Option Binding) : (g.setSlot n x).vmarks = g.vmarks := rfl
@[simp] theorem Group.setSlot_tmarks (g : Group) (n : Nat) (x : Option Binding) : (g.setSlot n x).tmarks = g.tmarks := rfl
@[simp] theorem Group.setSlot_cursor (g : Group) (n : Nat) (x : Option Binding) : (g.setSlot n x).cursor = g.cursor := rfl
@[simp] theorem Group.setSlot_drawn (g : Group) (n : Nat) (x : Option Binding) : (g.setSlot n x).drawn = g.drawn := rfl
@[simp] theorem Group.setSlot_gateSeq (g : Group) (n : Nat) (x : Option Binding) : (g.setSlot n x).gateSeq = g.gateSeq := rfl
@[simp] theorem Group.setSlot_skip (g : Group) (n : Nat) (x : Option Binding) : (g.setSlot n x).skip = g.skip := rfl
@[simp] theorem Group.setSlot_lost (g : Group) (n : Nat) (x : Option Binding) : (g.setSlot n x).lost = g.lost := rfl
@[simp] theorem Group.setSlot_bc (g : Group) (n : Nat) (x : Option Binding) : (g.setSlot n x).bc = g.bc := rfl
@[simp] theorem Group.setSlot_bm (g : Group) (n : Nat) (x : Option Binding) : (g.setSlot n x).bm = g.bm := rfl
@[simp] theorem Group.setSlot_bg (g : Group) (n : Nat) (x : Option Binding) : (g.setSlot n x).bg = g.bg := rfl
@[simp] theorem Group.setSlot_reqs (g : Group) (n : Nat) (x : Option Binding) : (g.setSlot n x).reqs = g.reqs := rfl
@[simp] theorem Group.setSlot_copies (g : Group) (n : Nat) (x : Option Binding) : (g.setSlot n x).copies = g.copies := rfl
@[simp] theorem Group.setSlot_gates (g : Group) (n : Nat) (x : Option Binding) : (g.setSlot n x).gates = g.gates := rfl
@[simp] theorem Group.setSlot_tlds (g : Group) (n : Nat) (x : Option Binding) : (g.setSlot n x).tlds = g.tlds := rfl
@[simp] theorem Group.setSlot_orphans (g : Group) (n : Nat) (x : Option Binding) : (g.setSlot n x).orphans = g.orphans := rfl
@[simp] theorem Group.setSlot_lastMma (g : Group) (n : Nat) (x : Option Binding) : (g.setSlot n x).lastMma = g.lastMma := rfl
@[simp] theorem Group.setSlot_deferred (g : Group) (n : Nat) (x : Option Binding) : (g.setSlot n x).deferred = g.deferred := rfl
@[simp] theorem Group.setSlot_deferHeld (g : Group) (n : Nat) (x : Option Binding) : (g.setSlot n x).deferHeld = g.deferHeld := rfl
@[simp] theorem Group.setSlot_groupHeld (g : Group) (n : Nat) (x : Option Binding) : (g.setSlot n x).groupHeld = g.groupHeld := rfl
@[simp] theorem Group.setSlot_stopped (g : Group) (n : Nat) (x : Option Binding) : (g.setSlot n x).stopped = g.stopped := rfl
@[simp] theorem Group.setSlot_halted (g : Group) (n : Nat) (x : Option Binding) : (g.setSlot n x).halted = g.halted := rfl
@[simp] theorem Group.setSlot_ending (g : Group) (n : Nat) (x : Option Binding) : (g.setSlot n x).ending = g.ending := rfl
@[simp] theorem Group.setSlot_clampPend (g : Group) (n : Nat) (x : Option Binding) : (g.setSlot n x).clampPend = g.clampPend := rfl
@[simp] theorem Group.setSlot_clampAt (g : Group) (n : Nat) (x : Option Binding) : (g.setSlot n x).clampAt = g.clampAt := rfl
@[simp] theorem Group.setSlot_sliceAt (g : Group) (n : Nat) (x : Option Binding) : (g.setSlot n x).sliceAt = g.sliceAt := rfl
@[simp] theorem Group.setSlot_boost (g : Group) (n : Nat) (x : Option Binding) : (g.setSlot n x).boost = g.boost := rfl
@[simp] theorem Group.setSlot_readyAt (g : Group) (n : Nat) (x : Option Binding) : (g.setSlot n x).readyAt = g.readyAt := rfl
@[simp] theorem Group.setSlot_lastIssue (g : Group) (n : Nat) (x : Option Binding) : (g.setSlot n x).lastIssue = g.lastIssue := rfl
@[simp] theorem Group.setSlot_lastCls (g : Group) (n : Nat) (x : Option Binding) : (g.setSlot n x).lastCls = g.lastCls := rfl
@[simp] theorem Group.setSlot_yielded (g : Group) (n : Nat) (x : Option Binding) : (g.setSlot n x).yielded = g.yielded := rfl
@[simp] theorem Group.setSlot_stopAt (g : Group) (n : Nat) (x : Option Binding) : (g.setSlot n x).stopAt = g.stopAt := rfl
@[simp] theorem Group.setSlot_haltAt (g : Group) (n : Nat) (x : Option Binding) : (g.setSlot n x).haltAt = g.haltAt := rfl
@[simp] theorem Group.setSlot_saving (g : Group) (n : Nat) (x : Option Binding) : (g.setSlot n x).saving = g.saving := rfl
@[simp] theorem Group.setSlot_drain (g : Group) (n : Nat) (x : Option Binding) : (g.setSlot n x).drain = g.drain := rfl
@[simp] theorem Group.setSlot_saves (g : Group) (n : Nat) (x : Option Binding) : (g.setSlot n x).saves = g.saves := rfl
@[simp] theorem Group.setSlot_parkCut (g : Group) (n : Nat) (x : Option Binding) : (g.setSlot n x).parkCut = g.parkCut := rfl
@[simp] theorem Group.setSlot_staged (g : Group) (n : Nat) (x : Option Binding) : (g.setSlot n x).staged = g.staged := rfl
@[simp] theorem Group.setSlot_commit (g : Group) (n : Nat) (x : Option Binding) : (g.setSlot n x).commit = g.commit := rfl
@[simp] theorem Group.setSlot_qdone (g : Group) (n : Nat) (x : Option Binding) : (g.setSlot n x).qdone = g.qdone := rfl
@[simp] theorem Group.setSlot_aside (g : Group) (n : Nat) (x : Option Binding) : (g.setSlot n x).aside = g.aside := rfl

/-! What `Group.setVmark` leaves alone. -/
@[simp] theorem Group.setVmark_part (g : Group) (n : Nat) (x : Mark) : (g.setVmark n x).part = g.part := rfl
@[simp] theorem Group.setVmark_team (g : Group) (n : Nat) (x : Mark) : (g.setVmark n x).team = g.team := rfl
@[simp] theorem Group.setVmark_gidx (g : Group) (n : Nat) (x : Mark) : (g.setVmark n x).gidx = g.gidx := rfl
@[simp] theorem Group.setVmark_core (g : Group) (n : Nat) (x : Mark) : (g.setVmark n x).core = g.core := rfl
@[simp] theorem Group.setVmark_slot (g : Group) (n : Nat) (x : Mark) : (g.setVmark n x).slot = g.slot := rfl
@[simp] theorem Group.setVmark_seq (g : Group) (n : Nat) (x : Mark) : (g.setVmark n x).seq = g.seq := rfl
@[simp] theorem Group.setVmark_cuttings (g : Group) (n : Nat) (x : Mark) : (g.setVmark n x).cuttings = g.cuttings := rfl
@[simp] theorem Group.setVmark_frags (g : Group) (n : Nat) (x : Mark) : (g.setVmark n x).frags = g.frags := rfl
@[simp] theorem Group.setVmark_stack (g : Group) (n : Nat) (x : Mark) : (g.setVmark n x).stack = g.stack := rfl
@[simp] theorem Group.setVmark_seamCount (g : Group) (n : Nat) (x : Mark) : (g.setVmark n x).seamCount = g.seamCount := rfl
@[simp] theorem Group.setVmark_k (g : Group) (n : Nat) (x : Mark) : (g.setVmark n x).k = g.k := rfl
@[simp] theorem Group.setVmark_v (g : Group) (n : Nat) (x : Mark) : (g.setVmark n x).v = g.v := rfl
@[simp] theorem Group.setVmark_valloc (g : Group) (n : Nat) (x : Mark) : (g.setVmark n x).valloc = g.valloc := rfl
@[simp] theorem Group.setVmark_tiles (g : Group) (n : Nat) (x : Mark) : (g.setVmark n x).tiles = g.tiles := rfl
@[simp] theorem Group.setVmark_tc (g : Group) (n : Nat) (x : Mark) : (g.setVmark n x).tc = g.tc := rfl
@[simp] theorem Group.setVmark_accs (g : Group) (n : Nat) (x : Mark) : (g.setVmark n x).accs = g.accs := rfl
@[simp] theorem Group.setVmark_binds (g : Group) (n : Nat) (x : Mark) : (g.setVmark n x).binds = g.binds := rfl
@[simp] theorem Group.setVmark_b (g : Group) (n : Nat) (x : Mark) : (g.setVmark n x).b = g.b := rfl
@[simp] theorem Group.setVmark_slots (g : Group) (n : Nat) (x : Mark) : (g.setVmark n x).slots = g.slots := rfl
@[simp] theorem Group.setVmark_evm (g : Group) (n : Nat) (x : Mark) : (g.setVmark n x).evm = g.evm := rfl
@[simp] theorem Group.setVmark_evinfo (g : Group) (n : Nat) (x : Mark) : (g.setVmark n x).evinfo = g.evinfo := rfl
@[simp] theorem Group.setVmark_mailbox (g : Group) (n : Nat) (x : Mark) : (g.setVmark n x).mailbox = g.mailbox := rfl
@[simp] theorem Group.setVmark_ibud (g : Group) (n : Nat) (x : Mark) : (g.setVmark n x).ibud = g.ibud := rfl
@[simp] theorem Group.setVmark_mbud (g : Group) (n : Nat) (x : Mark) : (g.setVmark n x).mbud = g.mbud := rfl
@[simp] theorem Group.setVmark_landing (g : Group) (n : Nat) (x : Mark) : (g.setVmark n x).landing = g.landing := rfl
@[simp] theorem Group.setVmark_trap (g : Group) (n : Nat) (x : Mark) : (g.setVmark n x).trap = g.trap := rfl
@[simp] theorem Group.setVmark_fflags (g : Group) (n : Nat) (x : Mark) : (g.setVmark n x).fflags = g.fflags := rfl
@[simp] theorem Group.setVmark_flagsAt (g : Group) (n : Nat) (x : Mark) : (g.setVmark n x).flagsAt = g.flagsAt := rfl
@[simp] theorem Group.setVmark_rm (g : Group) (n : Nat) (x : Mark) : (g.setVmark n x).rm = g.rm := rfl
@[simp] theorem Group.setVmark_ftz (g : Group) (n : Nat) (x : Mark) : (g.setVmark n x).ftz = g.ftz := rfl
@[simp] theorem Group.setVmark_privl (g : Group) (n : Nat) (x : Mark) : (g.setVmark n x).privl = g.privl := rfl
@[simp] theorem Group.setVmark_lchk (g : Group) (n : Nat) (x : Mark) : (g.setVmark n x).lchk = g.lchk := rfl
@[simp] theorem Group.setVmark_uchk (g : Group) (n : Nat) (x : Mark) : (g.setVmark n x).uchk = g.uchk := rfl
@[simp] theorem Group.setVmark_icnt (g : Group) (n : Nat) (x : Mark) : (g.setVmark n x).icnt = g.icnt := rfl
@[simp] theorem Group.setVmark_retired (g : Group) (n : Nat) (x : Mark) : (g.setVmark n x).retired = g.retired := rfl
@[simp] theorem Group.setVmark_draws (g : Group) (n : Nat) (x : Mark) : (g.setVmark n x).draws = g.draws := rfl
@[simp] theorem Group.setVmark_sessValid (g : Group) (n : Nat) (x : Mark) : (g.setVmark n x).sessValid = g.sessValid := rfl
@[simp] theorem Group.setVmark_injArm (g : Group) (n : Nat) (x : Mark) : (g.setVmark n x).injArm = g.injArm := rfl
@[simp] theorem Group.setVmark_injKind (g : Group) (n : Nat) (x : Mark) : (g.setVmark n x).injKind = g.injKind := rfl
@[simp] theorem Group.setVmark_injAfter (g : Group) (n : Nat) (x : Mark) : (g.setVmark n x).injAfter = g.injAfter := rfl
@[simp] theorem Group.setVmark_injCount (g : Group) (n : Nat) (x : Mark) : (g.setVmark n x).injCount = g.injCount := rfl
@[simp] theorem Group.setVmark_qround (g : Group) (n : Nat) (x : Mark) : (g.setVmark n x).qround = g.qround := rfl
@[simp] theorem Group.setVmark_qcnt (g : Group) (n : Nat) (x : Mark) : (g.setVmark n x).qcnt = g.qcnt := rfl
@[simp] theorem Group.setVmark_atRound (g : Group) (n : Nat) (x : Mark) : (g.setVmark n x).atRound = g.atRound := rfl
@[simp] theorem Group.setVmark_tmarks (g : Group) (n : Nat) (x : Mark) : (g.setVmark n x).tmarks = g.tmarks := rfl
@[simp] theorem Group.setVmark_cursor (g : Group) (n : Nat) (x : Mark) : (g.setVmark n x).cursor = g.cursor := rfl
@[simp] theorem Group.setVmark_drawn (g : Group) (n : Nat) (x : Mark) : (g.setVmark n x).drawn = g.drawn := rfl
@[simp] theorem Group.setVmark_gateSeq (g : Group) (n : Nat) (x : Mark) : (g.setVmark n x).gateSeq = g.gateSeq := rfl
@[simp] theorem Group.setVmark_skip (g : Group) (n : Nat) (x : Mark) : (g.setVmark n x).skip = g.skip := rfl
@[simp] theorem Group.setVmark_lost (g : Group) (n : Nat) (x : Mark) : (g.setVmark n x).lost = g.lost := rfl
@[simp] theorem Group.setVmark_bc (g : Group) (n : Nat) (x : Mark) : (g.setVmark n x).bc = g.bc := rfl
@[simp] theorem Group.setVmark_bm (g : Group) (n : Nat) (x : Mark) : (g.setVmark n x).bm = g.bm := rfl
@[simp] theorem Group.setVmark_bg (g : Group) (n : Nat) (x : Mark) : (g.setVmark n x).bg = g.bg := rfl
@[simp] theorem Group.setVmark_reqs (g : Group) (n : Nat) (x : Mark) : (g.setVmark n x).reqs = g.reqs := rfl
@[simp] theorem Group.setVmark_copies (g : Group) (n : Nat) (x : Mark) : (g.setVmark n x).copies = g.copies := rfl
@[simp] theorem Group.setVmark_gates (g : Group) (n : Nat) (x : Mark) : (g.setVmark n x).gates = g.gates := rfl
@[simp] theorem Group.setVmark_tlds (g : Group) (n : Nat) (x : Mark) : (g.setVmark n x).tlds = g.tlds := rfl
@[simp] theorem Group.setVmark_orphans (g : Group) (n : Nat) (x : Mark) : (g.setVmark n x).orphans = g.orphans := rfl
@[simp] theorem Group.setVmark_lastMma (g : Group) (n : Nat) (x : Mark) : (g.setVmark n x).lastMma = g.lastMma := rfl
@[simp] theorem Group.setVmark_deferred (g : Group) (n : Nat) (x : Mark) : (g.setVmark n x).deferred = g.deferred := rfl
@[simp] theorem Group.setVmark_deferHeld (g : Group) (n : Nat) (x : Mark) : (g.setVmark n x).deferHeld = g.deferHeld := rfl
@[simp] theorem Group.setVmark_groupHeld (g : Group) (n : Nat) (x : Mark) : (g.setVmark n x).groupHeld = g.groupHeld := rfl
@[simp] theorem Group.setVmark_stopped (g : Group) (n : Nat) (x : Mark) : (g.setVmark n x).stopped = g.stopped := rfl
@[simp] theorem Group.setVmark_halted (g : Group) (n : Nat) (x : Mark) : (g.setVmark n x).halted = g.halted := rfl
@[simp] theorem Group.setVmark_ending (g : Group) (n : Nat) (x : Mark) : (g.setVmark n x).ending = g.ending := rfl
@[simp] theorem Group.setVmark_clampPend (g : Group) (n : Nat) (x : Mark) : (g.setVmark n x).clampPend = g.clampPend := rfl
@[simp] theorem Group.setVmark_clampAt (g : Group) (n : Nat) (x : Mark) : (g.setVmark n x).clampAt = g.clampAt := rfl
@[simp] theorem Group.setVmark_sliceAt (g : Group) (n : Nat) (x : Mark) : (g.setVmark n x).sliceAt = g.sliceAt := rfl
@[simp] theorem Group.setVmark_boost (g : Group) (n : Nat) (x : Mark) : (g.setVmark n x).boost = g.boost := rfl
@[simp] theorem Group.setVmark_readyAt (g : Group) (n : Nat) (x : Mark) : (g.setVmark n x).readyAt = g.readyAt := rfl
@[simp] theorem Group.setVmark_lastIssue (g : Group) (n : Nat) (x : Mark) : (g.setVmark n x).lastIssue = g.lastIssue := rfl
@[simp] theorem Group.setVmark_lastCls (g : Group) (n : Nat) (x : Mark) : (g.setVmark n x).lastCls = g.lastCls := rfl
@[simp] theorem Group.setVmark_yielded (g : Group) (n : Nat) (x : Mark) : (g.setVmark n x).yielded = g.yielded := rfl
@[simp] theorem Group.setVmark_stopAt (g : Group) (n : Nat) (x : Mark) : (g.setVmark n x).stopAt = g.stopAt := rfl
@[simp] theorem Group.setVmark_haltAt (g : Group) (n : Nat) (x : Mark) : (g.setVmark n x).haltAt = g.haltAt := rfl
@[simp] theorem Group.setVmark_saving (g : Group) (n : Nat) (x : Mark) : (g.setVmark n x).saving = g.saving := rfl
@[simp] theorem Group.setVmark_drain (g : Group) (n : Nat) (x : Mark) : (g.setVmark n x).drain = g.drain := rfl
@[simp] theorem Group.setVmark_saves (g : Group) (n : Nat) (x : Mark) : (g.setVmark n x).saves = g.saves := rfl
@[simp] theorem Group.setVmark_parkCut (g : Group) (n : Nat) (x : Mark) : (g.setVmark n x).parkCut = g.parkCut := rfl
@[simp] theorem Group.setVmark_staged (g : Group) (n : Nat) (x : Mark) : (g.setVmark n x).staged = g.staged := rfl
@[simp] theorem Group.setVmark_commit (g : Group) (n : Nat) (x : Mark) : (g.setVmark n x).commit = g.commit := rfl
@[simp] theorem Group.setVmark_qdone (g : Group) (n : Nat) (x : Mark) : (g.setVmark n x).qdone = g.qdone := rfl
@[simp] theorem Group.setVmark_aside (g : Group) (n : Nat) (x : Mark) : (g.setVmark n x).aside = g.aside := rfl

/-! What `Group.setTmark` leaves alone. -/
@[simp] theorem Group.setTmark_part (g : Group) (n : Nat) (x : Mark) : (g.setTmark n x).part = g.part := rfl
@[simp] theorem Group.setTmark_team (g : Group) (n : Nat) (x : Mark) : (g.setTmark n x).team = g.team := rfl
@[simp] theorem Group.setTmark_gidx (g : Group) (n : Nat) (x : Mark) : (g.setTmark n x).gidx = g.gidx := rfl
@[simp] theorem Group.setTmark_core (g : Group) (n : Nat) (x : Mark) : (g.setTmark n x).core = g.core := rfl
@[simp] theorem Group.setTmark_slot (g : Group) (n : Nat) (x : Mark) : (g.setTmark n x).slot = g.slot := rfl
@[simp] theorem Group.setTmark_seq (g : Group) (n : Nat) (x : Mark) : (g.setTmark n x).seq = g.seq := rfl
@[simp] theorem Group.setTmark_cuttings (g : Group) (n : Nat) (x : Mark) : (g.setTmark n x).cuttings = g.cuttings := rfl
@[simp] theorem Group.setTmark_frags (g : Group) (n : Nat) (x : Mark) : (g.setTmark n x).frags = g.frags := rfl
@[simp] theorem Group.setTmark_stack (g : Group) (n : Nat) (x : Mark) : (g.setTmark n x).stack = g.stack := rfl
@[simp] theorem Group.setTmark_seamCount (g : Group) (n : Nat) (x : Mark) : (g.setTmark n x).seamCount = g.seamCount := rfl
@[simp] theorem Group.setTmark_k (g : Group) (n : Nat) (x : Mark) : (g.setTmark n x).k = g.k := rfl
@[simp] theorem Group.setTmark_v (g : Group) (n : Nat) (x : Mark) : (g.setTmark n x).v = g.v := rfl
@[simp] theorem Group.setTmark_valloc (g : Group) (n : Nat) (x : Mark) : (g.setTmark n x).valloc = g.valloc := rfl
@[simp] theorem Group.setTmark_tiles (g : Group) (n : Nat) (x : Mark) : (g.setTmark n x).tiles = g.tiles := rfl
@[simp] theorem Group.setTmark_tc (g : Group) (n : Nat) (x : Mark) : (g.setTmark n x).tc = g.tc := rfl
@[simp] theorem Group.setTmark_accs (g : Group) (n : Nat) (x : Mark) : (g.setTmark n x).accs = g.accs := rfl
@[simp] theorem Group.setTmark_binds (g : Group) (n : Nat) (x : Mark) : (g.setTmark n x).binds = g.binds := rfl
@[simp] theorem Group.setTmark_b (g : Group) (n : Nat) (x : Mark) : (g.setTmark n x).b = g.b := rfl
@[simp] theorem Group.setTmark_slots (g : Group) (n : Nat) (x : Mark) : (g.setTmark n x).slots = g.slots := rfl
@[simp] theorem Group.setTmark_evm (g : Group) (n : Nat) (x : Mark) : (g.setTmark n x).evm = g.evm := rfl
@[simp] theorem Group.setTmark_evinfo (g : Group) (n : Nat) (x : Mark) : (g.setTmark n x).evinfo = g.evinfo := rfl
@[simp] theorem Group.setTmark_mailbox (g : Group) (n : Nat) (x : Mark) : (g.setTmark n x).mailbox = g.mailbox := rfl
@[simp] theorem Group.setTmark_ibud (g : Group) (n : Nat) (x : Mark) : (g.setTmark n x).ibud = g.ibud := rfl
@[simp] theorem Group.setTmark_mbud (g : Group) (n : Nat) (x : Mark) : (g.setTmark n x).mbud = g.mbud := rfl
@[simp] theorem Group.setTmark_landing (g : Group) (n : Nat) (x : Mark) : (g.setTmark n x).landing = g.landing := rfl
@[simp] theorem Group.setTmark_trap (g : Group) (n : Nat) (x : Mark) : (g.setTmark n x).trap = g.trap := rfl
@[simp] theorem Group.setTmark_fflags (g : Group) (n : Nat) (x : Mark) : (g.setTmark n x).fflags = g.fflags := rfl
@[simp] theorem Group.setTmark_flagsAt (g : Group) (n : Nat) (x : Mark) : (g.setTmark n x).flagsAt = g.flagsAt := rfl
@[simp] theorem Group.setTmark_rm (g : Group) (n : Nat) (x : Mark) : (g.setTmark n x).rm = g.rm := rfl
@[simp] theorem Group.setTmark_ftz (g : Group) (n : Nat) (x : Mark) : (g.setTmark n x).ftz = g.ftz := rfl
@[simp] theorem Group.setTmark_privl (g : Group) (n : Nat) (x : Mark) : (g.setTmark n x).privl = g.privl := rfl
@[simp] theorem Group.setTmark_lchk (g : Group) (n : Nat) (x : Mark) : (g.setTmark n x).lchk = g.lchk := rfl
@[simp] theorem Group.setTmark_uchk (g : Group) (n : Nat) (x : Mark) : (g.setTmark n x).uchk = g.uchk := rfl
@[simp] theorem Group.setTmark_icnt (g : Group) (n : Nat) (x : Mark) : (g.setTmark n x).icnt = g.icnt := rfl
@[simp] theorem Group.setTmark_retired (g : Group) (n : Nat) (x : Mark) : (g.setTmark n x).retired = g.retired := rfl
@[simp] theorem Group.setTmark_draws (g : Group) (n : Nat) (x : Mark) : (g.setTmark n x).draws = g.draws := rfl
@[simp] theorem Group.setTmark_sessValid (g : Group) (n : Nat) (x : Mark) : (g.setTmark n x).sessValid = g.sessValid := rfl
@[simp] theorem Group.setTmark_injArm (g : Group) (n : Nat) (x : Mark) : (g.setTmark n x).injArm = g.injArm := rfl
@[simp] theorem Group.setTmark_injKind (g : Group) (n : Nat) (x : Mark) : (g.setTmark n x).injKind = g.injKind := rfl
@[simp] theorem Group.setTmark_injAfter (g : Group) (n : Nat) (x : Mark) : (g.setTmark n x).injAfter = g.injAfter := rfl
@[simp] theorem Group.setTmark_injCount (g : Group) (n : Nat) (x : Mark) : (g.setTmark n x).injCount = g.injCount := rfl
@[simp] theorem Group.setTmark_qround (g : Group) (n : Nat) (x : Mark) : (g.setTmark n x).qround = g.qround := rfl
@[simp] theorem Group.setTmark_qcnt (g : Group) (n : Nat) (x : Mark) : (g.setTmark n x).qcnt = g.qcnt := rfl
@[simp] theorem Group.setTmark_atRound (g : Group) (n : Nat) (x : Mark) : (g.setTmark n x).atRound = g.atRound := rfl
@[simp] theorem Group.setTmark_vmarks (g : Group) (n : Nat) (x : Mark) : (g.setTmark n x).vmarks = g.vmarks := rfl
@[simp] theorem Group.setTmark_cursor (g : Group) (n : Nat) (x : Mark) : (g.setTmark n x).cursor = g.cursor := rfl
@[simp] theorem Group.setTmark_drawn (g : Group) (n : Nat) (x : Mark) : (g.setTmark n x).drawn = g.drawn := rfl
@[simp] theorem Group.setTmark_gateSeq (g : Group) (n : Nat) (x : Mark) : (g.setTmark n x).gateSeq = g.gateSeq := rfl
@[simp] theorem Group.setTmark_skip (g : Group) (n : Nat) (x : Mark) : (g.setTmark n x).skip = g.skip := rfl
@[simp] theorem Group.setTmark_lost (g : Group) (n : Nat) (x : Mark) : (g.setTmark n x).lost = g.lost := rfl
@[simp] theorem Group.setTmark_bc (g : Group) (n : Nat) (x : Mark) : (g.setTmark n x).bc = g.bc := rfl
@[simp] theorem Group.setTmark_bm (g : Group) (n : Nat) (x : Mark) : (g.setTmark n x).bm = g.bm := rfl
@[simp] theorem Group.setTmark_bg (g : Group) (n : Nat) (x : Mark) : (g.setTmark n x).bg = g.bg := rfl
@[simp] theorem Group.setTmark_reqs (g : Group) (n : Nat) (x : Mark) : (g.setTmark n x).reqs = g.reqs := rfl
@[simp] theorem Group.setTmark_copies (g : Group) (n : Nat) (x : Mark) : (g.setTmark n x).copies = g.copies := rfl
@[simp] theorem Group.setTmark_gates (g : Group) (n : Nat) (x : Mark) : (g.setTmark n x).gates = g.gates := rfl
@[simp] theorem Group.setTmark_tlds (g : Group) (n : Nat) (x : Mark) : (g.setTmark n x).tlds = g.tlds := rfl
@[simp] theorem Group.setTmark_orphans (g : Group) (n : Nat) (x : Mark) : (g.setTmark n x).orphans = g.orphans := rfl
@[simp] theorem Group.setTmark_lastMma (g : Group) (n : Nat) (x : Mark) : (g.setTmark n x).lastMma = g.lastMma := rfl
@[simp] theorem Group.setTmark_deferred (g : Group) (n : Nat) (x : Mark) : (g.setTmark n x).deferred = g.deferred := rfl
@[simp] theorem Group.setTmark_deferHeld (g : Group) (n : Nat) (x : Mark) : (g.setTmark n x).deferHeld = g.deferHeld := rfl
@[simp] theorem Group.setTmark_groupHeld (g : Group) (n : Nat) (x : Mark) : (g.setTmark n x).groupHeld = g.groupHeld := rfl
@[simp] theorem Group.setTmark_stopped (g : Group) (n : Nat) (x : Mark) : (g.setTmark n x).stopped = g.stopped := rfl
@[simp] theorem Group.setTmark_halted (g : Group) (n : Nat) (x : Mark) : (g.setTmark n x).halted = g.halted := rfl
@[simp] theorem Group.setTmark_ending (g : Group) (n : Nat) (x : Mark) : (g.setTmark n x).ending = g.ending := rfl
@[simp] theorem Group.setTmark_clampPend (g : Group) (n : Nat) (x : Mark) : (g.setTmark n x).clampPend = g.clampPend := rfl
@[simp] theorem Group.setTmark_clampAt (g : Group) (n : Nat) (x : Mark) : (g.setTmark n x).clampAt = g.clampAt := rfl
@[simp] theorem Group.setTmark_sliceAt (g : Group) (n : Nat) (x : Mark) : (g.setTmark n x).sliceAt = g.sliceAt := rfl
@[simp] theorem Group.setTmark_boost (g : Group) (n : Nat) (x : Mark) : (g.setTmark n x).boost = g.boost := rfl
@[simp] theorem Group.setTmark_readyAt (g : Group) (n : Nat) (x : Mark) : (g.setTmark n x).readyAt = g.readyAt := rfl
@[simp] theorem Group.setTmark_lastIssue (g : Group) (n : Nat) (x : Mark) : (g.setTmark n x).lastIssue = g.lastIssue := rfl
@[simp] theorem Group.setTmark_lastCls (g : Group) (n : Nat) (x : Mark) : (g.setTmark n x).lastCls = g.lastCls := rfl
@[simp] theorem Group.setTmark_yielded (g : Group) (n : Nat) (x : Mark) : (g.setTmark n x).yielded = g.yielded := rfl
@[simp] theorem Group.setTmark_stopAt (g : Group) (n : Nat) (x : Mark) : (g.setTmark n x).stopAt = g.stopAt := rfl
@[simp] theorem Group.setTmark_haltAt (g : Group) (n : Nat) (x : Mark) : (g.setTmark n x).haltAt = g.haltAt := rfl
@[simp] theorem Group.setTmark_saving (g : Group) (n : Nat) (x : Mark) : (g.setTmark n x).saving = g.saving := rfl
@[simp] theorem Group.setTmark_drain (g : Group) (n : Nat) (x : Mark) : (g.setTmark n x).drain = g.drain := rfl
@[simp] theorem Group.setTmark_saves (g : Group) (n : Nat) (x : Mark) : (g.setTmark n x).saves = g.saves := rfl
@[simp] theorem Group.setTmark_parkCut (g : Group) (n : Nat) (x : Mark) : (g.setTmark n x).parkCut = g.parkCut := rfl
@[simp] theorem Group.setTmark_staged (g : Group) (n : Nat) (x : Mark) : (g.setTmark n x).staged = g.staged := rfl
@[simp] theorem Group.setTmark_commit (g : Group) (n : Nat) (x : Mark) : (g.setTmark n x).commit = g.commit := rfl
@[simp] theorem Group.setTmark_qdone (g : Group) (n : Nat) (x : Mark) : (g.setTmark n x).qdone = g.qdone := rfl
@[simp] theorem Group.setTmark_aside (g : Group) (n : Nat) (x : Mark) : (g.setTmark n x).aside = g.aside := rfl

/-! What an update leaves in the field it writes. -/

/-- The fragment put back is the one read. -/
@[simp] theorem Group.frag_setFrag (g : Group) (n : Nat) (f : Frag) : (g.setFrag n f).frag n = f := by
  simp [Group.frag, Group.setFrag]

/-- The other fragments stay. -/
theorem Group.frag_setFrag_other (g : Group) {m n : Nat} (f : Frag) (h : n % 4 ≠ m % 4) : (g.setFrag n f).frag m = g.frag m := by
  simp [Group.frag, Group.setFrag, h]

/-- A changed fragment is read as changed. -/
@[simp] theorem Group.frag_modFrag (g : Group) (n : Nat) (f : Frag → Frag) : (g.modFrag n f).frag n = f (g.frag n) :=
  g.frag_setFrag n _

/-- Register 0 reads 0 whatever was written (R42, R74). -/
@[simp] theorem Frag.rd_zero (f : Frag) : f.rd 0#6 = 0#64 := rfl

/-- A scalar register reads what was written to it, but for s0. -/
theorem Frag.rd_wr (f : Frag) (n : BitVec 6) (x : Word) : (f.wr n x).rd n = if n = 0#6 then 0#64 else x := by
  unfold Frag.rd Frag.wr
  split <;> simp_all

/-- The other scalar registers stay. -/
theorem Frag.rd_wr_other (f : Frag) {m n : BitVec 6} (x : Word) (h : m ≠ n) : (f.wr n x).rd m = f.rd m := by
  unfold Frag.rd Frag.wr
  have hn : n.toNat ≠ m.toNat := fun e => h (BitVec.eq_of_toNat_eq e.symm)
  split
  · rfl
  · split
    · rfl
    · simp [hn]

/-- The lanes of a written vector register: the new words where the mask is set, the old ones elsewhere (R194). -/
theorem Group.rdV_wrV (g : Group) (n : BitVec 6) (m : Mask) (x : Lanes) (l : Fin 64) :
    ((g.wrV n m x).rdV n)[l.val] = if m.getLsbD l.val then x[l.val] else (g.rdV n)[l.val] := by
  simp [Group.rdV, Group.wrV]

/-- The other vector registers stay. -/
theorem Group.rdV_wrV_other (g : Group) {a n : BitVec 6} (m : Mask) (x : Lanes) (h : a ≠ n) : (g.wrV n m x).rdV a = g.rdV a := by
  have hn : n.toNat ≠ a.toNat := fun e => h (BitVec.eq_of_toNat_eq e.symm)
  simp [Group.rdV, Group.wrV, hn]

/-- A mask register after a write: the named bits are new, the others old; k0 is read-only (R75). -/
theorem Group.rdK_wrK (g : Group) (f : Frag) (n : BitVec 4) (m x : Mask) :
    (g.wrK n m x).rdK f n = if n = 0#4 then f.mask else (g.rdK f n &&& ~~~m) ||| (x &&& m) := by
  unfold Group.rdK Group.wrK
  split <;> simp_all

/-- The other mask registers stay. -/
theorem Group.rdK_wrK_other (g : Group) (f : Frag) {a n : BitVec 4} (m x : Mask) (h : a ≠ n) : (g.wrK n m x).rdK f a = g.rdK f a := by
  unfold Group.rdK Group.wrK
  have hn : n.toNat ≠ a.toNat := fun e => h (BitVec.eq_of_toNat_eq e.symm)
  split
  · rfl
  · split
    · rfl
    · simp [hn]

/-- A tile reads what was written to it. -/
@[simp] theorem Group.tile_setTile (g : Group) (n : Nat) (x : SMap 8) : (g.setTile n x).tile n = x := by
  simp [Group.tile, Group.setTile]

/-- An accumulator reads what was written to it. -/
@[simp] theorem Group.acc_setAcc (g : Group) (n : Nat) (x : SMap 32) : (g.setAcc n x).acc n = x := by
  simp [Group.acc, Group.setAcc]

/-- A slot reads what was written to it. -/
@[simp] theorem Group.slotAt_setSlot (g : Group) (n : Nat) (x : Option Binding) : (g.setSlot n x).slotAt n = x := by
  simp [Group.slotAt, Group.setSlot]

/-- A replaced element is found in its place. -/
theorem find_setGroup (gs : List Group) (g h : Group) (c k : Nat)
    (hg : gs.find? (fun g => g.core == c && g.slot == k) = some g) (hc : h.core = c) (hk : h.slot = k) :
    (mapIf (fun x : Group => x.core == h.core && x.slot == h.slot) (fun _ => h) gs).find?
      (fun g => g.core == c && g.slot == k) = some h := by
  subst hc hk
  induction gs with
  | nil => simp at hg
  | cons y r ih =>
    simp only [mapIf, List.map_cons, List.find?_cons] at hg ⊢
    by_cases e : (y.core == h.core && y.slot == h.slot) = true
    · simp [e]
    · simp only [Bool.not_eq_true] at e
      simp only [e, Bool.false_eq_true, if_false] at hg ⊢
      exact ih hg

/-- A group that is found stands where it was looked for. -/
theorem group?_place {s : State} {c k : Nat} {g : Group} (h : s.group? c k = some g) : g.core = c ∧ g.slot = k := by
  have := List.find?_some h
  simpa using this

/-- A group put back in its place is found there. -/
theorem group?_setGroup {s : State} {c k : Nat} {g h : Group} (hg : s.group? c k = some g) (hc : h.core = c) (hk : h.slot = k) :
    (s.setGroup h).group? c k = some h := find_setGroup _ _ _ _ _ hg hc hk

/-- Of two groups put back in one place the second stays. -/
theorem setGroup_setGroup (s : State) (g h : Group) (hc : h.core = g.core) (hk : h.slot = g.slot) :
    (s.setGroup g).setGroup h = s.setGroup h := by
  simp only [State.setGroup, mapIf, List.map_map, hc, hk]
  congr 1
  apply List.map_congr_left
  intro y _
  by_cases e : y.core = g.core ∧ y.slot = g.slot
  · simp [e]
  · simp [e]

/-- Changing the group just put back is putting back the changed group. -/
theorem modGroup_setGroup {s : State} {c k : Nat} {g h : Group} {f : Group → Group} (hg : s.group? c k = some g)
    (hc : h.core = c) (hk : h.slot = k) (fc : (f h).core = c) (fk : (f h).slot = k) :
    (s.setGroup h).modGroup c k f = s.setGroup (f h) := by
  simp only [State.modGroup, group?_setGroup hg hc hk]
  exact setGroup_setGroup _ _ _ (fc.trans hc.symm) (fk.trans hk.symm)

end Sys2Proof.Machine
end

