-- ==== Sys2Proof/Laws/Issue.lean ====
section
/-! SUPPORT. Laws/Issue.lean: what the issue of a word can do, said once, and what it does when nothing stops the word. -/

namespace Sys2Proof.Machine

/-- A word that goes on to its effect: it passed every check, it pays, and its group has advanced. -/
theorem start_go {i : Instr} {s t : State} {x : Ctx} {pre : Ctx → State → Pre} (h : start i s pre = .go x t) :
    ∃ g units sectors,
      s.cur = some (x.core, x.slot, x.fid) ∧ s.group? x.core x.slot = some g ∧ x = g.ctx x.core x.slot x.fid s.clock ∧
      unitFault s g x.hs i = none ∧ quantumBefore (s.isDet g) g x.hs.length i = false ∧ scoreHeld g x.fid (useIn x.hs i) s.clock = false ∧
      (pre x s = .go units sectors ∨ ((g.aside.isSome && bannedAside i) = true ∧ units = 0 ∧ sectors = 0)) ∧
      (g.frag x.fid).owes ((useIn x.hs i).charge + units) ≤ g.ibud ∧ (g.frag x.fid).owes sectors ≤ g.mbud ∧
      t = s.setGroup (g.advance x.fid x.hs x.next s.clock (useIn x.hs i) ((g.frag x.fid).owes ((useIn x.hs i).charge + units))
        ((g.frag x.fid).owes sectors) (s.isDet g)) := by
  unfold start at h
  split at h
  · cases h
  rename_i core slot fid hcur
  split at h
  · cases h
  rename_i g hg
  simp only at h
  split at h
  · cases h
  rename_i hf
  split at h
  · cases h
  rename_i hq
  split at h
  · cases h
  rename_i hs
  split at h
  · cases h
  split at h
  · cases h
  · cases h
  · cases h
  · cases h
  · split at h
    · cases h
    · split at h <;> cases h
  rename_i units sectors hp
  split at h
  · cases h
  rename_i hi
  split at h
  · cases h
  rename_i hm
  cases h
  refine ⟨g, units, sectors, hcur, hg, rfl, hf, Bool.eq_false_iff.2 hq, Bool.eq_false_iff.2 hs, ?_, Nat.le_of_not_lt hi, Nat.le_of_not_lt hm, rfl⟩
  split at hp
  · cases hp; exact .inr ⟨‹_›, rfl, rfl⟩
  · exact .inl hp

/-- Everything the issue of a word can do when it answers a next state: a trap before its charge, the end of a quantum, a
hold, a hold of its whole group, a record raised, a wait as a release once it has paid, a landing, its effect, or a trap after its
charge. -/
theorem issue_cases {i : Instr} {s t : State} {pre : Ctx → State → Pre} {eff : Ctx → State → Res} (h : issue i s pre eff = .next t) :
    (∃ c k f a, t = s.takeTrap c k f a) ∨ (∃ c k, t = s.endQuantum c k) ∨ (∃ c k f, t = s.held c k f) ∨
    (∃ c k f, t = s.heldGroup c k f) ∨ (∃ x, pre x s = .stop t) ∨ (∃ c k f n m b, t = (s.held c k f).pay c k f n m b) ∨
    (∃ c k f b p, t = s.takeLanding c k f b p) ∨
    ∃ x u, start i s pre = .go x u ∧ ((∃ t', eff x u = .done t' ∧ t = x.finish i u t') ∨ ∃ a, t = u.takeTrap x.core x.slot x.fid a) := by
  unfold issue at h
  split at h
  · rename_i o ho
    subst h
    unfold start at ho
    split at ho
    · cases ho
    split at ho
    · cases ho
    simp only at ho
    split at ho
    · cases ho; exact .inl ⟨_, _, _, _, rfl⟩
    split at ho
    · cases ho; exact .inr (.inl ⟨_, _, rfl⟩)
    split at ho
    · cases ho; exact .inr (.inr (.inl ⟨_, _, _, rfl⟩))
    split at ho
    · cases ho; exact .inl ⟨_, _, _, _, rfl⟩
    split at ho
    · cases ho; exact .inr (.inr (.inl ⟨_, _, _, rfl⟩))
    · cases ho; exact .inr (.inr (.inr (.inl ⟨_, _, _, rfl⟩)))
    · cases ho; exact .inl ⟨_, _, _, _, rfl⟩
    · rename_i u hu
      cases ho
      split at hu
      · cases hu
      · exact .inr (.inr (.inr (.inr (.inl ⟨_, hu⟩))))
    · split at ho
      · cases ho; exact .inr (.inr (.inr (.inr (.inr (.inr (.inl ⟨_, _, _, _, _, rfl⟩))))))
      split at ho
      · cases ho; exact .inr (.inr (.inr (.inr (.inr (.inr (.inl ⟨_, _, _, _, _, rfl⟩))))))
      · cases ho; exact .inr (.inr (.inr (.inr (.inr (.inl ⟨_, _, _, _, _, _, rfl⟩)))))
    split at ho
    · cases ho; exact .inr (.inr (.inr (.inr (.inr (.inr (.inl ⟨_, _, _, _, _, rfl⟩))))))
    split at ho
    · cases ho; exact .inr (.inr (.inr (.inr (.inr (.inr (.inl ⟨_, _, _, _, _, rfl⟩))))))
    · cases ho
  · rename_i x u hu
    refine .inr (.inr (.inr (.inr (.inr (.inr (.inr ⟨x, u, hu, ?_⟩))))))
    split at h
    · rename_i t' ht
      cases h
      split at ht
      · cases ht
      · exact .inl ⟨t', ht, rfl⟩
    · cases h; exact .inr ⟨_, rfl⟩

/-- Putting back the issuing group leaves the rest of the machine. -/
theorem others_setGroup (s : State) (h : Group) (c k : Nat) (hc : h.core = c) (hk : h.slot = k) :
    (s.setGroup h).others c k = s.others c k := by
  subst hc hk
  simp only [State.setGroup, State.others, mapIf]
  congr 1
  induction s.groups with
  | nil => rfl
  | cons y r ih =>
    simp only [List.map_cons, List.filter_cons]
    by_cases e : (y.core == h.core && y.slot == h.slot) = true
    · simp [e]; simpa using ih
    · simp only [Bool.not_eq_true] at e
      simp [e]; simpa using ih

/-- How a word reads its group says as the group does whether a landing set it aside. -/
theorem view_aside (g : Group) (f : Frag) (c : Nat) : (g.view f c).aside = g.aside := by
  unfold Group.view
  induction f.pend generalizing g with
  | nil => rfl
  | cons p r ih =>
    rw [List.foldl_cons, ih]
    cases p <;> simp only [] <;> split <;> simp

/-- A word that nothing stops goes on to its effect in the advanced state. -/
theorem start_issues {i : Instr} {s : State} {g : Group} {x : Ctx} {u m : Nat} {pre : Ctx → State → Pre} (h : Issues i s g x u m)
    (hp : pre x s = .go u m) :
    start i s pre = .go x (s.setGroup (g.advance x.fid x.hs x.next s.clock (useIn x.hs i)
      ((g.frag x.fid).owes ((useIn x.hs i).charge + u)) ((g.frag x.fid).owes m) (s.isDet g))) := by
  obtain ⟨⟨⟨h1, h2, h3, h4, h5, h6, h7, h8, h9⟩, h10⟩, h11, h12⟩ := h
  have hhs : x.hs = (g.frag x.fid).hints := by rw [h3]; rfl
  have e : (if g.uchk = true ∨ s.isDet g = true then earlyRead (g.frag x.fid) (useIn x.hs i) s.clock else none) = none := by
    rcases h9 with h9 | ⟨h9, h9'⟩ <;> simp [h9]
    simp [h9']
  have n1 : ¬ ((g.frag x.fid).owes ((useIn x.hs i).charge + u) > g.ibud) := by omega
  have n2 : ¬ ((g.frag x.fid).owes m > g.mbud) := by omega
  unfold start
  have n3 : (g.aside.isSome && bannedAside i) = false := by rcases h10 with h10 | h10 <;> simp [h10]
  simp only [h1, h2, ← hhs, h6, h7, h8, ← h3, hp, Pre.holds, n3]
  simp [e, n1, n2]

/-- Its issue is then its effect. -/
theorem issue_issues {i : Instr} {s : State} {g : Group} {x : Ctx} {u m : Nat} {pre : Ctx → State → Pre} {eff : Ctx → State → Res}
    (h : Issues i s g x u m) (hp : pre x s = .go u m) :
    issue i s pre eff =
      let t := s.setGroup (g.advance x.fid x.hs x.next s.clock (useIn x.hs i) ((g.frag x.fid).owes ((useIn x.hs i).charge + u))
        ((g.frag x.fid).owes m) (s.isDet g))
      match eff x t with
      | .done t' => .next (x.finish i t t')
      | .trap c a l => .next (t.takeTrap x.core x.slot x.fid { TrapArgs.precise c a x.unit with lanes := l }) := by
  have ha : (x.g.aside.isSome && bannedAside i) = false := by
    rw [h.reads, show (g.ctx x.core x.slot x.fid s.clock).g.aside = g.aside from view_aside _ _ _]
    rcases h.aside with e | e <;> simp [e]
  unfold issue
  rw [start_issues h hp]
  simp only [ha]
  rfl

/-- What a completed word leaves behind keeps its group's place. -/
theorem finished_core (x : Ctx) (i : Instr) (n : Nat) (o g : Group) : (x.finished i n o g).core = g.core := by
  simp only [Ctx.finished, Ctx.flagging, Ctx.inFlight, Ctx.unmark]
  split <;> split <;> split <;> rfl

/-- The same of its slot. -/
theorem finished_slot (x : Ctx) (i : Instr) (n : Nat) (o g : Group) : (x.finished i n o g).slot = g.slot := by
  simp only [Ctx.finished, Ctx.flagging, Ctx.inFlight, Ctx.unmark]
  split <;> split <;> split <;> rfl

/-- The advance keeps a group's place. -/
theorem advance_place (g : Group) (fid : Nat) (hs : List Instr) (a : Word) (n : Nat) (u : Use) (ci cm : Nat) (d : Bool) :
    (g.advance fid hs a n u ci cm d).core = g.core ∧ (g.advance fid hs a n u ci cm d).slot = g.slot := by
  simp only [Group.advance, Group.retire]
  split <;> exact ⟨rfl, rfl⟩

/-- The issue of a word that changes only its group: the group after it, in its place, and the rest as before. -/
theorem issueG_completes {i : Instr} {s : State} {g : Group} {x : Ctx} {eff : Ctx → Group → Group} (h : Issues i s g x 0 0)
    (hc : ∀ k, (eff x k).core = k.core) (hk : ∀ k, (eff x k).slot = k.slot) :
    ∃ t, issueG i s eff = .next t ∧ t.others x.core x.slot = s.others x.core x.slot ∧
      t.group? x.core x.slot = some (
        let k := g.advance x.fid x.hs x.next s.clock (useIn x.hs i) ((g.frag x.fid).owes (useIn x.hs i).charge) 0 (s.isDet g)
        x.finished i (x.xLatency (s.setGroup k) i) k (eff x k)) := by
  obtain ⟨pc, ps⟩ := group?_place h.group
  have e0 : (g.frag x.fid).owes 0 = 0 := by simp [Frag.owes]
  have ⟨ac, as⟩ := advance_place g x.fid x.hs x.next s.clock (useIn x.hs i) ((g.frag x.fid).owes (useIn x.hs i).charge) 0 (s.isDet g)
  have kc := ac.trans pc
  have ks := as.trans ps
  have ec := (hc _).trans kc
  have es := (hk _).trans ks
  unfold issueG
  rw [issue_issues h rfl]
  simp only [Ctx.upd, Nat.add_zero, e0]
  rw [modGroup_setGroup h.group kc ks ec es]
  simp only [Ctx.finish, group?_setGroup h.group kc ks, Option.getD_some]
  rw [modGroup_setGroup h.group ec es ((finished_core ..).trans ec) ((finished_slot ..).trans es)]
  exact ⟨_, rfl, others_setGroup _ _ _ _ ((finished_core ..).trans ec) ((finished_slot ..).trans es),
    group?_setGroup h.group ((finished_core ..).trans ec) ((finished_slot ..).trans es)⟩

end Sys2Proof.Machine
end

