-- ==== Sys2Proof/Laws/Mem.lean ====
section
/-! SUPPORT. Laws/Mem.lean: the laws of sparse maps: a read after a write, the canonical form, and that equal reads are equal
maps. -/

namespace Sys2Proof.Machine

/-- The canonical form as a statement about the list: keys rise, and no listed cell is zero. -/
theorem swf_iff {w : Nat} (m : SMap w) : swf m = true ↔ m.Pairwise (fun a b => a.1 < b.1) ∧ ∀ c ∈ m, c.2 ≠ 0#w := by
  induction m with
  | nil => simp [swf]
  | cons p r ih =>
    obtain ⟨a, v⟩ := p
    cases r with
    | nil => simp [swf]
    | cons q r =>
      obtain ⟨b, x⟩ := q
      simp only [swf, Bool.and_eq_true, bne_iff_ne, decide_eq_true_eq, ih, List.pairwise_cons, List.forall_mem_cons]
      constructor
      · rintro ⟨⟨hv, hab⟩, ⟨hb, hr⟩, hx, hz⟩
        exact ⟨⟨⟨hab, fun c hc => Nat.lt_trans hab (hb c hc)⟩, hb, hr⟩, hv, hx, hz⟩
      · rintro ⟨⟨⟨hab, -⟩, hb, hr⟩, hv, hx, hz⟩
        exact ⟨⟨hv, hab⟩, ⟨hb, hr⟩, hx, hz⟩

/-- The keys of a write are the old keys and the written one. -/
theorem sset_mem {w : Nat} {m : SMap w} {k : Nat} {v : BitVec w} {c : Nat × BitVec w} (h : c ∈ sset m k v) :
    c ∈ m ∨ (c = (k, v) ∧ v ≠ 0#w) := by
  induction m with
  | nil => simp only [sset] at h; split at h <;> simp_all
  | cons p r ih =>
    obtain ⟨a, x⟩ := p
    simp only [sset] at h
    split at h
    · split at h
      · exact .inl h
      · rcases List.mem_cons.1 h with h | h
        · exact .inr ⟨h, ‹_›⟩
        · exact .inl h
    · split at h
      · split at h
        · exact .inl (List.mem_cons_of_mem _ h)
        · rcases List.mem_cons.1 h with h | h
          · exact .inr ⟨h, ‹_›⟩
          · exact .inl (List.mem_cons_of_mem _ h)
      · rcases List.mem_cons.1 h with rfl | h
        · exact .inl List.mem_cons_self
        · exact (ih h).imp (List.mem_cons_of_mem _) id

/-- A write keeps the canonical form. -/
theorem sset_swf {w : Nat} {m : SMap w} (k : Nat) (v : BitVec w) (h : swf m = true) : swf (sset m k v) = true := by
  rw [swf_iff] at h ⊢
  refine ⟨?_, fun c hc => (sset_mem hc).elim (h.2 c) fun e => by rw [e.1]; exact e.2⟩
  obtain ⟨hp, -⟩ := h
  induction m with
  | nil => simp only [sset]; split <;> simp
  | cons p r ih =>
    obtain ⟨a, x⟩ := p
    have hc := List.pairwise_cons.1 hp
    simp only [sset]
    split
    · split
      · exact hp
      · refine List.pairwise_cons.2 ⟨fun c hc' => ?_, hp⟩
        rcases List.mem_cons.1 hc' with rfl | hc'
        · assumption
        · exact Nat.lt_trans ‹_› (hc.1 c hc')
    · split
      · subst ‹k = a›
        split
        · exact hc.2
        · exact List.pairwise_cons.2 ⟨hc.1, hc.2⟩
      · refine List.pairwise_cons.2 ⟨fun c hc' => ?_, ih hc.2⟩
        rcases sset_mem hc' with hc' | ⟨rfl, -⟩
        · exact hc.1 c hc'
        · simp only; omega

/-- A key below all listed keys reads zero. -/
theorem sget_below {w : Nat} {m : SMap w} {k : Nat} (h : ∀ c ∈ m, k < c.1) : sget m k = 0#w := by
  induction m with
  | nil => rfl
  | cons p r ih =>
    obtain ⟨a, x⟩ := p
    have ha : k < a := h _ List.mem_cons_self
    rw [sget, if_neg (by omega)]
    exact ih fun c hc => h c (List.mem_cons_of_mem _ hc)

/-- A read after a write: the written cell has the value, every other cell has what it had. -/
theorem sget_sset {w : Nat} {m : SMap w} (h : swf m = true) (k : Nat) (v : BitVec w) (j : Nat) :
    sget (sset m k v) j = if j = k then v else sget m j := by
  have hp := ((swf_iff m).1 h).1
  clear h
  induction m with
  | nil =>
    simp only [sset]
    split
    · subst ‹v = 0#w›; simp [sget]
    · simp [sget, eq_comm]
  | cons p r ih =>
    obtain ⟨a, x⟩ := p
    have hc := List.pairwise_cons.1 hp
    have lo : ∀ n, n ≤ a → sget r n = 0#w := fun n hn => sget_below fun c hc' => Nat.lt_of_le_of_lt hn (hc.1 c hc')
    simp only [sset]
    split
    · split
      · subst ‹v = 0#w›
        split
        · subst ‹j = k›; rw [sget, if_neg (by omega)]; exact lo _ (by omega)
        · rfl
      · simp only [sget, eq_comm]
    · split
      · subst ‹k = a›
        split
        · subst ‹v = 0#w›
          split
          · subst ‹j = k›; exact lo _ (Nat.le_refl _)
          · rw [sget, if_neg (Ne.symm ‹_›)]
        · simp only [sget, eq_comm]; split <;> rfl
      · simp only [sget, ih hc.2]
        by_cases e : a = j
        · subst e; rw [if_pos rfl, if_neg (Ne.symm ‹_›), if_pos rfl]
        · simp only [if_neg e]

/-- Writing several cells keeps the canonical form. -/
theorem ssetAll_swf {w : Nat} {m : SMap w} (l : List (Nat × BitVec w)) (h : swf m = true) : swf (ssetAll m l) = true := by
  induction l generalizing m with
  | nil => exact h
  | cons p r ih => exact ih (sset_swf _ _ h)

/-- A cell that is not written keeps its value. -/
theorem sget_ssetAll_other {w : Nat} {m : SMap w} (h : swf m = true) {l : List (Nat × BitVec w)} {j : Nat}
    (hj : ∀ c ∈ l, c.1 ≠ j) : sget (ssetAll m l) j = sget m j := by
  induction l generalizing m with
  | nil => rfl
  | cons p r ih =>
    rw [ssetAll, ih (sset_swf _ _ h) fun c hc => hj c (List.mem_cons_of_mem _ hc), sget_sset h,
      if_neg (Ne.symm (hj p List.mem_cons_self))]

/-- A cell written once, among distinct cells, has the value. -/
theorem sget_ssetAll_mem {w : Nat} {m : SMap w} (h : swf m = true) {l : List (Nat × BitVec w)}
    (hl : (l.map (·.1)).Nodup) {k : Nat} {v : BitVec w} (hk : (k, v) ∈ l) : sget (ssetAll m l) k = v := by
  induction l generalizing m with
  | nil => simp at hk
  | cons p r ih =>
    simp only [List.map_cons, List.nodup_cons, List.mem_map, not_exists, not_and] at hl
    rcases List.mem_cons.1 hk with rfl | hk
    · rw [ssetAll, sget_ssetAll_other (sset_swf _ _ h) fun c hc e => hl.1 c hc e, sget_sset h, if_pos rfl]
    · exact ih (sset_swf _ _ h) hl.2 hk

/-- Writing bytes keeps the canonical form. -/
theorem writeAt_swf {m : SMap 8} (as : List Nat) (bs : List Byte) (h : swf m = true) : swf (writeAt m as bs) = true :=
  ssetAll_swf _ h

/-- The same from an address on. -/
theorem writeBytes_swf {m : SMap 8} (a : Nat) (bs : List Byte) (h : swf m = true) : swf (writeBytes m a bs) = true :=
  writeAt_swf _ _ h

/-- Dropping cells keeps the canonical form. -/
theorem filter_swf {w : Nat} {m : SMap w} (p : Nat × BitVec w → Bool) (h : swf m = true) : swf (m.filter p : SMap w) = true := by
  rw [swf_iff] at h ⊢
  exact ⟨h.1.filter _, fun c hc => h.2 c (List.mem_filter.1 hc).1⟩

/-- A byte outside those written keeps its value. -/
theorem sget_writeBytes_other {m : SMap 8} (h : swf m = true) {a j : Nat} {bs : List Byte} (hj : j < a ∨ a + bs.length ≤ j) :
    sget (writeBytes m a bs) j = sget m j := by
  refine sget_ssetAll_other h fun c hc => ?_
  obtain ⟨n, hn, e⟩ := List.mem_map.1 (List.of_mem_zip hc).1
  have := List.mem_range.1 hn
  omega

/-- A written byte has its value. -/
theorem sget_writeBytes {m : SMap 8} (h : swf m = true) (a : Nat) (bs : List Byte) {n : Nat} (hn : n < bs.length) :
    sget (writeBytes m a bs) (a + n) = bs[n] := by
  have e : ((List.range bs.length).map (a + ·)).length = bs.length := by simp
  refine sget_ssetAll_mem h ?_ ?_
  · rw [List.map_fst_zip (by simp)]
    exact List.nodup_range.map fun x y hxy => by simpa using hxy
  · refine List.mem_iff_getElem.2 ⟨n, by simpa using hn, ?_⟩
    simp

/-- Reading back what was written. -/
theorem readBytes_writeBytes {m : SMap 8} (h : swf m = true) (a : Nat) (bs : List Byte) :
    readBytes (writeBytes m a bs) a bs.length = bs := by
  apply List.ext_getElem
  · simp [readBytes, readAt]
  · intro n h1 h2
    simp only [readBytes, readAt, List.getElem_map, List.getElem_range]
    exact sget_writeBytes h a bs h2

/-- Maps in canonical form that read alike are equal data. -/
theorem swf_ext {w : Nat} {m n : SMap w} (hm : swf m = true) (hn : swf n = true) (h : ∀ k, sget m k = sget n k) : m = n := by
  rw [swf_iff] at hm hn
  induction m generalizing n with
  | nil =>
    cases n with
    | nil => rfl
    | cons q r =>
      have := h q.1
      simp only [sget, if_true] at this
      exact absurd this.symm (hn.2 q List.mem_cons_self)
  | cons p l ih =>
    have hp := List.pairwise_cons.1 hm.1
    have vp := hm.2 p List.mem_cons_self
    cases n with
    | nil =>
      have := h p.1
      simp only [sget, if_true] at this
      exact absurd this vp
    | cons q r =>
      have hq := List.pairwise_cons.1 hn.1
      have vq := hn.2 q List.mem_cons_self
      have e : p.1 = q.1 := by
        rcases Nat.lt_trichotomy p.1 q.1 with hlt | he | hlt
        · have := h p.1
          rw [sget_below (m := q :: r) fun c hc => by
            rcases List.mem_cons.1 hc with rfl | hc
            · exact hlt
            · exact Nat.lt_trans hlt (hq.1 c hc)] at this
          simp only [sget, if_true] at this
          exact absurd this vp
        · exact he
        · have := h q.1
          rw [sget_below (m := p :: l) fun c hc => by
            rcases List.mem_cons.1 hc with rfl | hc
            · exact hlt
            · exact Nat.lt_trans hlt (hp.1 c hc)] at this
          simp only [sget, if_true] at this
          exact absurd this.symm vq
      have ev : p.2 = q.2 := by
        have := h p.1
        simp only [sget, e, if_true] at this
        exact this
      have er : l = r := by
        refine ih ⟨hp.2, fun c hc => hm.2 c (List.mem_cons_of_mem _ hc)⟩ ⟨hq.2, fun c hc => hn.2 c (List.mem_cons_of_mem _ hc)⟩ fun k => ?_
        by_cases ek : k = p.1
        · subst ek
          rw [sget_below hp.1, e, sget_below hq.1]
        · have := h k
          simpa only [sget, if_neg (Ne.symm ek), if_neg (e ▸ Ne.symm ek : q.1 ≠ k)] using this
      rw [er, Prod.ext e ev]

end Sys2Proof.Machine
end

