-- ==== Sys2Proof/Laws/Inv.lean ====
section
/-! SUPPORT. Laws/Inv.lean: the shared operations keep the canonical form of memory and its tags, most of them because they
leave both as they are. -/

namespace Sys2Proof.Machine

/-- Two states with the same memory and tags. -/
structure SameMem (s t : State) : Prop where
  mem  : t.mem = s.mem
  tags : t.tags = s.tags

/-- A state is the same as itself. -/
@[refl] theorem SameMem.refl (s : State) : SameMem s s := ⟨rfl, rfl⟩

/-- Same and same again. -/
theorem SameMem.trans {s t u : State} (h : SameMem s t) (k : SameMem t u) : SameMem s u :=
  ⟨k.mem.trans h.mem, k.tags.trans h.tags⟩

/-- The canonical form goes with memory and tags alone. -/
theorem SameMem.inv {s t : State} (h : SameMem s t) (hs : s.Inv) : t.Inv := by
  unfold State.Inv
  rw [h.mem, h.tags]
  exact hs

/-- A fold of operations that leave memory and tags alone leaves them alone. -/
theorem SameMem.foldl {α : Type} {f : State → α → State} (hf : ∀ s a, SameMem s (f s a)) (l : List α) (s : State) :
    SameMem s (l.foldl f s) := by
  induction l generalizing s with
  | nil => exact .refl s
  | cons a r ih => exact (hf s a).trans (ih _)

/-- A choice between two results that both leave memory and tags alone. -/
theorem SameMem.ite {α : Type} {s : State} {p : Prop} [Decidable p] {a b : α × State} (ha : SameMem s a.2) (hb : SameMem s b.2) :
    SameMem s (if p then a else b).2 := by
  split
  · exact ha
  · exact hb

theorem sameMem_setGroup (s : State) (g : Group) : SameMem s (s.setGroup g) := ⟨by simp, by simp⟩
theorem sameMem_modGroup (s : State) (c k : Nat) (f : Group → Group) : SameMem s (s.modGroup c k f) := ⟨by simp, by simp⟩
theorem sameMem_modTeam (s : State) (k : TeamKey) (f : Team → Team) : SameMem s (s.modTeam k f) := ⟨by simp, by simp⟩
theorem sameMem_modLaunch (s : State) (n : Nat) (f : Launch → Launch) : SameMem s (s.modLaunch n f) := ⟨by simp, by simp⟩
theorem sameMem_modPart (s : State) (n : Nat) (f : Partition → Partition) : SameMem s (s.modPart n f) := ⟨by simp, by simp⟩
theorem sameMem_haltPart (s : State) (n c : Nat) : SameMem s (s.haltPart n c) := ⟨by simp, by simp⟩
theorem sameMem_blackBox (s : State) (d : Nat) (ty : BitVec 8) (p : Nat) (l : List Nat) : SameMem s (s.blackBox d ty p l) :=
  ⟨by simp, by simp⟩
theorem sameMem_latchTrapq (s : State) (n : Nat) : SameMem s (s.latchTrapq n) := ⟨rfl, rfl⟩
theorem sameMem_endQuantum (s : State) (c k : Nat) : SameMem s (s.endQuantum c k) := sameMem_modGroup ..
theorem sameMem_held (s : State) (c k f : Nat) : SameMem s (s.held c k f) := sameMem_modGroup ..

/-- Dropping a reference to a peg. -/
theorem sameMem_drop (s : State) (g : Group) (h : Word) : SameMem s (s.drop g h) := by
  unfold State.drop; split <;> exact ⟨rfl, rfl⟩

/-- Taking a reference to a peg. -/
theorem sameMem_hold (s : State) (g : Group) (h : Word) : SameMem s (s.hold g h) := by
  unfold State.hold; split <;> exact ⟨rfl, rfl⟩

/-- An arrival on a peg. -/
theorem sameMem_pegArrive (s : State) (p : Peg) (k y : Nat) : SameMem s (s.pegArrive p k y) := by
  unfold State.pegArrive; simp only; split <;> exact ⟨rfl, rfl⟩

/-- What a write of a window does to the tile images being read. -/
theorem sameMem_raceTiles (s : State) (t : Team) (as : List Nat) : SameMem s (s.raceTiles t as) := by
  unfold State.raceTiles; split <;> exact ⟨rfl, rfl⟩

/-- A write into a window is no write to global memory. -/
theorem sameMem_windowWrite (s : State) (k : TeamKey) (as : List Nat) (bs : List Byte) : SameMem s (s.windowWrite k as bs) := by
  unfold State.windowWrite
  simp only
  split
  · exact ⟨by simp, by simp⟩
  next t _ => exact ⟨by simp [(sameMem_raceTiles _ t as).1], by simp [(sameMem_raceTiles _ t as).2]⟩

/-- A batch completes. -/
theorem sameMem_completeBatch (s : State) (c k n : Nat) : SameMem s (s.completeBatch c k n) := by
  unfold State.completeBatch
  extract_lets cls
  split
  · rfl
  split
  · rfl
  extract_lets s1 s2
  have h1 : SameMem s s1 := by
    unfold s1
    split
    · exact sameMem_windowWrite ..
    · rfl
  have h2 : SameMem s1 s2 := by
    unfold s2
    split
    · split
      · exact (sameMem_pegArrive ..).trans (sameMem_drop ..)
      · rfl
    · rfl
  exact (h1.trans h2).trans (sameMem_modGroup ..)

/-- Batches complete. -/
theorem sameMem_completeReady (s : State) (c k n : Nat) (p : Nat → Bool) (m : Nat) : SameMem s (s.completeReady c k n p m) := by
  induction m generalizing s with
  | zero => rfl
  | succ m ih =>
    unfold State.completeReady
    simp only
    split
    · rfl
    split
    · rfl
    split
    · rfl
    · exact (sameMem_completeBatch ..).trans (ih _)

/-- Keeping a leaf writes no memory. -/
theorem sameMem_fillLeaf (s : State) (p d : Nat) (c : Option Nat) (k : TlbKind) (a : Nat) (e : Word) :
    SameMem s (s.fillLeaf p d c k a e) := by
  unfold State.fillLeaf
  generalize (if c.isSome then Config.coreTlb else Config.dieTlb) = n
  split <;> exact ⟨rfl, rfl⟩

/-- Keeping what a walk has read writes no memory. -/
theorem sameMem_fillWalk (s : State) (p : Nat) (d : Site) (a : Nat) (b : Bool) (e : Word) (l : List (TlbKind × Nat)) :
    SameMem s (s.fillWalk p d a b e l) := by
  unfold State.fillWalk
  extract_lets k s1 s2
  have h : SameMem s s2 := SameMem.trans (t := s1) ⟨rfl, rfl⟩ (sameMem_fillLeaf ..)
  split
  · exact h.trans (sameMem_fillLeaf ..)
  · exact h

/-- A translation caches entries, and no more. -/
theorem sameMem_translate (s : State) (p : Nat) (d : Site) (a : Nat) : SameMem s (translate s p d a).2 := by
  unfold translate
  split
  · rfl
  refine .ite (.refl s) ?_
  split
  · split
    · rfl
    · simp only
      split
      · exact sameMem_fillLeaf ..
      · rfl
  · split
    · split
      · rfl
      · exact sameMem_fillWalk ..
    · rfl

/-- The checks of a lane translate, and no more. -/
theorem sameMem_laneCheck (s : State) (p : Nat) (d : Site) (k : AccKind) (al : Bool) (ea : Word) (n : Nat) :
    SameMem s (laneCheck s p d k al ea n).2 := by
  unfold laneCheck
  extract_lets last va va2 second one peer
  refine .ite (.refl s) (.ite (.refl s) ?_)
  have h1 := sameMem_translate s p d va
  generalize translate s p d va = q1 at h1 ⊢
  obtain ⟨r1, s1⟩ := q1
  have h2 : SameMem s (if (va / 2 ^ 16 == va2 / 2 ^ 16) = true then (r1, s1) else translate s1 p d va2).2 :=
    .ite h1 (h1.trans (sameMem_translate ..))
  simp only
  generalize (if (va / 2 ^ 16 == va2 / 2 ^ 16) = true then (r1, s1) else translate s1 p d va2) = q2 at h2 ⊢
  obtain ⟨r2, s2⟩ := q2
  split
  iterate 6 exact h2
  refine .ite h2 (.ite h2 (.ite h2 (.ite h2 (.ite h2 ?_))))
  split
  · exact h2
  split
  · exact h2
  split <;> exact h2

/-- The device's own check of a byte. -/
theorem sameMem_devCheck (s : State) (p d : Nat) (w : Bool) (a : Word) : SameMem s (devCheck s p d w a).2 := sameMem_laneCheck ..

/-- A refused store to another package sets a status bit. -/
theorem sameMem_remoteStore (s : State) (p : Nat) (l : List Nat) : SameMem s (s.remoteStore p l) := by
  unfold State.remoteStore
  split
  · exact sameMem_modPart ..
  · rfl

/-- A read of bytes may use free values. -/
theorem sameMem_readPas (s : State) (l : List Nat) (e : Bool) : SameMem s (readPas s l e).2 := by
  unfold readPas; split <;> exact ⟨rfl, rfl⟩

/-- The device reads. -/
theorem sameMem_devRead (s : State) (p d : Nat) (ea : Word) (n : Nat) : SameMem s (devRead s p d ea n).2 := by
  unfold devRead
  simp only
  suffices h : ∀ (l : List Nat) (r : Except DevStop (List Byte) × State), SameMem s r.2 → SameMem s (l.foldl
      (fun r i => match r with
        | (.error c, t) => (.error c, t)
        | (.ok bs, t) =>
          match devCheck t p d false (ea + BitVec.ofNat 64 i) with
          | (.ok pas _ ext, t) => let (b, t) := readPas t pas ext; (.ok (bs ++ b), t)
          | (.fault c a, t) => (.error (some (c, a)), t)
          | (.wait, t) => (.error none, t)) r).2 from h _ _ (.refl s)
  intro l
  induction l with
  | nil => exact fun r hr => hr
  | cons a l ih =>
    rintro ⟨r, t⟩ hr
    refine ih _ ?_
    cases r with
    | error c => exact hr
    | ok bs =>
      have hd := sameMem_devCheck t p d false (ea + BitVec.ofNat 64 a)
      simp only
      split <;> rename_i e <;> rw [e] at hd
      · exact (hr.trans hd).trans (sameMem_readPas ..)
      · exact hr.trans hd
      · exact hr.trans hd

/-- The device writes: the canonical form stays. -/
theorem devWrite_inv {s t : State} {p d : Nat} {ea : Word} {bs : List Byte} (hs : s.Inv) (h : devWrite s p d ea bs = .ok t) :
    t.Inv := by
  unfold devWrite at h
  simp only at h
  split at h
  · cases h
  rename_i u out hu
  cases h
  suffices k : ∀ (l : List (Nat × Byte)) (r : Except DevStop (State × List (Nat × Byte))),
      (∀ v o, r = .ok (v, o) → SameMem s v) → ∀ v o, l.foldl
        (fun r x => match r with
          | .error c => .error c
          | .ok (t, out) =>
            match devCheck t p d true (ea + BitVec.ofNat 64 x.1) with
            | (.ok ps _ _, t) => .ok (t.remoteStore p ps, out ++ (ps.filter fun p => !outside p).map fun p => (p, x.2))
            | (.fault c a, _) => .error (some (c, a))
            | (.wait, _) => .error none) r = .ok (v, o) → SameMem s v by
    have e := k _ _ (by rintro v o ⟨⟩; exact .refl s) _ _ hu
    refine ⟨ssetAll_swf _ ?_, ?_⟩
    · rw [e.mem]; exact hs.1
    · rw [e.tags]; exact hs.2
  intro l
  induction l with
  | nil => exact fun r hr v o e => hr v o e
  | cons a l ih =>
    intro r hr v o e
    refine ih _ ?_ v o e
    intro v o e
    cases r with
    | error c => cases e
    | ok q =>
      obtain ⟨t, out⟩ := q
      have hd := sameMem_devCheck t p d true (ea + BitVec.ofNat 64 a.1)
      simp only at e
      split at e <;> rename_i e' <;> rw [e'] at hd <;> cases e
      exact ((hr t out rfl).trans hd).trans (sameMem_remoteStore ..)

/-- A record enters the ring, unless it waits. -/
theorem ringPut_inv {s t : State} {p d : Nat} {r : TrapRec} (hs : s.Inv) (h : s.ringPut p d r = some t) : t.Inv := by
  unfold State.ringPut at h
  split at h
  · cases h; exact hs
  simp only at h
  split at h
  · cases h
  · cases h; exact (sameMem_haltPart ..).inv hs
  rename_i h1
  have i1 := devWrite_inv hs h1
  split at h
  · cases h
  · cases h; exact (sameMem_haltPart ..).inv i1
  rename_i h2
  have i2 := devWrite_inv i1 h2
  cases h
  exact (((sameMem_modPart ..).trans (sameMem_latchTrapq ..)).trans (sameMem_blackBox ..)).inv i2

/-- A record is written or waits. -/
theorem ringWrite_inv {s : State} (p d : Nat) (r : TrapRec) (hs : s.Inv) : (s.ringWrite p d r).Inv := by
  unfold State.ringWrite
  have hw : (s.modPart p fun q => { q with held := q.held ++ [(d, r)] }).Inv := (sameMem_modPart ..).inv hs
  simp only
  split
  · cases e : s.ringPut p d r with
    | none => exact hw
    | some t => exact ringPut_inv hs e
  · exact hw

/-- A record is admitted, or the partition halts. -/
theorem admit_inv {s : State} (d : Nat) (r : TrapRec) (hs : s.Inv) : (s.enqueue d r).Inv := by
  unfold State.enqueue
  split
  · exact hs
  split
  · exact hs
  split
  · exact ringWrite_inv _ _ _ hs
  · exact (sameMem_haltPart ..).inv hs

/-- A MIGRATE record is admitted or dropped. -/
theorem admitMigrate_inv {s : State} (d : Nat) (r : TrapRec) (hs : s.Inv) : (s.admitMigrate d r).Inv := by
  unfold State.admitMigrate
  split
  · exact hs
  split
  · exact hs
  split
  · exact ringWrite_inv _ _ _ hs
  · exact (sameMem_blackBox ..).inv hs

/-- Waiting records are admitted. -/
theorem admitWaiting_inv {s : State} (p d n : Nat) (hs : s.Inv) : (s.admitWaiting p d n).Inv := by
  induction n generalizing s with
  | zero => exact hs
  | succ n ih =>
    unfold State.admitWaiting
    split
    · exact hs
    split
    · exact hs
    simp only
    split
    · exact ih ((sameMem_modPart ..).inv (ringWrite_inv _ _ _ hs))
    · exact hs

/-- A replayable record is raised. -/
theorem raiseReplay_inv {s : State} (d : Nat) (r : TrapRec) (hs : s.Inv) : (s.raiseReplay d r).2.Inv := by
  unfold State.raiseReplay
  split
  · exact hs
  · exact admitWaiting_inv _ _ _ ((sameMem_modPart ..).inv hs)

/-- A fragment leaves its wait. -/
theorem sameMem_leaveWait (s : State) (c k f : Nat) : SameMem s (s.leaveWait c k f) := by
  unfold State.leaveWait
  split
  · rfl
  split
  · rfl
  simp only
  split
  · exact (sameMem_setGroup ..).trans (sameMem_drop ..)
  · exact sameMem_setGroup ..

/-- The cause of a core's last trap. -/
theorem sameMem_noteTrap (s : State) (c : Nat) (k : Cause) : SameMem s (s.noteTrap c k) := ⟨rfl, rfl⟩

/-- Supervisor delivery writes a record, and no more. -/
theorem trapToSupervisor_inv {s : State} (c k f : Nat) (m : Mask) (a : TrapArgs) (hs : s.Inv) : (s.trapToSupervisor c k f m a).Inv := by
  unfold State.trapToSupervisor
  split
  · exact hs
  simp only
  split
  · exact (((sameMem_setGroup ..).trans (sameMem_noteTrap ..)).trans (sameMem_haltPart ..)).inv hs
  · exact admit_inv _ _ (((sameMem_setGroup ..).trans (sameMem_noteTrap ..)).inv hs)

/-- Taking a trap. -/
theorem takeTrap_inv {s : State} (c k f : Nat) (a : TrapArgs) (hs : s.Inv) : (s.takeTrap c k f a).Inv := by
  unfold State.takeTrap
  split
  · exact hs
  simp only
  split
  · exact (((sameMem_leaveWait ..).trans (sameMem_modGroup ..)).trans (sameMem_noteTrap ..)).inv hs
  · exact trapToSupervisor_inv _ _ _ _ _ ((sameMem_leaveWait ..).inv hs)

/-- A deferred trap is delivered. -/
theorem deliverDeferred_inv {s : State} (c k : Nat) (hs : s.Inv) : (s.deliverDeferred c k).Inv := by
  unfold State.deliverDeferred
  split
  · exact hs
  split
  · exact hs
  simp only
  split
  · exact takeTrap_inv _ _ _ _ ((sameMem_setGroup ..).inv hs)
  split
  · exact takeTrap_inv _ _ _ _ ((sameMem_setGroup ..).inv hs)
  · exact trapToSupervisor_inv _ _ _ _ _ ((sameMem_setGroup ..).inv hs)

/-- A save is asked for. -/
theorem sameMem_askSave (s : State) (k : TeamKey) (b : Option Word) : SameMem s (s.askSave k b) := by
  unfold State.askSave
  split
  · exact .foldl (fun _ _ => sameMem_modTeam ..) _ _
  · rfl

/-- The hard path of a budget. -/
theorem sameMem_hardPreempt (s : State) (c k f : Nat) (b : BitVec 2) (p : Word) : SameMem s (s.hardPreempt c k f b p) := by
  unfold State.hardPreempt
  simp only
  split
  · exact sameMem_leaveWait ..
  split
  · exact ((sameMem_leaveWait ..).trans (sameMem_setGroup ..)).trans (sameMem_haltPart ..)
  · exact ((sameMem_leaveWait ..).trans (sameMem_setGroup ..)).trans (sameMem_askSave ..)

/-- A landing. -/
theorem sameMem_takeLanding (s : State) (c k f : Nat) (b : BitVec 2) (p : Word) : SameMem s (s.takeLanding c k f b p) := by
  unfold State.takeLanding
  split
  · rfl
  split
  · exact sameMem_hardPreempt ..
  · exact (sameMem_setGroup ..).trans (sameMem_blackBox ..)

/-- A pending clamp meets its group. -/
theorem sameMem_clampNow (s : State) (c k : Nat) : SameMem s (s.clampNow c k) := by
  unfold State.clampNow
  split
  · rfl
  split
  · exact sameMem_setGroup ..
  split
  · split
    · exact (sameMem_setGroup ..).trans (sameMem_takeLanding ..)
    · rfl
  split
  · exact ((sameMem_setGroup ..).trans (sameMem_leaveWait ..)).trans (sameMem_takeLanding ..)
  · rfl

/-- A group is held. -/
theorem sameMem_heldGroup (s : State) (c k f : Nat) : SameMem s (s.heldGroup c k f) := (sameMem_held ..).trans (sameMem_modGroup ..)

/-- A word that waits as a release has paid. -/
theorem sameMem_pay (s : State) (c k f n m : Nat) (b : List Byte) : SameMem s (s.pay c k f n m b) := sameMem_modGroup ..

/-- A word completes. -/
theorem sameMem_finish (x : Ctx) (i : Instr) (b s : State) : SameMem s (x.finish i b s) := sameMem_modGroup ..

/-- The issue of a word keeps the canonical form when its preconditions and its effect do. -/
theorem issue_inv {i : Instr} {s t : State} {pre : Ctx → State → Pre} {eff : Ctx → State → Res} (hs : s.Inv)
    (hp : ∀ x u, pre x s = .stop u → u.Inv) (he : ∀ x u v, SameMem s u → eff x u = .done v → v.Inv)
    (h : issue i s pre eff = .next t) : t.Inv := by
  rcases issue_cases h with ⟨_, _, _, _, rfl⟩ | ⟨_, _, rfl⟩ | ⟨_, _, _, rfl⟩ | ⟨_, _, _, rfl⟩ | ⟨x, hx⟩ | ⟨_, _, _, _, _, _, rfl⟩ |
    ⟨_, _, _, _, _, rfl⟩ | ⟨x, u, hu, h⟩
  · exact takeTrap_inv _ _ _ _ hs
  · exact (sameMem_endQuantum ..).inv hs
  · exact (sameMem_held ..).inv hs
  · exact (sameMem_heldGroup ..).inv hs
  · exact hp x t hx
  · exact ((sameMem_held ..).trans (sameMem_pay ..)).inv hs
  · exact (sameMem_takeLanding ..).inv hs
  · obtain ⟨g, _, _, _, _, _, _, _, _, _, _, _, rfl⟩ := start_go hu
    rcases h with ⟨v, hv, rfl⟩ | ⟨a, rfl⟩
    · exact (sameMem_finish ..).inv (he x _ v (sameMem_setGroup ..) hv)
    · exact takeTrap_inv _ _ _ _ ((sameMem_setGroup ..).inv hs)

/-- A word that changes only its group keeps the canonical form. -/
theorem issueG_inv {i : Instr} {s t : State} {eff : Ctx → Group → Group} (hs : s.Inv) (h : issueG i s eff = .next t) : t.Inv :=
  issue_inv hs (fun _ _ e => by cases e) (fun _ _ _ hu e => by cases e; exact (hu.trans (sameMem_modGroup ..)).inv hs) h

end Sys2Proof.Machine
end

