-- ==== Sys2Proof/Laws/Step.lean ====
section
/-! SUPPORT. Laws/Step.lean: which turn a step takes. -/

namespace Sys2Proof.Machine

/-- A turn of an event performs the event. -/
theorem step_event {s : State} {i : Instr} {rest : List Agent} (h : s.agenda = .event i :: rest) (hi : isEvent i = true) :
    step s = exec i { s with agenda := rest } := by
  simp [step, h, State.runAgent, hi]

/-- A turn of a group lets it issue, unless issue is withheld or the device is not ready. -/
theorem step_issue {s : State} {c k : Nat} {rest : List Agent} (h : s.agenda = .issue c k :: rest) (hw : s.mgmt.withheld = false)
    (hr : s.mgmt.devState = .ready) : step s = State.issueAt { s with agenda := rest } c k := by
  simp [step, h, State.runAgent, hw, hr]

/-- A turn of cycles lets them pass, unless the device is frozen. -/
theorem step_idle {s : State} {n : Nat} {rest : List Agent} (h : s.agenda = .idle n :: rest) (hf : s.mgmt.devState ≠ .frozen) :
    step s = .next (State.idle { s with agenda := rest } n) := by
  simp [step, h, State.runAgent, hf]

/-- Without an agenda the device goes on by itself. -/
theorem step_self {s : State} (h : s.agenda = []) : step s = s.runSelf := by
  simp [step, h]

end Sys2Proof.Machine
end

