-- ==== Sys2Proof/Tests/Slice0.lean ====
section
/-! SUPPORT. Tests/Slice0.lean: the tests of the definitions: ill-formed terms that are refused, words written out from their
encodings, single steps with results worked out by hand from the rules, and for every statement a state and operands that meet its
hypotheses. -/

namespace Sys2Proof.Tests

set_option Elab.async false

open Sys2Proof.Machine Sys2Proof.Claims

/-- The loaded machine of `withFetchWord`, whose group is the one that issues. -/
def base : State := { State.reset.loaded 0#32 with cur := some (0, 0, 0), agenda := [] }

/-- Its group: fragment 0 alone lives, with every lane; 64 vector registers; budgets of 65,536; privileged. -/
def g0 : Group :=
  { blankGroup with
    frags := blankGroup.frags.set 0 { blankFrag with mask := BitVec.allOnes 64, state := .ready }
    valloc := 64, ibud := 65536, mbud := 65536, privl := true, cuttings := 1 }

theorem test_base_group : base.groups = [g0] := by rfl

/-- The machine with another group in the slot. -/
def withG (g : Group) : State := { base with groups := [g] }

/-- The launch of the group made deterministic. -/
def det (s : State) : State := { s with launches := s.launches.map fun l => { l with record := { l.record with det := true } } }

/-- What a word of fragment 0 of a group has when it issues in the machine. -/
def ctx (g : Group) : Ctx := g.ctx 0 0 0 0

/-- Fragment 0 changed. -/
def onF (f : Frag → Frag) (g : Group) : Group := g.modFrag 0 f

/-- Scalar registers of fragment 0 set. -/
def sregs (l : List (BitVec 6 × Word)) (g : Group) : Group := onF (fun f => l.foldl (fun f p => f.wr p.1 p.2) f) g

/-- A word of fragment 0 comes to its charge: the parts of `Reaches` that are computed. -/
def comes (s : State) (g : Group) (i : Instr) : Bool :=
  let f := g.frag 0
  s.cur == some (0, 0, 0) && s.clock == 0 && g.core == 0 && g.slot == 0 && (g.aside.isNone || !bannedAside i) && f.state == .ready &&
    (unitFault s g f.hints i).isNone && !quantumBefore (s.isDet g) g f.hints.length i && !scoreHeld g 0 (useIn f.hints i) 0 &&
    (earlyRead f (useIn f.hints i) 0).isNone

/-- Nothing stops a word of fragment 0. -/
def passes (s : State) (g : Group) (i : Instr) (u m : Nat) : Bool :=
  comes s g i && decide ((g.frag 0).owes ((useIn (g.frag 0).hints i).charge + u) ≤ g.ibud) &&
    decide ((g.frag 0).owes m ≤ g.mbud)

/-- A word that comes to its charge reaches it, when its group is the first. -/
theorem reaches {s : State} {g : Group} {i : Instr} (h : comes s g i = true) (hg : s.groups.head? = some g := by rfl) :
    Reaches i s g (ctx g) := by
  simp only [comes, Bool.and_eq_true, Bool.or_eq_true, beq_iff_eq, Option.isNone_iff_eq_none, Bool.not_eq_true'] at h
  obtain ⟨⟨⟨⟨⟨⟨⟨⟨⟨h1, h2⟩, hc⟩, hk⟩, h4⟩, h5⟩, h6⟩, h7⟩, h8⟩, h9⟩ := h
  refine ⟨⟨h1, ?_, ?_, Nat.zero_lt_succ 3, h5, h6, h7, by rw [h2]; exact h8, .inl (by rw [h2]; exact h9)⟩, h4⟩
  · show s.groups.find? (fun g => g.core == 0 && g.slot == 0) = some g
    cases e : s.groups with
    | nil => rw [e] at hg; cases hg
    | cons a r =>
      rw [e] at hg
      cases hg
      simp [hc, hk]
  · rw [h2]; rfl

/-- A word that passes issues. -/
theorem issues {s : State} {g : Group} {i : Instr} {u m : Nat} (h : passes s g i u m = true)
    (hg : s.groups.head? = some g := by rfl) : Issues i s g (ctx g) u m := by
  simp only [passes, Bool.and_eq_true, decide_eq_true_eq] at h
  exact ⟨reaches h.1.1 hg, h.1.2, h.2⟩

theorem pair_of_fst {α β : Type} {r : α × β} {a : α} (h : r.1 = a) : r = (a, r.2) := by
  cases h
  rfl

theorem some_none {α : Type} {o : Option α} (h : o.isNone = true) : o = none := by
  cases o
  · rfl
  · cases h

theorem some_getD {α : Type} {o : Option α} (d : α) (h : o.isSome = true) : o = some (o.getD d) := by
  cases o
  · cases h
  · rfl
/-- Outside a deterministic launch nothing is staged. -/
theorem room_free {x : Ctx} {s : State} {g : Group} {lines : List Nat} {n : Nat} (h : s.isDet g = false) : stageRoom x s g lines n :=
  fun e => Bool.noConfusion (h.symm.trans e)

theorem memRoom_free {x : Ctx} {s : State} {g : Group} {m : MemSpec} (h : s.isDet g = false)
    (e : x.noEntry s m (x.plan s m).1.lanes = false) : memRoom x s g m := ⟨fun _ => room_free h, fun _ => e⟩

theorem memRoom_staged {x : Ctx} {s : State} {g : Group} {m : MemSpec} (h : s.isDet g = true) (k : m.kind.stages = true)
    (e : g.stageFull (vlines m.n m.ins) 0 = false) : memRoom x s g m :=
  ⟨fun _ _ => .inr e, fun f => Bool.noConfusion (k.symm.trans (f h))⟩

/-! ## Witnesses: states and operands that meet the hypotheses of each statement, clause by clause -/

theorem witness_ScalarResults : ∃ i s g x pk d v, Issues i s g x 0 0 ∧ scalarValue x i = some (pk, d, v) :=
  ⟨.add 0#3 0#2 63#6 1#6 2#6, withG g0, g0, ctx g0, _, _, _, issues (by decide +kernel), rfl⟩

/-- A write to s0, and one under an empty lane mask. -/
theorem witness_ScalarResults_edges :
    (∃ i s g x pk v, Issues i s g x 0 0 ∧ scalarValue x i = some (pk, 0#6, v)) ∧
    ∃ i s g x pk d v, Issues i s g x 0 0 ∧ scalarValue x i = some (pk, d, v) ∧ x.live pk = false :=
  ⟨⟨.movi 0#3 0#2 0#6 255#8, withG g0, g0, ctx g0, _, _, issues (by decide +kernel), rfl⟩,
    .sub 0#3 1#2 5#6 1#6 2#6, withG g0, g0, ctx g0, _, _, _, issues (by decide +kernel), rfl, by decide +kernel⟩

/-- The group with one word in every lane of v1. -/
def vOne (a : BitVec 32) : Group := { g0 with v := g0.v.set 1 (Vector.replicate 64 a) }

/-- The group with a MOD word of SAT issued, and the largest .i32 in v1. -/
def gSat : Group := onF (fun f => { f with hints := [.mod 0#3 0#5 0#1 0#1 0#1 0#1 0#1 1#1] }) (vOne 0x7FFFFFFF#32)

theorem witness_LaneWords : ∃ (i : Instr) (s : State) (g : Group) (x : Ctx) (m : Mask) (d : BitVec 6) (f : Fin 64 → BitVec 32), Issues i s g x 0 0 ∧ ∀ l, laneValue x l i = some (m, d, f l) :=
  ⟨.vadd 0#3 0#2 63#6 1#6 2#6 1#1 0#1, withG g0, g0, ctx g0, _, _, fun _ => _, issues (by decide +kernel), fun _ => rfl⟩

/-- A sum that SAT changes in lane 0. -/
theorem witness_LaneWords_sat : ∃ (i : Instr) (s : State) (g : Group) (x : Ctx) (m : Mask) (d : BitVec 6) (f : Fin 64 → BitVec 32), Issues i s g x 0 0 ∧ (∀ l, laneValue x l i = some (m, d, f l)) ∧
    m.getLsbD 0 = true ∧ clipped x i 0 = true :=
  ⟨.vadd 0#3 0#2 63#6 1#6 1#6 0#1 0#1, withG gSat, gSat, ctx gSat, (ctx gSat).act 0#2, _, fun _ => _, issues (by decide +kernel),
    fun _ => rfl, by decide +kernel, by decide +kernel⟩

theorem witness_CarryWords (sub : Bool) : ∃ st pk d a b sb s g x,
    Issues (if sub then Instr.vsubc st pk d a b sb else Instr.vaddc st pk d a b sb) s g x 0 0 :=
  match sub with
  | true => ⟨0#3, 0#2, 3#6, 1#6, 2#6, 0#1, withG g0, g0, ctx g0, issues (by decide +kernel)⟩
  | false => ⟨0#3, 0#2, 3#6, 1#6, 2#6, 0#1, withG g0, g0, ctx g0, issues (by decide +kernel)⟩

theorem witness_CompareLanes : ∃ st pk c d a b sb s g x, Issues (.vcmp st pk c d a b sb) s g x 0 0 :=
  ⟨0#3, 0#2, 5#3, 15#4, 1#6, 2#6, 0#1, withG g0, g0, ctx g0, issues (by decide +kernel)⟩

theorem witness_MaskWords :
    (∃ i s g x d m, Issues i s g x 0 0 ∧ maskValue x i = some (d, m)) ∧ ∃ i s g x d v, Issues i s g x 0 0 ∧ fromMask x i = some (d, v) :=
  ⟨⟨.kandn 0#3 15#4 0#4 3#4, withG g0, g0, ctx g0, _, _, issues (by decide +kernel), rfl⟩,
    .kffs 0#3 5#6 3#4, withG g0, g0, ctx g0, _, _, issues (by decide +kernel), rfl⟩

theorem witness_FloatWordsFrame : ∃ i s g x m d, Issues i s g x 0 0 ∧ fpDest x i = some (m, d) :=
  ⟨.fadd 0#3 0#2 3#6 1#6 2#6 0#1, withG g0, g0, ctx g0, _, _, issues (by decide +kernel), rfl⟩

/-- A NaN operand. -/
theorem witness_FloatResults_nan : ∃ i s g x m d, Issues i s g x 0 0 ∧ fpDest x i = some (m, d) ∧ x.hs = [] ∧
    ∃ ops e, m.getLsbD 0 = true ∧ fpExact x 0 i = some (ops, e) ∧ ∃ o ∈ ops, isNanWord o :=
  ⟨.fmul 0#3 0#2 3#6 1#6 2#6 0#1, withG (vOne 0x7F800001#32), vOne 0x7F800001#32, ctx (vOne 0x7F800001#32), (ctx (vOne 0x7F800001#32)).act 0#2, _, issues (by decide +kernel), rfl, rfl, _, _, by decide +kernel, rfl,
    _, List.mem_cons_self, by show 0x7F800000 < _; decide +kernel⟩

/-- The same for every kind of NaN operand: of a word of one operand, of a packed word, of a conversion. -/
theorem witness_FloatResults_nans :
    (∃ i s g x m d, Issues i s g x 0 0 ∧ fpDest x i = some (m, d) ∧ x.hs = [] ∧ m.getLsbD 0 = true ∧ ∃ o ∈ nanOperands x 0 i, isNanOf 0 o.toNat) ∧
    (∃ i s g x m d c ops, Issues i s g x 0 0 ∧ fpDest x i = some (m, d) ∧ x.hs = [] ∧ m.getLsbD 0 = true ∧ packedOperands x 0 i = some (c, ops) ∧
      ∃ o ∈ ops, isNanOf c (BitVec.toNat o / 2 ^ (16 * 1))) ∧
    ∃ i s g x m d u v a, Issues i s g x 0 0 ∧ fpDest x i = some (m, d) ∧ x.hs = [] ∧ m.getLsbD 0 = true ∧ fpSource x 0 i = some (u, v, a) ∧
      isNanOf v (BitVec.toNat a) :=
  let g := vOne 0x7F810000#32
  ⟨⟨.fsin 0#3 0#2 3#6 1#6, withG g, g, ctx g, (ctx g).act 0#2, _, issues (by decide +kernel), rfl, rfl, by decide +kernel, _, List.mem_cons_self, by
      unfold isNanOf; decide +kernel⟩,
    ⟨.hmul2 0#3 0#2 3#6 1#6 1#6 1#1, withG g, g, ctx g, (ctx g).act 0#2, _, 2, _, issues (by decide +kernel), rfl, rfl, by decide +kernel, rfl, _,
      List.mem_cons_self, by unfold isNanOf; decide +kernel⟩,
    .cvt 0#3 0#2 3#6 1#6 3#3 0#3, withG g, g, ctx g, (ctx g).act 0#2, _, 3, 0, _, issues (by decide +kernel), rfl, rfl, by decide +kernel, rfl, by
      unfold isNanOf; decide +kernel⟩

/-- A word is given in lane 0 of a word without a MOD word. -/
def given (a : BitVec 32) (i : Instr) (w : BitVec 32) : Prop :=
  let g := vOne a
  Issues i (withG g) g (ctx g) 0 0 ∧ (∃ d, fpDest (ctx g) i = some ((ctx g).act 0#2, d)) ∧ ((ctx g).act 0#2).getLsbD 0 = true ∧ (ctx g).hs = [] ∧
    gives (ctx g) g.ftz 0 w i

/-- −0 below +0, the class of a subnormal number, an infinity that is integral, 1 as a .f32 and as an .i32 number, and 1/−0. -/
theorem witness_FloatResults_given :
    given 0x80000000#32 (.fmin 0#3 0#2 3#6 2#6 1#6 0#1) 0x80000000#32 ∧ given 0x80000000#32 (.fmax 0#3 0#2 3#6 2#6 1#6 0#1) 0#32 ∧
    given 1#32 (.fclass 0#3 0#2 3#6 1#6) 0x20#32 ∧ given 0x7F800000#32 (.frnd 0#3 0#2 3#6 1#6) 0x7F800000#32 ∧
    given 1#32 (.cvt 0#3 0#2 3#6 1#6 0#3 3#3) 0x3F800000#32 ∧ given 0x3F800000#32 (.cvt 0#3 0#2 3#6 1#6 3#3 0#3) 1#32 ∧
    given 0x80000000#32 (.frcp 0#3 0#2 3#6 1#6) 0xFF800000#32 := by
  have v1 : f32Value 0x3F800000#32 = 1 := by
    have h : (0x3F800000#32).getLsbD 31 = false := by decide
    simp only [f32Value, h]; norm_num
  have i1 : ((1#32 : BitVec 32).toInt : ℚ) = 1 := by
    have h : (1#32 : BitVec 32).toInt = 1 := by decide
    rw [h]; norm_num
  have e1 : (ctx (vOne 1#32)).la 1#6 0 = 1#32 := by decide +kernel
  have e2 : (ctx (vOne 0x3F800000#32)).la 1#6 0 = 0x3F800000#32 := by decide +kernel
  refine ⟨⟨issues (by decide +kernel), ⟨_, rfl⟩, by decide +kernel, rfl, rfl, by decide +kernel⟩,
    ⟨issues (by decide +kernel), ⟨_, rfl⟩, by decide +kernel, rfl, rfl, by decide +kernel⟩,
    ⟨issues (by decide +kernel), ⟨_, rfl⟩, by decide +kernel, rfl, by unfold gives; decide +kernel⟩,
    ⟨issues (by decide +kernel), ⟨_, rfl⟩, by decide +kernel, rfl, by decide +kernel, .inl (by decide)⟩,
    ⟨issues (by decide +kernel), ⟨_, rfl⟩, by decide +kernel, rfl, .inl ⟨rfl, rfl, by unfold finiteWord; decide, ?_, ?_⟩⟩,
    ⟨issues (by decide +kernel), ⟨_, rfl⟩, by decide +kernel, rfl, .inr ⟨rfl, rfl, ?_, ?_⟩⟩,
    issues (by decide +kernel), ⟨_, rfl⟩, by decide +kernel, rfl, 0x80000000#32, by decide +kernel, by decide⟩
  · rw [v1]; norm_num
  · rw [v1, e1, i1]
  · rw [e2]; unfold finiteWord; decide
  · rw [e2, v1, i1]

/-- 1 + 0 is 1. -/
theorem witness_FloatResults_exact : ∃ i s g x m d, Issues i s g x 0 0 ∧ fpDest x i = some (m, d) ∧ x.hs = [] ∧ g.ftz = false ∧
    ∃ ops e w, m.getLsbD 0 = true ∧ fpExact x 0 i = some (ops, e) ∧ (∀ o ∈ ops, finiteWord o) ∧ finiteWord w ∧ f32Value w ≠ 0 ∧
      f32Value w = e := by
  have e1 : (ctx (vOne 0x3F800000#32)).la 1#6 0 = 0x3F800000#32 := by decide +kernel
  have e2 : (ctx (vOne 0x3F800000#32)).lb 0#1 2#6 0 = 0#32 := by decide +kernel
  have v1 : f32Value 0x3F800000#32 = 1 := by
    have h : (0x3F800000#32).getLsbD 31 = false := by decide
    simp only [f32Value, h]; norm_num
  have v2 : f32Value 0#32 = 0 := by
    have h : (0#32).getLsbD 31 = false := by decide
    simp only [f32Value, h]; norm_num
  refine ⟨.fadd 0#3 0#2 3#6 1#6 2#6 0#1, withG (vOne 0x3F800000#32), vOne 0x3F800000#32, ctx (vOne 0x3F800000#32), (ctx (vOne 0x3F800000#32)).act 0#2, _, issues (by decide +kernel), rfl, rfl, rfl, _, _, 0x3F800000#32,
    by decide +kernel, rfl, ?_, ?_, ?_, ?_⟩
  · rw [e1, e2]
    intro o ho
    simp only [List.mem_cons, List.not_mem_nil, or_false] at ho
    rcases ho with rfl | rfl <;> (unfold finiteWord; decide)
  · unfold finiteWord; decide
  · rw [v1]; norm_num
  · rw [e1, e2, v1, v2]; norm_num

theorem witness_CrossLaneWords :
    (∃ (i : Instr) (s : State) (g : Group) (x : Ctx) (pk : BitVec 2) (d a : BitVec 6) (f : Fin 64 → Nat), Issues i s g x 0 0 ∧ ∀ l, crossSource x l i = some (pk, d, a, f l)) ∧
    ∃ st d a b s g x, Issues (.vmovs st d a b) s g x 0 0 :=
  ⟨⟨.vshflRot 0#3 0#2 3#6 1#6 2#6 0#1, withG g0, g0, ctx g0, _, _, _, fun _ => _, issues (by decide +kernel), fun _ => rfl⟩,
    0#3, 5#6, 1#6, 2#6, withG g0, g0, ctx g0, issues (by decide +kernel)⟩

theorem witness_Reductions : ∃ st pk d a c s g x op e, Issues (.vred st pk d a c) s g x 0 0 ∧ redInt c.toNat = some (op, e) :=
  ⟨0#3, 0#2, 5#6, 1#6, 10#6, withG g0, g0, ctx g0, _, _, issues (by decide +kernel), rfl⟩

/-- The three .f32 reductions. -/
theorem witness_Reductions_float : ∀ c ∈ [1#6, 6#6, 7#6], ∃ st pk d a s g x op e, Issues (.vred st pk d a c) s g x 0 0 ∧
    redFloat c.toNat = some (op, e) ∧ g.ftz = false ∧ d ≠ 0#6 := by
  intro c hc
  simp only [List.mem_cons, List.not_mem_nil, or_false] at hc
  rcases hc with rfl | rfl | rfl <;>
    exact ⟨0#3, 0#2, 5#6, 1#6, withG g0, g0, ctx g0, _, _, issues (by decide +kernel), rfl, rfl, by decide⟩

theorem witness_RandomDraws : ∃ st pk d s g x k, Issues (.rand st pk d) s g x 0 0 ∧ s.launch? g.team.uid = some k ∧ g.gidx < 32 ∧
    (x.act pk).getLsbD 0 = true :=
  ⟨0#3, 0#2, 5#6, withG g0, g0, ctx g0, _, issues (by decide +kernel), rfl, by decide, by decide +kernel⟩

theorem witness_FloatCompares : ∃ st pk c d a b sb s g x, Issues (.fcmp st pk c d a b sb) s g x 0 0 ∧ (x.act pk).getLsbD 0 = true ∧
    d ≠ 0#4 ∧ isNanWord (x.la a 0) :=
  ⟨0#3, 0#2, 6#3, 3#4, 1#6, 2#6, 0#1, withG (vOne 0x7FC00000#32), vOne 0x7FC00000#32, ctx (vOne 0x7FC00000#32), issues (by decide +kernel), by decide +kernel, by decide,
    by show 0x7F800000 < _; decide +kernel⟩

theorem witness_ControlTransfers :
    (∃ i s g x target, Issues i s g x 0 0 ∧ transfer x i = some (true, target) ∧ goodTarget target) ∧
    (∃ i s g x target, Issues i s g x 0 0 ∧ transfer x i = some (false, target)) ∧
    ∃ st o s g x, Issues (.call st o) s g x 0 0 ∧ goodTarget (x.addr + 4#64 * immB x.hs o) :=
  ⟨⟨.bra 0#3 7#14, withG g0, g0, ctx g0, _, issues (by decide +kernel), rfl, by unfold goodTarget; decide +kernel⟩,
    ⟨.bnz 0#3 1#6 7#14, withG g0, g0, ctx g0, _, issues (by decide +kernel), rfl⟩,
    0#3, 7#14, withG g0, g0, ctx g0, issues (by decide +kernel), by unfold goodTarget; decide +kernel⟩

theorem witness_AdvanceOnly :
    (∃ st s g x, Issues (.nop st) s g x 0 0 ∧ onlyAdvances x g (.nop st) = some 0) ∧
    (∃ st c s g x, Issues (.fence st c) s g x 0 0 ∧ onlyAdvances x g (.fence st c) = some 0) ∧
    ∃ st pk a b s g x m, Issues (.pref st pk a b) s g x 0 m ∧ onlyAdvances x g (.pref st pk a b) = some m ∧ m = 2 :=
  ⟨⟨0#3, withG g0, g0, ctx g0, issues (by decide +kernel), rfl⟩,
    ⟨0#3, 5#3, withG g0, g0, ctx g0, issues (by decide +kernel), by decide +kernel⟩,
    0#3, 0#2, 1#6, 0#6, withG g0, g0, ctx g0, 2, issues (by decide +kernel), by decide +kernel, rfl⟩

theorem witness_HintWords : ∃ (i : Instr) (s : State) (core slot fid : Nat) (g : Group), Sys2Proof.Machine.Instr.isHint i = true ∧ s.cur = some (core, slot, fid) ∧
    s.group? core slot = some g ∧ 1 ≤ g.ibud :=
  ⟨.imx 5#22, withG { g0 with ibud := 1 }, 0, 0, 0, { g0 with ibud := 1 }, rfl, rfl, by decide +kernel, by decide⟩
/-- The group with mask k1 and a scalar register that holds a code address. -/
def gSplit (k1 : Mask) : Group := sregs [(2#6, 0x100#64)] { g0 with k := g0.k.set 1 k1 }

/-- A `split` with an empty mask, one with the whole of k0, and one without a free entry. -/
theorem witness_Splits_zero :
    (∃ (st : BitVec 3) (d : BitVec 6) (a : BitVec 4) (b : BitVec 6) (s : State) (g : Group) (x : Ctx),
      Issues (.split st d a b) s g x 0 0 ∧ scalarPending g x.fid s.clock = false ∧ x.k a &&& (g.frag x.fid).mask = 0#64) ∧
    (∃ (st : BitVec 3) (d : BitVec 6) (a : BitVec 4) (b : BitVec 6) (s : State) (g : Group) (x : Ctx),
      Issues (.split st d a b) s g x 0 0 ∧ scalarPending g x.fid s.clock = false ∧
        x.k a &&& (g.frag x.fid).mask = (g.frag x.fid).mask) ∧
    ∃ (st : BitVec 3) (d : BitVec 6) (a : BitVec 4) (b : BitVec 6) (s : State) (g : Group) (x : Ctx),
      Issues (.split st d a b) s g x 0 0 ∧ scalarPending g x.fid s.clock = false ∧ g.freeFrag = none :=
  let full := (gSplit 1#64).mapFrags fun _ f => { f with state := .ready }
  ⟨⟨0#3, 5#6, 1#4, 2#6, withG (gSplit 0#64), gSplit 0#64, ctx (gSplit 0#64), issues (by decide +kernel), by decide +kernel, by decide +kernel⟩,
    ⟨0#3, 5#6, 0#4, 2#6, withG g0, g0, ctx g0, issues (by decide +kernel), by decide +kernel, by decide +kernel⟩,
    0#3, 5#6, 1#4, 2#6, withG full, full, ctx full, issues (by decide +kernel), by decide +kernel, by decide +kernel⟩

theorem witness_Splits : ∃ (st : BitVec 3) (d : BitVec 6) (a : BitVec 4) (b : BitVec 6) (s : State) (g : Group) (x : Ctx) (n : Nat),
    Issues (.split st d a b) s g x 0 0 ∧ scalarPending g x.fid s.clock = false ∧ x.k a &&& (g.frag x.fid).mask ≠ 0#64 ∧
    x.k a &&& (g.frag x.fid).mask ≠ (g.frag x.fid).mask ∧ g.freeFrag = some n ∧ g.landing.inres = false ∧ g.stack.length < 8 ∧
    goodTarget (x.s b) :=
  ⟨0#3, 5#6, 1#4, 2#6, withG (gSplit 1#64), gSplit 1#64, ctx (gSplit 1#64), 1, issues (by decide +kernel), by decide +kernel,
    by decide +kernel, by decide +kernel, by decide +kernel, rfl, by decide, by unfold goodTarget; decide +kernel⟩

/-- Two fragments of a seam: lanes 0 to 31 run, the others are in state `st`. -/
def gJoin (st : FState) : Group :=
  let f : Frag := { g0.frag 0 with mask := 0xFFFFFFFF#64, seam := some 0 }
  let e : Frag := { g0.frag 0 with mask := 0xFFFFFFFF00000000#64, seam := some 0, state := st }
  { g0 with frags := (g0.frags.set 0 f).set 1 e, stack := [⟨false, 0, 0#8, 0#64, BitVec.allOnes 64, false⟩] }

/-- The same within a handler, whose trap entry lies below the seam's (`inner`) or above it. -/
def gJoinTrap (inner : Bool) : Group :=
  let g := gJoin .atJoin
  let t : StackEntry := ⟨true, 0, 0x1A#8, 0x40#64, BitVec.allOnes 64, false⟩
  if inner then { g.mapFrags (fun _ f => { f with seam := f.seam.map fun _ => 1 }) with stack := t :: g.stack } else { g with stack := g.stack ++ [t] }

/-- A `join` without a seam, one that would wait in a landing, and one that would complete below the topmost trap entry. -/
theorem witness_Joins_traps :
    (∃ (st : BitVec 3) (s : State) (g : Group) (x : Ctx), Issues (.join st) s g x 0 0 ∧ anyPending g x.fid s.clock = false ∧
      (g.frag x.fid).seam = none) ∧
    (∃ (st : BitVec 3) (s : State) (g : Group) (x : Ctx) (p : Nat) (e : StackEntry), Issues (.join st) s g x 0 0 ∧
      anyPending g x.fid s.clock = false ∧ (g.frag x.fid).seam = some p ∧ g.stack[p]? = some e ∧ e.isTrap = false ∧
      (g.frag x.fid).mask &&& ~~~e.mask = 0#64 ∧
      (∃ i ∈ g.within e.mask, i ≠ x.fid ∧ ¬((g.frag i).state = .atJoin ∧ (g.frag i).seam = some p)) ∧ g.landing.inres = true) ∧
    ∃ (st : BitVec 3) (s : State) (g : Group) (x : Ctx) (p : Nat) (e : StackEntry), Issues (.join st) s g x 0 0 ∧
      anyPending g x.fid s.clock = false ∧ (g.frag x.fid).seam = some p ∧ g.stack[p]? = some e ∧ e.isTrap = false ∧
      (g.frag x.fid).mask &&& ~~~e.mask = 0#64 ∧
      ¬(∃ i ∈ g.within e.mask, i ≠ x.fid ∧ ¬((g.frag i).state = .atJoin ∧ (g.frag i).seam = some p)) ∧ ∃ q, g.topTrap = some q ∧ p < q :=
  let g := { gJoin .ready with landing := { g0.landing with inres := true } }
  ⟨⟨0#3, withG g0, g0, ctx g0, issues (by decide +kernel), by decide +kernel, by decide +kernel⟩,
    ⟨0#3, withG g, g, ctx g, 0, _, issues (by decide +kernel), by decide +kernel, by decide +kernel,
      rfl, rfl, by decide +kernel, by decide +kernel, rfl⟩,
    0#3, withG (gJoinTrap false), gJoinTrap false, ctx (gJoinTrap false), 0, _, issues (by decide +kernel), by decide +kernel, by decide +kernel,
      rfl, rfl, by decide +kernel, by decide +kernel, 1, by decide +kernel, by decide⟩

/-- The last arrival in a handler, whose trap entry lies below the seam's. -/
theorem witness_Joins_handler : ∃ (st : BitVec 3) (s : State) (g : Group) (x : Ctx) (p : Nat) (e : StackEntry), Issues (.join st) s g x 0 0 ∧
    anyPending g x.fid s.clock = false ∧ (g.frag x.fid).seam = some p ∧ g.stack[p]? = some e ∧ e.isTrap = false ∧
    (g.frag x.fid).mask &&& ~~~e.mask = 0#64 ∧
    ¬(∃ i ∈ g.within e.mask, i ≠ x.fid ∧ ¬((g.frag i).state = .atJoin ∧ (g.frag i).seam = some p)) ∧ g.topTrap = some 0 ∧
    ∀ q, g.topTrap = some q → q < p :=
  ⟨0#3, withG (gJoinTrap true), gJoinTrap true, ctx (gJoinTrap true), 1, _, issues (by decide +kernel), by decide +kernel, by decide +kernel,
    rfl, rfl, by decide +kernel, by decide +kernel, by decide +kernel, fun q h => by
      rw [show (gJoinTrap true).topTrap = some 0 by decide +kernel] at h; cases h; decide⟩

/-- The first to arrive parks; the last completes the seam. -/
theorem witness_Joins :
    (∃ (st : BitVec 3) (s : State) (g : Group) (x : Ctx) (p : Nat) (e : StackEntry), Issues (.join st) s g x 0 0 ∧
      anyPending g x.fid s.clock = false ∧ (g.frag x.fid).seam = some p ∧ g.stack[p]? = some e ∧ e.isTrap = false ∧
      (g.frag x.fid).mask &&& ~~~e.mask = 0#64 ∧
      (∃ i ∈ g.within e.mask, i ≠ x.fid ∧ ¬((g.frag i).state = .atJoin ∧ (g.frag i).seam = some p)) ∧ g.landing.inres = false) ∧
    ∃ (st : BitVec 3) (s : State) (g : Group) (x : Ctx) (p : Nat) (e : StackEntry), Issues (.join st) s g x 0 0 ∧
      anyPending g x.fid s.clock = false ∧ (g.frag x.fid).seam = some p ∧ g.stack[p]? = some e ∧ e.isTrap = false ∧
      (g.frag x.fid).mask &&& ~~~e.mask = 0#64 ∧ g.topTrap = none ∧
      ¬(∃ i ∈ g.within e.mask, i ≠ x.fid ∧ ¬((g.frag i).state = .atJoin ∧ (g.frag i).seam = some p)) :=
  ⟨⟨0#3, withG (gJoin .ready), gJoin .ready, ctx (gJoin .ready), 0, _, issues (by decide +kernel), by decide +kernel, by decide +kernel,
      rfl, rfl, by decide +kernel, by decide +kernel, rfl⟩,
    0#3, withG (gJoin .atJoin), gJoin .atJoin, ctx (gJoin .atJoin), 0, _, issues (by decide +kernel), by decide +kernel, by decide +kernel,
      rfl, rfl, by decide +kernel, by decide +kernel, by decide +kernel⟩

theorem witness_Exits :
    (∃ (st : BitVec 3) (s : State) (g : Group) (x : Ctx), Issues (.exit st) s g x 0 0 ∧ g.liveFrags.length ≤ 1 ∧ g.drained = true) ∧
    ∃ (st : BitVec 3) (s : State) (g : Group) (x : Ctx), Issues (.exit st) s g x 0 0 ∧ 1 < g.liveFrags.length ∧
      g.landing.inres = false ∧ g.topTrap = none :=
  ⟨⟨0#3, withG g0, g0, ctx g0, issues (by decide +kernel), by decide +kernel, by decide +kernel⟩,
    0#3, withG (gJoin .ready), gJoin .ready, ctx (gJoin .ready), issues (by decide +kernel), by decide +kernel, rfl, by decide +kernel⟩

/-- In a trap entered from address 0x40. -/
def gTrap : Group := { g0 with stack := [⟨true, 0, 0x1A#8, 0x40#64, 0xFF#64, false⟩] }

theorem witness_TrapReturns : ∃ (st : BitVec 3) (s : State) (g : Group) (x : Ctx) (e : StackEntry),
    Issues (.rft st) s g x 0 0 ∧ g.stack.getLast? = some e ∧ e.isTrap = true ∧ goodTarget e.addr :=
  ⟨0#3, withG gTrap, gTrap, ctx gTrap, _, issues (by decide +kernel), rfl, rfl, by unfold goodTarget; decide +kernel⟩

/-- A group that takes its traps itself at 0x80. -/
def gVec : Group := { g0 with trap := { g0.trap with tvec := 0x80#64, tdeliver := inGroupMask } }

theorem witness_SoftwareTraps :
    (∃ (i : Instr) (s : State) (g : Group) (x : Ctx) (a : TrapArgs), Issues i s g x 0 0 ∧ softTrap x i = some a ∧ g.takesInGroup a = true) ∧
    ∃ (i : Instr) (s : State) (g : Group) (x : Ctx) (a : TrapArgs), Issues i s g x 0 0 ∧ softTrap x i = some a ∧ g.takesInGroup a = false :=
  ⟨⟨.trap 0#3 63#6, withG gVec, gVec, ctx gVec, _, issues (by decide +kernel), rfl, by decide +kernel⟩,
    .brk 0#3, withG g0, g0, ctx g0, _, issues (by decide +kernel), rfl, by decide +kernel⟩

theorem witness_SpecialReads : ∃ (st : BitVec 3) (d n : BitVec 6) (s : State) (g : Group) (x : Ctx) (v : Word),
    Issues (.gets st d n) s g x 0 0 ∧ n = 0x20#6 ∧ g.flagsAt ≤ s.clock ∧ d ≠ 0#6 ∧ plainSpecial g g n.toNat = some v :=
  ⟨0#3, 5#6, 0x20#6, withG g0, g0, ctx g0, _, issues (by decide +kernel), rfl, by decide, by decide, rfl⟩

/-- The fields of a position, of a tile's shape, and of the place in the quantum. -/
theorem witness_SpecialReads_fields : ∀ n ∈ [0x00#6, 0x2F#6, 0x38#6], ∃ (st : BitVec 3) (d : BitVec 6) (s : State) (g : Group) (x : Ctx) (l : Launch)
    (m : Team), Issues (.gets st d n) s g x 0 0 ∧ d ≠ 0#6 ∧ s.launch? g.team.uid = some l ∧ s.team? g.team = some m ∧ s.isDet g = true ∧
    ∀ h, (specialFields s g h x.fid l m n.toNat).isSome = true := by
  intro n hn
  simp only [List.mem_cons, List.not_mem_nil, or_false] at hn
  rcases hn with rfl | rfl | rfl <;>
    exact ⟨0#3, 5#6, det (withG g0), g0, ctx g0, _, _, issues (by decide +kernel), by decide, rfl, rfl, by decide +kernel, fun _ => rfl⟩

/-- A register that takes any value, one with a checked field, and a tile's shape. -/
theorem witness_SpecialWrites :
    (∃ (i : Instr) (s : State) (g : Group) (x : Ctx) (n : Nat) (a : BitVec 6),
      Issues i s g x 0 0 ∧ setsOf i = some (n, a) ∧ accepts n (x.s a) ∧ n = 0x20 ∧ g.flagsAt ≤ s.clock) ∧
    (∃ (i : Instr) (s : State) (g : Group) (x : Ctx) (n : Nat) (a : BitVec 6),
      Issues i s g x 0 0 ∧ setsOf i = some (n, a) ∧ accepts n (x.s a) ∧ n = 0x0A ∧ x.s a ≠ 0#64) ∧
    ∃ (i : Instr) (s : State) (g : Group) (x : Ctx) (n : Nat) (a : BitVec 6),
      Issues i s g x 0 0 ∧ setsOf i = some (n, a) ∧ accepts n (x.s a) ∧ 0x28 ≤ n ∧ n ≤ 0x2F ∧ s.tileBusy x.core x.slot (n - 0x28) = false := by
  let g1 := sregs [(1#6, 0xFFFC#64)] g0
  let g2 := sregs [(1#6, 0x30001#64)] g0
  refine ⟨⟨.sets 0#3 0x20#6 1#6, withG g0, g0, ctx g0, 0x20, 1#6, issues (by decide +kernel), rfl, ?_, rfl, by decide⟩,
    ⟨.sets 0#3 0x0A#6 1#6, withG g1, g1, ctx g1, 0x0A, 1#6, issues (by decide +kernel), rfl, ?_, rfl, by decide +kernel⟩,
    .sets 0#3 0x2F#6 1#6, withG g2, g2, ctx g2, 0x2F, 1#6, issues (by decide +kernel), rfl, ?_, by decide, by decide, by decide +kernel⟩
  · exact ⟨fun h => absurd h (by decide), fun h => absurd h (by decide), fun h => absurd h (by decide), fun h => absurd h (by decide),
      fun h => absurd h (by decide)⟩
  · exact ⟨fun _ => by unfold goodTarget; decide +kernel, fun h => absurd h (by decide), fun h => absurd h (by decide),
      fun h => absurd h (by decide), fun h => absurd h (by decide)⟩
  · exact ⟨fun h => absurd h (by decide), fun h => absurd h (by decide), fun h => absurd h (by decide), fun h => absurd h (by decide),
      fun _ _ => by decide +kernel⟩

/-- The writes that end a landing that a clamp waits for, and of %qpos in a deterministic launch. -/
theorem witness_SpecialWrites_landing :
    (∃ (i : Instr) (s : State) (g : Group) (x : Ctx) (a : BitVec 6), Issues i s g x 0 0 ∧ setsOf i = some (0x0C, a) ∧ accepts 0x0C (x.s a) ∧
      g.landing.inres = true ∧ g.landing.clampp = true ∧ (x.s a).getLsbD 6 = false ∧ (x.s a).getLsbD 7 = true) ∧
    ∃ (i : Instr) (s : State) (g : Group) (x : Ctx) (a : BitVec 6), Issues i s g x 0 0 ∧ setsOf i = some (0x38, a) ∧ accepts 0x38 (x.s a) ∧
      s.isDet g = true := by
  let g := sregs [(1#6, 0x80#64)] { g0 with landing := { g0.landing with inres := true, clampp := true } }
  refine ⟨⟨.setsLcause 0#3 1#6, withG g, g, ctx g, 1#6, issues (by decide +kernel), rfl, ?_, rfl, rfl, by decide +kernel, by decide +kernel⟩,
    .sets 0#3 0x38#6 1#6, det (withG g), g, ctx g, 1#6, issues (by decide +kernel), rfl, ?_, by decide +kernel⟩
  · exact ⟨fun h => absurd h (by decide), fun h => absurd h (by decide), fun h => absurd h (by decide), fun h => absurd h (by decide),
      fun h => absurd h (by decide)⟩
  · exact ⟨fun h => absurd h (by decide), fun h => absurd h (by decide), fun h => absurd h (by decide), fun h => absurd h (by decide),
      fun _ h => absurd h (by decide)⟩

/-- A group in a landing, with more than its reserve. -/
def gLand : Group := { g0 with landing := { g0.landing with land := 0x200#64, lret := 0x40#64, inres := true } }

/-- A landing that a clamp's in a deterministic launch is, one that a clamp waits for, and one that has not more than its reserve. -/
theorem witness_Landings_hard :
    (∃ (st : BitVec 3) (s : State) (g : Group) (x : Ctx) (l : Launch), Issues (.resume st) s g x 0 0 ∧ g.landing.inres = true ∧
      s.launch? g.team.uid = some l ∧ g.aside.isSome = true) ∧
    (∃ (st : BitVec 3) (s : State) (g : Group) (x : Ctx) (l : Launch), Issues (.resume st) s g x 0 0 ∧ g.landing.inres = true ∧
      s.launch? g.team.uid = some l ∧ g.aside = none ∧ g.landing.clampp = true) ∧
    ∃ (st : BitVec 3) (s : State) (g : Group) (x : Ctx) (l : Launch), Issues (.resume st) s g x 0 0 ∧ g.landing.inres = true ∧
      s.launch? g.team.uid = some l ∧ g.aside = none ∧ g.landing.clampp = false ∧
      g.ibud - (g.frag x.fid).owes (useIn x.hs (.resume st)).charge ≤ g.landing.ires :=
  let g1 := { gLand with aside := some (0, 0, gLand.landing, []) }
  let g2 := { gLand with landing := { gLand.landing with clampp := true } }
  let g3 := { gLand with ibud := 1 }
  ⟨⟨0#3, det (withG g1), g1, ctx g1, _, issues (by decide +kernel), rfl, rfl, rfl⟩,
    ⟨0#3, withG g2, g2, ctx g2, _, issues (by decide +kernel), rfl, rfl, rfl, rfl⟩,
    0#3, withG g3, g3, ctx g3, _, issues (by decide +kernel), rfl, rfl, rfl, rfl, by decide +kernel⟩

theorem witness_Landings :
    (∃ (st : BitVec 3) (o : BitVec 14) (s : State) (g : Group) (x : Ctx), Issues (.land st o) s g x 0 0 ∧
      goodTarget (x.addr + 4#64 * immB x.hs o)) ∧
    ∃ (st : BitVec 3) (s : State) (g : Group) (x : Ctx), Issues (.resume st) s g x 0 0 ∧ g.landing.inres = true ∧
      g.landing.clampp = false ∧ g.aside = none ∧
      g.landing.ires < g.ibud - (g.frag x.fid).owes (useIn x.hs (.resume st)).charge ∧ g.landing.mres < g.mbud ∧ goodTarget g.landing.lret :=
  ⟨⟨0#3, 9#14, withG g0, g0, ctx g0, issues (by decide +kernel), by unfold goodTarget; decide +kernel⟩,
    0#3, withG gLand, gLand, ctx gLand, issues (by decide +kernel), rfl, rfl, rfl, by decide +kernel, by decide +kernel,
    by unfold goodTarget; decide +kernel⟩

/-- The machine with its team changed. -/
def withT (f : Team → Team) (g : Group) : State := { withG g with teams := base.teams.map f }

/-- Pools of 8 units and 8 sectors, 8 free registers. -/
def pools (t : Team) : Team := { t with ipool := 8, mpool := 8, vfree := 8 }

/-- A `topup` of the whole pools, and one of more; a hand-over of 8 registers and of none; a claim of 8 and of too many. -/
theorem witness_PoolTransfers :
    (∃ (st : BitVec 3) (d a b : BitVec 6) (s : State) (g : Group) (x : Ctx) (m : Team), Issues (.topup st d a b) s g x 0 0 ∧
      s.team? g.team = some m ∧ g.landing.topr = true ∧ (x.s a).toNat ≤ m.ipool ∧ (x.s b).toNat ≤ m.mpool ∧
      g.ibud - (useIn x.hs (.topup st d a b)).charge + (x.s a).toNat < 2 ^ 48 ∧ g.mbud + (x.s b).toNat < 2 ^ 48) ∧
    (∃ (st : BitVec 3) (d a b : BitVec 6) (s : State) (g : Group) (x : Ctx) (m : Team), Issues (.topup st d a b) s g x 0 0 ∧
      s.team? g.team = some m ∧ ¬(x.s a).toNat ≤ m.ipool) ∧
    (∃ (st : BitVec 3) (a : BitVec 6) (s : State) (g : Group) (x : Ctx) (m : Team), Issues (.rfgive st a) s g x 0 0 ∧
      s.team? g.team = some m ∧ givePending g (g.valloc - min ((x.s a).toNat / 8 * 8) (g.valloc - 16)) s.clock = false) ∧
    (∃ (st : BitVec 3) (d a : BitVec 6) (s : State) (g : Group) (x : Ctx) (m : Team), Issues (.rfclaim st d a) s g x 0 0 ∧
      s.team? g.team = some m ∧ 8 ≤ (x.s a).toNat / 8 * 8 ∧ (x.s a).toNat / 8 * 8 ≤ m.vfree ∧ g.valloc + (x.s a).toNat / 8 * 8 ≤ 64) ∧
    ∃ (st : BitVec 3) (d a : BitVec 6) (s : State) (g : Group) (x : Ctx) (m : Team), Issues (.rfclaim st d a) s g x 0 0 ∧
      s.team? g.team = some m ∧ ¬(g.valloc + (x.s a).toNat / 8 * 8 ≤ 64) :=
  let g1 := sregs [(1#6, 8#64), (2#6, 8#64)] { g0 with landing := { g0.landing with topr := true } }
  let g2 := sregs [(1#6, 9#64)] g0
  let g3 := sregs [(1#6, 15#64)] { g0 with valloc := 56 }
  ⟨⟨0#3, 5#6, 1#6, 2#6, withT pools g1, g1, ctx g1, _, issues (by decide +kernel), rfl, rfl, by decide +kernel, by decide +kernel,
      by decide +kernel, by decide +kernel⟩,
    ⟨0#3, 5#6, 1#6, 2#6, withT pools g2, g2, ctx g2, _, issues (by decide +kernel), rfl, by decide +kernel⟩,
    ⟨0#3, 1#6, withG g2, g2, ctx g2, _, issues (by decide +kernel), rfl, by decide +kernel⟩,
    ⟨0#3, 5#6, 1#6, withT pools g3, g3, ctx g3, _, issues (by decide +kernel), rfl, by decide +kernel, by decide +kernel, by decide +kernel⟩,
    0#3, 5#6, 1#6, withT pools g2, g2, ctx g2, _, issues (by decide +kernel), rfl, by decide +kernel⟩

/-- A peg of the team, with one arrival owed and one explicit reference. -/
def peg0 : Peg := ⟨false, 0, 0, 0#8, true, ⟨0, 0, false⟩, 1, 0, 0#16, 1, 0, 1, 0⟩

/-- A timer source in s1, a handler in s2. -/
def gBind : Group := sregs [(1#6, 0x5000000000000000#64), (2#6, 0x40#64)] g0

theorem witness_SlotBindings :
    (∃ (i : Instr) (d : BitVec 3) (a b : BitVec 6) (pers : Bool) (s : State) (g : Group) (x : Ctx), Issues i s g x 0 0 ∧
      bindOf i = some (d, a, b, pers) ∧ bindFault s g (wordOf i) (x.s a) (x.s b) = none ∧ latchesNow s g (x.s a) = some true) ∧
    ∃ (st d : BitVec 3) (s : State) (g : Group) (x : Ctx), Issues (.eunbind st d) s g x 0 0 :=
  ⟨⟨.ebindPers 0#3 7#3 1#6 2#6, 7#3, 1#6, 2#6, true, withG gBind, gBind, ctx gBind, issues (by decide +kernel), rfl, by decide +kernel,
      by decide +kernel⟩,
    0#3, 7#3, withG g0, g0, ctx g0, issues (by decide +kernel)⟩

/-- A source of each kind whose condition R152 looks at once: an open batch count, the mailbox, a peg's phase, a window word, the trap queue. -/
theorem witness_SlotBindings_latches : ∀ v ∈ [0x2000000000000000#64, 0x3000000000000000#64, 0x1000000000000000#64 ||| peg0.handle,
      0x4000000000000000#64, 0x7000000000000000#64],
    ∃ (i : Instr) (d : BitVec 3) (a b : BitVec 6) (pers : Bool) (s : State) (g : Group) (x : Ctx), Issues i s g x 0 0 ∧
      bindOf i = some (d, a, b, pers) ∧ bindFault s g (wordOf i) (x.s a) (x.s b) = none ∧ x.s a = v ∧ (latchesNow s g v).isSome = true := by
  intro v hv
  let g := sregs [(1#6, v), (2#6, 0x40#64)] g0
  refine ⟨.ebind 0#3 0#3 1#6 2#6, 0#3, 1#6, 2#6, false, { withG g with pegs := [peg0] }, g, ctx g, issues ?_, rfl, ?_, ?_, ?_⟩ <;>
    (simp only [List.mem_cons, List.not_mem_nil, or_false] at hv; rcases hv with rfl | rfl | rfl | rfl | rfl <;> decide +kernel)

/-- Slot 7 bound to a mailbox, pending or not. -/
def gSlot (pend : Bool) : Group := { g0 with
    slots := g0.slots.set 7 (some ⟨0x3000000000000000#64, 0x40#64, false, pend, 0, 0⟩),
    mailbox := if pend then [9#32] else [] }

theorem witness_WaitAny :
    (∃ (st : BitVec 3) (s : State) (g : Group) (x : Ctx), Issues (.wany st) s g x 0 0 ∧
      g.slotBits (fun _ => true) &&& ~~~g.evm ≠ 0#8 ∧ s.wantedNow (g.retire (s.counts g)) = 0#8) ∧
    ∀ d, ∃ (st : BitVec 3) (s : State) (g : Group) (x : Ctx) (n : Nat) (b : Binding), Issues (.wany st) s g x 0 0 ∧ s.isDet g = d ∧
      g.slotBits (fun _ => true) &&& ~~~g.evm ≠ 0#8 ∧ n < 8 ∧ (s.wantedNow (g.retire (s.counts g))).getLsbD n = true ∧
      (∀ m, m < n → (s.wantedNow (g.retire (s.counts g))).getLsbD m = false) ∧ (g.retire (s.counts g)).slotAt n = some b := by
  refine ⟨⟨0#3, withG (gSlot false), gSlot false, ctx (gSlot false), issues (by decide +kernel), by decide +kernel, by decide +kernel⟩, fun d => ?_⟩
  let g := { gSlot true with atRound := 0x80#8 }
  cases d
  · exact ⟨0#3, withG g, g, ctx g, 7, _, issues (by decide +kernel), by decide +kernel, by decide +kernel, by decide, by decide +kernel,
      by decide +kernel, rfl⟩
  · exact ⟨0#3, det (withG g), g, ctx g, 7, _, issues (by decide +kernel), by decide +kernel, by decide +kernel, by decide, by decide +kernel,
      by decide +kernel, rfl⟩

/-- The group posts to itself; once to a full mailbox, once to a group that has ended. -/
theorem witness_MailPosts :
    (∃ (st : BitVec 3) (d a b : BitVec 6) (s : State) (g : Group) (x : Ctx) (k : TeamKey) (n : Nat) (p : Group),
      Issues (.mpost st d a b) s g x 0 0 ∧ stageRoom x s g [] 1 ∧ (g.quiet = true ∨ s.postTakes g (x.s a) = false) ∧ s.isDet g = false ∧ s.postHeld g (x.s a) = false ∧
      s.postTarget g (x.s a) (wordOf (.mpost st d a b)) = .ok (some (k, n)) ∧
      s.groups.find? (fun h => h.team == k && h.gidx == n && !h.ending) = some p ∧ s.group? p.core p.slot = some p ∧ p.mailbox.length < 4) ∧
    (∃ (st : BitVec 3) (d a b : BitVec 6) (s : State) (g : Group) (x : Ctx) (k : TeamKey) (n : Nat) (p : Group),
      Issues (.mpost st d a b) s g x 0 0 ∧ stageRoom x s g [] 1 ∧ (g.quiet = true ∨ s.postTakes g (x.s a) = false) ∧ s.isDet g = false ∧ s.postHeld g (x.s a) = false ∧
      s.postTarget g (x.s a) (wordOf (.mpost st d a b)) = .ok (some (k, n)) ∧
      s.groups.find? (fun h => h.team == k && h.gidx == n && !h.ending) = some p ∧ s.group? p.core p.slot = some p ∧ p.mailbox.length ≥ 4) ∧
    ∃ (st : BitVec 3) (d a b : BitVec 6) (s : State) (g : Group) (x : Ctx) (k : TeamKey) (n : Nat),
      Issues (.mpost st d a b) s g x 0 0 ∧ stageRoom x s g [] 1 ∧ (g.quiet = true ∨ s.postTakes g (x.s a) = false) ∧ s.isDet g = false ∧ s.postHeld g (x.s a) = false ∧
      s.postTarget g (x.s a) (wordOf (.mpost st d a b)) = .ok (some (k, n)) ∧
      s.groups.find? (fun h => h.team == k && h.gidx == n && !h.ending) = none :=
  let g1 := { g0 with mailbox := [1#32, 2#32, 3#32, 4#32] }
  let g2 := sregs [(1#6, 1#64)] g0
  let s2 := withT (fun t => { t with groups := 2, ended := 1 }) g2
  ⟨⟨0#3, 5#6, 1#6, 2#6, withG g0, g0, ctx g0, _, _, g0, issues (by decide +kernel), room_free (by decide +kernel), .inl (by decide +kernel), by decide +kernel, by decide +kernel,
      rfl, rfl, rfl, by decide⟩,
    ⟨0#3, 5#6, 1#6, 2#6, withG g1, g1, ctx g1, ⟨0, 0, false⟩, 0, g1, issues (by decide +kernel), room_free (by decide +kernel), .inr (by decide +kernel), by decide +kernel, by decide +kernel,
      by decide +kernel, by decide +kernel, by decide +kernel, by decide⟩,
    0#3, 5#6, 1#6, 2#6, s2, g2, ctx g2, ⟨0, 0, false⟩, 1, issues (by decide +kernel), room_free (by decide +kernel), .inr (by decide +kernel), by decide +kernel,
      by decide +kernel, by decide +kernel, by decide +kernel⟩

/-- A post of a deterministic launch, to the group itself. -/
theorem witness_MailPosts_det : ∃ (st : BitVec 3) (d a b : BitVec 6) (s : State) (g : Group) (x : Ctx) (k : TeamKey) (n : Nat),
    Issues (.mpost st d a b) s g x 0 0 ∧ stageRoom x s g [] 1 ∧ (g.quiet = true ∨ s.postTakes g (x.s a) = false) ∧ s.postHeld g (x.s a) = false ∧
    s.postTarget g (x.s a) (wordOf (.mpost st d a b)) = .ok (some (k, n)) ∧ s.isDet g = true :=
  ⟨0#3, 5#6, 1#6, 2#6, det (withG g0), g0, ctx g0, ⟨0, 0, false⟩, 0, issues (by decide +kernel), fun _ => .inl (by decide +kernel), .inl (by decide +kernel),
    by decide +kernel, by decide +kernel, by decide +kernel⟩

/-- The group with a handle of the peg in s1 and a value in s2. -/
def gPeg (v : Word) : Group := sregs [(1#6, peg0.handle), (2#6, v)] g0

/-- The machine with the peg. -/
def sPeg (v : Word) : State := { withG (gPeg v) with pegs := [peg0] }

/-- Pegs 0 to n - 1 of core 0 in use. -/
def sPegs (n : Nat) : State := { withG (gPeg 1#64) with pegs := (List.range n).map fun j => { peg0 with index := j } }

/-- A pool whose last peg is the lowest free one, one without a free peg, and a `pegget` and a `pegarr` of a deterministic launch. -/
theorem witness_Pegs_get :
    (∀ n, n = 63 ∨ n = 64 → ∃ (st : BitVec 3) (d a : BitVec 6) (s : State) (g : Group) (x : Ctx), s.isDet g = false ∧
      Issues (.pegget st d a) s g x 0 0 ∧ (x.s a).toNat / 2 ^ 48 % 2 ^ 15 = 0 ∧ (x.s a).toNat % 2 ^ 16 ≠ 0 ∧ (x.s a).getLsbD 63 = false ∧
      (∀ k, k < n → ∃ q, s.pegs.find? (fun q => q.cluster == false && q.pool == g.core && q.index == k) = some q ∧ q.live = true) ∧
      (n = 63 → s.pegs.find? (fun q => q.cluster == false && q.pool == g.core && q.index == n) = none ∧
        s.pegsOf false g.core (fun _ => true) + s.allotted false g.core < 64 ∧ (s.pegAlloc g (x.s a)).1 ≠ 0#64)) ∧
    (∃ (st : BitVec 3) (d a : BitVec 6) (s : State) (g : Group) (x : Ctx), s.isDet g = true ∧ Issues (.pegget st d a) s g x 0 0 ∧
      (x.s a).toNat / 2 ^ 48 % 2 ^ 15 = 0 ∧ (x.s a).toNat % 2 ^ 16 ≠ 0 ∧ (x.s a).getLsbD 63 = false) ∧
    ∃ (st : BitVec 3) (a b : BitVec 6) (s : State) (g : Group) (x : Ctx) (p : Peg), s.isDet g = true ∧ Issues (.pegarr st a b) s g x 0 0 ∧
      s.peg? g (x.s a) = some p ∧ g.quiet = true ∧ stageRoom x s g [] 1 ∧ 0 < (x.s b).toNat ∧ (x.s b).toNat ≤ 65535 := by
  let g := sregs [(1#6, 1#64)] g0
  refine ⟨fun n hn => ?_, ⟨0#3, 5#6, 1#6, det (withG g), g, ctx g, by decide +kernel, issues (by decide +kernel), by decide +kernel, by decide +kernel,
      by decide +kernel⟩,
    0#3, 1#6, 2#6, det (sPeg 1#64), gPeg 1#64, ctx (gPeg 1#64), peg0, by decide +kernel, issues (by decide +kernel), by decide +kernel,
      by decide +kernel, fun _ => .inl (by decide +kernel), by decide +kernel, by decide +kernel⟩
  have used : ∀ m, m ≤ 64 → ∀ k, k < m → ((sPegs m).pegs.find? fun q => q.cluster == false && q.pool == 0 && q.index == k).any (·.live) = true := by
    decide +kernel
  have ex : ∀ k, k < n → ∃ q, (sPegs n).pegs.find? (fun q => q.cluster == false && q.pool == 0 && q.index == k) = some q ∧ q.live = true := by
    intro k hk
    have h := used n (by omega) k hk
    cases e : (sPegs n).pegs.find? (fun q => q.cluster == false && q.pool == 0 && q.index == k) with
    | none => rw [e] at h; cases h
    | some q => rw [e] at h; exact ⟨q, rfl, h⟩
  rcases hn with rfl | rfl
  · exact ⟨0#3, 5#6, 2#6, sPegs 63, gPeg 1#64, ctx (gPeg 1#64), by decide +kernel, issues (by decide +kernel), by decide +kernel, by decide +kernel,
      by decide +kernel, ex, fun _ => ⟨by decide +kernel, by decide +kernel, by decide +kernel⟩⟩
  · exact ⟨0#3, 5#6, 2#6, sPegs 64, gPeg 1#64, ctx (gPeg 1#64), by decide +kernel, issues (by decide +kernel), by decide +kernel, by decide +kernel,
      by decide +kernel, ex, fun h => absurd h (by decide)⟩

theorem witness_Pegs_move :
    (∃ (st : BitVec 3) (a : BitVec 6) (s : State) (g : Group) (x : Ctx) (p : Peg), s.isDet g = false ∧ Issues (.pegref st a) s g x 0 0 ∧
      s.peg? g (x.s a) = some p ∧ p.explicit + p.implicit < 65535) ∧
    (∃ (st : BitVec 3) (a : BitVec 6) (s : State) (g : Group) (x : Ctx) (p : Peg), s.isDet g = false ∧ Issues (.pegput st a) s g x 0 0 ∧
      s.peg? g (x.s a) = some p ∧ 0 < p.explicit) ∧
    (∃ (st : BitVec 3) (a b : BitVec 6) (s : State) (g : Group) (x : Ctx) (p : Peg), s.isDet g = false ∧ Issues (.pegarr st a b) s g x 0 0 ∧
      s.peg? g (x.s a) = some p ∧ g.quiet = true ∧ stageRoom x s g [] 1 ∧ 0 < (x.s b).toNat ∧ (x.s b).toNat ≤ 65535 ∧ p.a - (x.s b).toNat ≤ 0 ∧ p.b = 0 ∧
      0 < p.a - (x.s b).toNat + p.arrivals) ∧
    (∃ (st : BitVec 3) (a b : BitVec 6) (s : State) (g : Group) (x : Ctx) (p : Peg), s.isDet g = false ∧ Issues (.pegwait st a b) s g x 0 0 ∧
      s.peg? g (x.s a) = some p ∧ (p.phase - (x.s b).setWidth 16).toNat < 2 ^ 15) ∧
    ∃ (st : BitVec 3) (a b : BitVec 6) (s : State) (g : Group) (x : Ctx) (p : Peg), s.isDet g = false ∧ Issues (.pegwait st a b) s g x 0 0 ∧
      s.peg? g (x.s a) = some p ∧ ¬(p.phase - (x.s b).setWidth 16).toNat < 2 ^ 15 :=
  ⟨⟨0#3, 1#6, sPeg 1#64, gPeg 1#64, ctx (gPeg 1#64), peg0, by decide +kernel, issues (by decide +kernel), by decide +kernel, by decide⟩,
    ⟨0#3, 1#6, sPeg 1#64, gPeg 1#64, ctx (gPeg 1#64), peg0, by decide +kernel, issues (by decide +kernel), by decide +kernel, by decide⟩,
    ⟨0#3, 1#6, 2#6, sPeg 1#64, gPeg 1#64, ctx (gPeg 1#64), peg0, by decide +kernel, issues (by decide +kernel), by decide +kernel,
      by decide +kernel, room_free (by decide +kernel), by decide +kernel, by decide +kernel, by decide +kernel, rfl, by decide +kernel⟩,
    ⟨0#3, 1#6, 2#6, sPeg 0#64, gPeg 0#64, ctx (gPeg 0#64), peg0, by decide +kernel, issues (by decide +kernel), by decide +kernel,
      by decide +kernel⟩,
    0#3, 1#6, 2#6, sPeg 1#64, gPeg 1#64, ctx (gPeg 1#64), peg0, by decide +kernel, issues (by decide +kernel), by decide +kernel,
      by decide +kernel⟩

/-- A seal with a peg and a completion word in the last word of the window; a `waitb` that goes on and one that parks. -/
theorem witness_Seals :
    (∃ (st : BitVec 3) (d a b : BitVec 6) (c : BitVec 2) (s : State) (g : Group) (x : Ctx), Issues (.seal st d a b c) s g x 0 0 ∧
      (g.batch (.ofCode c.toNat)).seals.length < 64 ∧ (s.peg? g (x.s d)).isSome ∧ a ≠ 0#6 ∧ (x.s a).toNat % 4 = 0 ∧
      (x.s a).toNat + 4 = (s.team? g.team).elim 0 (·.scratch) ∧ s.isDet g = false ∧ s.variant.hasGate = true) ∧
    (∃ (st : BitVec 3) (c : BitVec 2) (s : State) (g : Group) (x : Ctx), Issues (.seal st 0#6 0#6 0#6 c) s g x 0 0 ∧ 2 ≤ c.toNat ∧
      s.variant.hasGate = false ∧ s.isDet g = false ∧ (g.batch (.ofCode c.toNat)).seals = [] ∧ g.gates = [] ∧ g.reqs = []) ∧
    (∃ (st : BitVec 3) (c : BitVec 2) (n : BitVec 8) (s : State) (g : Group) (x : Ctx), Issues (.waitb st c n) s g x 0 0 ∧
      ¬(g.batch (.ofCode c.toNat)).seals.length ≤ n.toNat ∧ 2 ≤ c.toNat ∧ s.variant.hasGate = false) ∧
    (∃ (st : BitVec 3) (c : BitVec 2) (n : BitVec 8) (s : State) (g : Group) (x : Ctx), Issues (.waitb st c n) s g x 0 0 ∧
      (g.batch (.ofCode c.toNat)).seals.length ≤ n.toNat) ∧
    ∃ (st : BitVec 3) (c : BitVec 2) (n : BitVec 8) (s : State) (g : Group) (x : Ctx), Issues (.waitb st c n) s g x 0 0 ∧
      ¬((g.batch (.ofCode c.toNat)).seals.length ≤ n.toNat ∨ (2 ≤ c.toNat ∧ s.variant.hasGate = false)) :=
  let k := { g0 with bg := { g0.bg with counter := 1#32, seals := [⟨1#32, none, none, 0, false, 0, 0⟩] } }
  let g := { g0 with bm := { g0.bm with counter := 1#32, seals := [⟨1#32, none, none, 0, false, 0, 0⟩] } }
  ⟨⟨0#3, 1#6, 2#6, 3#6, 2#2, sPeg 65532#64, gPeg 65532#64, ctx (gPeg 65532#64), issues (by decide +kernel), by decide +kernel,
      by decide +kernel, by decide, by decide +kernel, by decide +kernel, by decide +kernel, rfl⟩,
    ⟨0#3, 2#2, { withG g0 with variant := .kn960l }, g0, ctx g0, issues (by decide +kernel), by decide, rfl, by decide +kernel, rfl, rfl, rfl⟩,
    ⟨0#3, 2#2, 0#8, { withG k with variant := .kn960l }, k, ctx k, issues (by decide +kernel), by decide +kernel, by decide, rfl⟩,
    ⟨0#3, 2#2, 0#8, withG g0, g0, ctx g0, issues (by decide +kernel), by decide +kernel⟩,
    0#3, 1#2, 0#8, withG g, g, ctx g, issues (by decide +kernel), by decide +kernel⟩

/-- A data address in s1: the page that the tables map read and write. -/
def gData : Group := sregs [(1#6, 0x10000#64)] g0

/-- The same without lanes under k1, which is empty. -/
theorem witness_GlobalAccesses_idle : ∃ (i : Instr) (s : State) (g : Group) (x : Ctx) (m : MemSpec),
    Issues i s g x 0 (sectorsOf m.align m.n m.ins) ∧ globalOf x i = some m ∧ g.orderHeld m.release = false ∧ m.ins = [] :=
  ⟨.ldv 0#3 1#2 5#6 1#6 0#6 2#2, withG gData, gData, ctx gData, _, issues (by decide +kernel), rfl, by decide +kernel, by decide +kernel⟩

/-- A load of four bytes in each lane. -/
theorem witness_GlobalAccesses : ∃ (i : Instr) (s : State) (g : Group) (x : Ctx) (m : MemSpec) (p : Plan) (u : State),
    Issues i s g x 0 (sectorsOf m.align m.n m.ins) ∧ globalOf x i = some m ∧ g.orderHeld m.release = false ∧ m.ins ≠ [] ∧
    x.plan s m = (p, u) ∧ p.fault = none ∧ memRoom x s g m ∧ s.isDet g = false ∧ p.page = none :=
  ⟨.ldv 0#3 0#2 5#6 1#6 0#6 2#2, withG gData, gData, ctx gData, _, _, _, issues (by decide +kernel), rfl, by decide +kernel,
    by decide +kernel, rfl, by decide +kernel, memRoom_free (by decide +kernel) (by decide +kernel), by decide +kernel, by decide +kernel⟩

/-- A store that a deterministic launch stages. -/
theorem witness_GlobalAccesses_staged : ∃ (i : Instr) (s : State) (g : Group) (x : Ctx) (m : MemSpec) (p : Plan) (u : State),
    Issues i s g x 0 (sectorsOf m.align m.n m.ins) ∧ globalOf x i = some m ∧ g.orderHeld m.release = false ∧ m.ins ≠ [] ∧
    x.plan s m = (p, u) ∧ p.fault = none ∧ memRoom x s g m ∧ s.isDet g = true ∧ m.kind.stages = true :=
  ⟨.stx 0#3 0#2 5#6 1#6 2#2, det (withG gData), gData, ctx gData, _, _, _, issues (by decide +kernel), rfl, by decide +kernel,
    by decide +kernel, rfl, by decide +kernel, memRoom_staged (by decide +kernel) (by decide +kernel) (by decide +kernel), by decide +kernel,
    by decide +kernel⟩

/-- A load and a store of the own window up to its last word, one without lanes, and a load of another position of a cluster team of 2. -/
theorem witness_WindowAccesses :
    (∃ (i : Instr) (s : State) (g : Group) (x : Ctx) (m : Team) (n : Nat) (d : BitVec 6) (ins : List LaneIn), Issues i s g x 0 0 ∧
      windowOf x i = some (false, none, n, d, ins) ∧ g.orderHeld false = false ∧ s.isDet g = false ∧ s.team? g.team = some m ∧
      windowFault m.scratch n ins = none ∧ ins = []) ∧
    (∃ (i : Instr) (s : State) (g : Group) (x : Ctx) (m : Team) (n : Nat) (d : BitVec 6) (ins : List LaneIn), Issues i s g x 0 0 ∧
      windowOf x i = some (false, none, n, d, ins) ∧ g.orderHeld false = false ∧ s.isDet g = false ∧ s.team? g.team = some m ∧
      windowFault m.scratch n ins = none ∧ ins ≠ []) ∧
    (∃ (i : Instr) (s : State) (g : Group) (x : Ctx) (m : Team) (n : Nat) (d : BitVec 6) (ins : List LaneIn), Issues i s g x 0 0 ∧
      windowOf x i = some (true, none, n, d, ins) ∧ g.orderHeld false = false ∧ s.isDet g = false ∧ s.team? g.team = some m ∧
      windowFault m.scratch n ins = none ∧ ins ≠ [] ∧ g.copies = []) ∧
    ∃ (i : Instr) (s : State) (g : Group) (x : Ctx) (m : Team) (j n : Nat) (d : BitVec 6) (ins : List LaneIn), Issues i s g x 0 0 ∧
      windowOf x i = some (false, some j, n, d, ins) ∧ g.orderHeld false = false ∧ s.isDet g = false ∧ s.noPeer g j = false ∧
      s.team? g.team = some m ∧ windowFault m.scratch n ins = none ∧ ins ≠ [] ∧ j ≠ m.pos :=
  let g := sregs [(1#6, 65280#64)] g0
  let s := withT (fun t => { t with shape := 2 }) g
  ⟨⟨.lds 0#3 1#2 5#6 1#6 0#6 2#2, withG g, g, ctx g, _, _, _, _, issues (by decide +kernel), rfl, by decide +kernel, by decide +kernel, rfl,
      by decide +kernel, by decide +kernel⟩,
    ⟨.lds 0#3 0#2 5#6 1#6 0#6 2#2, withG g, g, ctx g, _, _, _, _, issues (by decide +kernel), rfl, by decide +kernel, by decide +kernel, rfl,
      by decide +kernel, by decide +kernel⟩,
    ⟨.sts 0#3 0#2 5#6 1#6 0#6 2#2, withG g, g, ctx g, _, _, _, _, issues (by decide +kernel), rfl, by decide +kernel, by decide +kernel, rfl,
      by decide +kernel, by decide +kernel, rfl⟩,
    .ldp 0#3 0#2 5#6 1#6 0#6 1#2, s, g, ctx g, _, 1, _, _, _, issues (by decide +kernel), rfl, by decide +kernel, by decide +kernel,
      by decide +kernel, rfl, by decide +kernel, by decide +kernel, by decide⟩

/-- A store to another position, and the peer words of a deterministic launch: one without lanes, a load and a store of the own position. -/
theorem witness_WindowAccesses_peer : ∀ d w idle : Bool, ∃ (i : Instr) (s : State) (g : Group) (x : Ctx) (m : Team) (j n : Nat) (r : BitVec 6)
    (ins : List LaneIn), Issues i s g x 0 0 ∧ windowOf x i = some (w, some j, n, r, ins) ∧ g.orderHeld false = false ∧ s.isDet g = d ∧
    stageRoom x s g [] (if w = true ∧ ins ≠ [] then 1 else 0) ∧ s.noPeer g j = false ∧ s.team? g.team = some m ∧
    windowFault m.scratch n ins = none ∧ (if idle then ins = [] else ins ≠ []) ∧ (d = true ∨ j ≠ m.pos) := by
  let g := sregs [(1#6, 65280#64)] g0
  let s := withT (fun t => { t with shape := 2 }) g
  intro d w idle
  cases d <;> cases w <;> cases idle
  · exact ⟨.ldp 0#3 0#2 5#6 1#6 0#6 1#2, s, g, ctx g, _, 1, _, _, _, issues (by decide +kernel), rfl, by decide +kernel, by decide +kernel,
      room_free (by decide +kernel), by decide +kernel, rfl, by decide +kernel, by decide +kernel, by decide⟩
  · exact ⟨.ldp 0#3 1#2 5#6 1#6 0#6 1#2, s, g, ctx g, _, 1, _, _, _, issues (by decide +kernel), rfl, by decide +kernel, by decide +kernel,
      room_free (by decide +kernel), by decide +kernel, rfl, by decide +kernel, by decide +kernel, by decide⟩
  · exact ⟨.stp 0#3 0#2 5#6 1#6 0#6 1#2, s, g, ctx g, _, 1, _, _, _, issues (by decide +kernel), rfl, by decide +kernel, by decide +kernel,
      room_free (by decide +kernel), by decide +kernel, rfl, by decide +kernel, by decide +kernel, by decide⟩
  · exact ⟨.stp 0#3 1#2 5#6 1#6 0#6 1#2, s, g, ctx g, _, 1, _, _, _, issues (by decide +kernel), rfl, by decide +kernel, by decide +kernel,
      room_free (by decide +kernel), by decide +kernel, rfl, by decide +kernel, by decide +kernel, by decide⟩
  · exact ⟨.ldp 0#3 0#2 5#6 1#6 0#6 0#2, det s, g, ctx g, _, 0, _, _, _, issues (by decide +kernel), rfl, by decide +kernel, by decide +kernel,
      fun _ => .inl (by decide +kernel), by decide +kernel, rfl, by decide +kernel, by decide +kernel, by decide⟩
  · exact ⟨.ldp 0#3 1#2 5#6 1#6 0#6 0#2, det s, g, ctx g, _, 0, _, _, _, issues (by decide +kernel), rfl, by decide +kernel, by decide +kernel,
      fun _ => .inl (by decide +kernel), by decide +kernel, rfl, by decide +kernel, by decide +kernel, by decide⟩
  · exact ⟨.stp 0#3 0#2 5#6 1#6 0#6 0#2, det s, g, ctx g, _, 0, _, _, _, issues (by decide +kernel), rfl, by decide +kernel, by decide +kernel,
      fun _ => .inl (by decide +kernel), by decide +kernel, rfl, by decide +kernel, by decide +kernel, by decide⟩
  · exact ⟨.stp 0#3 1#2 5#6 1#6 0#6 0#2, det s, g, ctx g, _, 0, _, _, _, issues (by decide +kernel), rfl, by decide +kernel, by decide +kernel,
      fun _ => .inl (by decide +kernel), by decide +kernel, rfl, by decide +kernel, by decide +kernel, by decide⟩

/-- A buffer of 128 bytes with CLAMP, of which 32 lanes of words lie inside. -/
def gBuf : Group := { g0 with b := g0.b.set 1 (0x700000000800000000000010000#128) }

/-- A buffer without a byte, with CLAMP. -/
def gNone : Group := { g0 with b := g0.b.set 1 (0x700000000000000000000010000#128) }

/-- A load of which some lanes lie outside, a store of the same lanes that a deterministic launch stages, and a load without a lane inside. -/
theorem witness_BufferWords :
    (∀ w : Bool, ∃ (i : Instr) (s : State) (g : Group) (x : Ctx) (q : BufDesc) (n : Nat) (d : BitVec 6) (ins : List LaneIn) (p : Plan) (u : State),
      Issues i s g x 0 (sectorsOf false n (atBase q ins)) ∧ bufferOf x i = some (w, q, n, d, ins) ∧
      (if w then q.w else q.rd) = true ∧ q.clamp = true ∧ ¬(∀ l ∈ ins, inBuffer q n l = true) ∧ g.orderHeld false = false ∧
      s.isDet g = w ∧ x.plan s (bufferSpec w q n d ins) = (p, u) ∧ (bufferSpec w q n d ins).ins ≠ [] ∧ p.fault = none ∧
      memRoom x s g (bufferSpec w q n d ins)) ∧
    (∃ (i : Instr) (s : State) (g : Group) (x : Ctx) (q : BufDesc) (n : Nat) (d : BitVec 6) (ins : List LaneIn),
      Issues i s g x 0 (sectorsOf false n (atBase q ins)) ∧ bufferOf x i = some (false, q, n, d, ins) ∧ q.rd = true ∧ q.clamp = true ∧
      maskOf ((ins.filter fun l => !inBuffer q n l).map (·.lane)) ≠ 0#64 ∧ g.orderHeld false = false ∧ (bufferSpec false q n d ins).ins = []) ∧
    (∃ (st : BitVec 3) (d : BitVec 4) (a b : BitVec 6) (s : State) (g : Group) (x : Ctx), Issues (.bdset st d a b) s g x 0 0 ∧
      (x.s b).toNat < 2 ^ 43) ∧
    ∃ (st : BitVec 3) (d : BitVec 6) (a : BitVec 4) (s : State) (g : Group) (x : Ctx), Issues (.bdgetHi st d a) s g x 0 0 ∧
      Issues (.bdgetLo st d a) s g x 0 0 := by
  refine ⟨fun w => ?_, ⟨.ldb 0#3 0#2 5#6 1#4 0#6 2#2, withG gNone, gNone, ctx gNone, _, _, _, _, issues (by decide +kernel), rfl, by decide +kernel,
      by decide +kernel, by decide +kernel, by decide +kernel, by decide +kernel⟩,
    ⟨0#3, 15#4, 1#6, 2#6, withG g0, g0, ctx g0, issues (by decide +kernel), by decide +kernel⟩,
    0#3, 5#6, 1#4, withG g0, g0, ctx g0, issues (by decide +kernel), issues (by decide +kernel)⟩
  cases w
  · exact ⟨.ldb 0#3 0#2 5#6 1#4 0#6 2#2, withG gBuf, gBuf, ctx gBuf, _, _, _, _, _, _, issues (by decide +kernel), rfl, by decide +kernel,
      by decide +kernel, by decide +kernel, by decide +kernel, by decide +kernel, rfl, by decide +kernel, by decide +kernel,
      memRoom_free (by decide +kernel) (by decide +kernel)⟩
  · exact ⟨.stb 0#3 0#2 5#6 1#4 0#6 2#2, det (withG gBuf), gBuf, ctx gBuf, _, _, _, _, _, _, issues (by decide +kernel), rfl, by decide +kernel,
      by decide +kernel, by decide +kernel, by decide +kernel, by decide +kernel, rfl, by decide +kernel, by decide +kernel,
      memRoom_staged (by decide +kernel) (by decide +kernel) (by decide +kernel)⟩

/-- A window-to-window copy of 256 bytes: s1 names the destination, s2 the source, s3 the length. -/
def gCopy (len : Word) : Group := sregs [(1#6, 0#64), (2#6, 0x400#64), (3#6, len)] g0

/-- A copy of 256 bytes, an empty one, and one into global memory that a deterministic launch stages. -/
theorem witness_Copies_issue :
    (∀ empty : Bool, ∃ (i : Instr) (s : State) (g : Group) (x : Ctx) (op : CopyOp) (sectors payload : Nat), Issues i s g x 0 sectors ∧
      copyOf x s i = some (.ok op sectors payload) ∧ s.producer g = true ∧ g.orderHeld false = false ∧ s.copiesOn x.core < 32 ∧
      stageRoom x s g (s.copyLines g op) 0 ∧ s.isDet g = false ∧ emptyCopy op = empty) ∧
    ∃ (i : Instr) (s : State) (g : Group) (x : Ctx) (op : CopyOp) (sectors payload : Nat), Issues i s g x 0 sectors ∧
      copyOf x s i = some (.ok op sectors payload) ∧ s.producer g = true ∧ g.orderHeld false = false ∧ s.copiesOn x.core < 32 ∧
      s.tableWaits g op = none ∧ stageRoom x s g (s.copyLines g op) 0 ∧ s.isDet g = true ∧ emptyCopy op = false ∧ s.copyLines g op ≠ [] := by
  refine ⟨fun e => ?_, ?_⟩
  · cases e
    · exact ⟨.cpyFromScratchpad 0#3 1#6 2#6 3#6 1#2, withG (gCopy 256#64), gCopy 256#64, ctx (gCopy 256#64),
        .linear (.window none 0) (.window none 0x400) 256, 0, 256, issues (by decide +kernel), by decide +kernel, by decide +kernel,
        by decide +kernel, by decide +kernel, room_free (by decide +kernel), by decide +kernel, by decide +kernel⟩
    · exact ⟨.cpyFromScratchpad 0#3 1#6 2#6 3#6 1#2, withG (gCopy 0#64), gCopy 0#64, ctx (gCopy 0#64),
        .linear (.window none 0) (.window none 0x400) 0, 0, 0, issues (by decide +kernel), by decide +kernel, by decide +kernel,
        by decide +kernel, by decide +kernel, room_free (by decide +kernel), by decide +kernel, by decide +kernel⟩
  let g := sregs [(1#6, 0x10000#64), (2#6, 0x400#64), (3#6, 32#64)] g0
  exact ⟨.cpyFromScratchpad 0#3 1#6 2#6 3#6 0#2, det (withG g), g, ctx g, .linear (.global 0x10000#64) (.window none 0x400) 32, 1, 32,
    issues (by decide +kernel), by decide +kernel, by decide +kernel, by decide +kernel, by decide +kernel, by decide +kernel,
    fun _ => .inl (by decide +kernel), by decide +kernel, by decide +kernel, by decide +kernel⟩

/-- A copy of 256 bytes that has moved none. -/
def copy0 : Copy := ⟨7, .linear (.window none 0) (.window none 0x400) 256, 0, none, 1#32, 0#64, 256, false, .running, [], [], none⟩

/-- The same with another operation, that has moved `pos` bytes. -/
def copyAt (op : CopyOp) (pos : Nat) : Copy := { copy0 with op := op, pos := pos }

/-- A group with it. -/
def gPiece (op : CopyOp) (pos : Nat) : Group := { g0 with copies := [copyAt op pos] }

/-- A copy moves its next piece: what the clauses about pieces share. -/
def moves (core slot n : Nat) (s : State) (g : Group) (m : Team) (c : Copy) : Prop :=
  live s core slot g ∧ g.copies.find? (fun c => c.id == n) = some c ∧ s.frozen.contains core = false ∧ c.st = .running ∧ c.raced = [] ∧
  c.origs = [] ∧ c.out = none ∧ s.team? g.team = some m ∧ s.stoodForSave m = false ∧ s.peerHeld m = false ∧ g.staged = [] ∧
  s.pieceHeld g c c.piece.len (c.piece.src.toList ++ c.piece.dsts) = false

theorem moves_of {op : CopyOp} {pos : Nat} (h :
    let g := gPiece op pos
    let c := copyAt op pos
    (((withG g).team? g.team).any (fun m => !(withG g).stoodForSave m && !(withG g).peerHeld m) &&
      !(withG g).pieceHeld g c c.piece.len (c.piece.src.toList ++ c.piece.dsts)) = true) :
    ∃ m, moves 0 0 7 (withG (gPiece op pos)) (gPiece op pos) m (copyAt op pos) := by
  simp only [Bool.and_eq_true, Bool.not_eq_true'] at h
  obtain ⟨m, e, k⟩ := (Option.any_eq_true _ _).1 h.1
  simp only [Bool.and_eq_true, Bool.not_eq_true'] at k
  exact ⟨m, ⟨(by decide : base.mgmt.devState ≠ .frozen), rfl⟩, rfl, rfl, rfl, rfl, rfl, rfl, e, k.1, k.2, rfl, h.2⟩

/-- A box of a row of eight words and two rows, from column `org` of a tensor of two rows of eight. -/
def box0 (org : Int) (toWindow : Bool) : Box :=
  ⟨0, 32, 32, 1, (8, 2, 1), (org, 0, 0), (8, 2, 1), 32, 64, 4, 0x11223344#64, 0x10000#64, false, toWindow⟩

/-- A piece of a linear copy each way, the first not its last, and of a box each way. -/
theorem witness_Copies_pieces : ∀ c ∈ [(CopyOp.linear (.window none 0) (.global 0x10010#64) 64, 0), (.tensor (box0 0 true), 36),
      (.linear (.global 0x10000#64) (.window none 0x400) 16, 0), (.tensor (box0 0 false), 0)],
    ∃ (core slot n : Nat) (s : State) (g : Group) (m : Team) (w : Bool) (ea : Word) (offs : List Nat) (total : Nat) (span : BitVec 3) (pa e : Nat)
      (u : State), moves core slot n s g m (copyAt c.1 c.2) ∧ pieceAt (copyAt c.1 c.2) = some (w, ea, offs, total, span) ∧ pieceIn (copyAt c.1 c.2) ∧
      (copyAt c.1 c.2).pos < total ∧ s.ownTags g 7 = s.tags ∧ ea.toNat / 2 ^ 55 % 2 ^ 5 = 0 ∧
      Machine.translate s g.part g.site (ea.toNat % 2 ^ 55) = (.ok pa e, u) ∧ natBit e 6 = false ∧ natBit e 4 = false ∧
      (w = true → ∀ a ∈ (List.range offs.length).map (pa + ·), poisoned s a = false) ∧ (w = false → natBit e 2 = true ∧ s.isDet g = false) := by
  intro c hc
  simp only [List.mem_cons, List.not_mem_nil, or_false] at hc
  rcases hc with rfl | rfl | rfl | rfl
  · obtain ⟨m, h⟩ := moves_of (op := .linear (.window none 0) (.global 0x10010#64) 64) (pos := 0) (by decide +kernel)
    exact ⟨0, 0, 7, _, _, m, _, _, _, _, _, 0x50010, 0x5000D, _, h, rfl, trivial, by decide, by decide +kernel, by decide +kernel,
      pair_of_fst (by decide +kernel), by decide, by decide, fun _ => by decide +kernel, fun e => absurd e (by decide)⟩
  · obtain ⟨m, h⟩ := moves_of (op := .tensor (box0 0 true)) (pos := 36) (by decide +kernel)
    exact ⟨0, 0, 7, _, _, m, _, _, _, _, _, 0x50024, 0x5000D, _, h, rfl, ⟨rfl, by decide, by unfold boxIn; decide +kernel⟩, by decide, by decide +kernel,
      by decide +kernel, pair_of_fst (by decide +kernel), by decide, by decide, fun _ => by decide +kernel, fun e => absurd e (by decide)⟩
  · obtain ⟨m, h⟩ := moves_of (op := .linear (.global 0x10000#64) (.window none 0x400) 16) (pos := 0) (by decide +kernel)
    exact ⟨0, 0, 7, _, _, m, _, _, _, _, _, 0x50000, 0x5000D, _, h, rfl, trivial, by decide, by decide +kernel, by decide +kernel,
      pair_of_fst (by decide +kernel), by decide, by decide, fun e => absurd e (by decide), fun _ => ⟨by decide, by decide +kernel⟩⟩
  · obtain ⟨m, h⟩ := moves_of (op := .tensor (box0 0 false)) (pos := 0) (by decide +kernel)
    exact ⟨0, 0, 7, _, _, m, _, _, _, _, _, 0x50000, 0x5000D, _, h, rfl, ⟨rfl, by decide, by unfold boxIn; decide +kernel⟩, by decide, by decide +kernel,
      by decide +kernel, pair_of_fst (by decide +kernel), by decide, by decide, fun e => absurd e (by decide), fun _ => ⟨by decide, by decide +kernel⟩⟩

/-- The first elements outside the tensor, each way: columns 6 and 7 lie inside, column 8 does not. -/
theorem witness_Copies_fill : ∀ w : Bool, ∃ (core slot n : Nat) (s : State) (g : Group) (m : Team) (x : Box), x.toWindow = w ∧
    moves core slot n s g m (copyAt (.tensor x) 8) ∧ x.table = false ∧ 8 < x.rb * x.box.2.1 * x.box.2.2 ∧ x.rb = x.box.1 * x.esize ∧ 0 < x.esize ∧
    ¬boxIn x (8 / x.rb) (8 % x.rb) := by
  intro w
  cases w
  · obtain ⟨m, h⟩ := moves_of (op := .tensor (box0 6 false)) (pos := 8) (by decide +kernel)
    exact ⟨0, 0, 7, _, _, m, _, rfl, h, rfl, by decide, rfl, by decide, by unfold boxIn; decide +kernel⟩
  · obtain ⟨m, h⟩ := moves_of (op := .tensor (box0 6 true)) (pos := 8) (by decide +kernel)
    exact ⟨0, 0, 7, _, _, m, _, rfl, h, rfl, by decide, rfl, by decide, by unfold boxIn; decide +kernel⟩

theorem witness_Copies_within : ∃ (core slot n a b len : Nat) (s : State) (g : Group) (m : Team) (c : Copy), moves core slot n s g m c ∧
    c.op = .linear (.window none a) (.window none b) len ∧ 0 < len ∧ c.pos = 0 := by
  obtain ⟨m, h⟩ := moves_of (op := .linear (.window none 0) (.window none 0x400) 256) (pos := 0) (by decide +kernel)
  exact ⟨0, 0, 7, 0, 0x400, 256, _, _, m, _, h, rfl, by decide, rfl⟩

/-- A piece whose store is performed, in the middle of a copy and at its end. -/
theorem witness_Copies_answered : ∀ len, len = 16 ∨ len = 64 → ∃ (core slot n id : Nat) (s : State) (g : Group) (c : Copy) (r : Request) (w : Bool)
    (ea : Word) (offs : List Nat) (total : Nat) (span : BitVec 3), live s core slot g ∧ g.copies.find? (fun c => c.id == n) = some c ∧
    c.st = .running ∧ c.out = some id ∧ c.raced = [] ∧ pieceAt c = some (w, ea, offs, total, span) ∧ pieceIn c ∧ c.pos < total ∧ total = len ∧
    g.req? id = some r ∧ r.performed = true ∧ ∀ l ∈ r.lanes, l.st ≠ .failed .tag := by
  let r : Request := ⟨9, .piece, 1, false, 0, [⟨64, 0x10000#64, [0x50000], [], false, 7#64, 0#64, 0#64, .performed, false⟩], false, 0,
    BitVec.allOnes 64, 0#64, none, 0, (0, 0)⟩
  intro len h
  let c : Copy := { copyAt (.linear (.global 0x10000#64) (.window none 0x400) len) 0 with out := some 9 }
  rcases h with rfl | rfl <;>
    exact ⟨0, 0, 7, 9, withG { g0 with copies := [c], reqs := [r] }, { g0 with copies := [c], reqs := [r] }, c, r, _, _, _, _, _, ⟨by decide, rfl⟩, rfl, rfl, rfl, rfl, rfl, trivial, by decide,
      rfl, rfl, by decide +kernel, by decide +kernel⟩

theorem witness_Copies_stand : ∃ (core slot n : Nat) (s : State) (g : Group) (m : Team) (c : Copy), live s core slot g ∧
    g.copies.find? (fun c => c.id == n) = some c ∧ s.team? g.team = some m ∧ s.stoodForSave m = true ∧ c.out = none :=
  let g := { g0 with copies := [copy0] }
  ⟨0, 0, 7, withT (fun t => { t with saving := some 0#64 }) g, g, _, copy0, ⟨by decide +kernel, rfl⟩, by decide +kernel, rfl, by decide +kernel, rfl⟩

/-- Tiles 0 and 1 of the integer shape of `.i8`, 2 rows of 32 columns. -/
def gMma : Group := { g0 with tc := (g0.tc.set 0 ⟨2, 1#2, 32⟩).set 1 ⟨2, 1#2, 32⟩ }

/-- A scale block at window offset 0, all of whose parts lie at 0x100. -/
def sQuant : State := withT (fun t => { t with
  window := writeBytes [] 0 (leBytes 4 0x100 ++ leBytes 4 0x100 ++ leBytes 4 0x100 ++ leBytes 4 0x100) }) gMma

theorem witness_MatrixWords :
    (∃ (st : BitVec 3) (s : State) (g : Group) (x : Ctx) (d : BitVec 3) (a b : BitVec 6) (m : Team), Issues (.tld st d a b) s g x 0 0 ∧
      s.team? g.team = some m ∧ tldFault s g (wordOf (.tld st d a b)) (g.shape d.toNat) (x.s a) (x.s b) = none ∧
      g.orderHeld false = false ∧ s.tileHeld x.core x.slot d.toNat = false) ∧
    (∃ (st d : BitVec 3) (s : State) (g : Group) (x : Ctx), Issues (.tzero st d) s g x 0 0 ∧ s.tileHeld x.core x.slot d.toNat = false) ∧
    (∃ (st : BitVec 3) (pk : BitVec 2) (ty d a b : BitVec 3) (s : State) (g : Group) (x : Ctx), Issues (.mma st pk ty d a b) s g x 0 0 ∧
      mmaBad ty.toNat (g.shape a.toNat) (g.shape b.toNat) = false ∧ s.tileWritten x.core x.slot a.toNat = false ∧
      s.tileWritten x.core x.slot b.toNat = false ∧ (s.engine x.core).resetting = false ∧ (s.engine x.core).queue.length < 16) ∧
    (∃ (st : BitVec 3) (pk : BitVec 2) (ty d : BitVec 3) (q : BitVec 6) (a b : BitVec 3) (z : BitVec 2) (k : Quant) (s : State) (g : Group)
      (x : Ctx), Issues (.mmaq st pk ty d q a b z) s g x 0 0 ∧ mmaBad ty.toNat (g.shape a.toNat) (g.shape b.toNat) = false ∧
      mmaqCheck s g (wordOf (.mmaq st pk ty d q a b z)) (g.shape a.toNat) (g.shape b.toNat) (32 * 2 ^ z.toNat) (x.s q) = .ok k ∧
      g.orderHeld false = false ∧ s.tileWritten x.core x.slot a.toNat = false ∧ s.tileWritten x.core x.slot b.toNat = false ∧
      (s.engine x.core).resetting = false ∧ (s.engine x.core).queue.length < 16) ∧
    (∃ (st : BitVec 3) (pk : BitVec 2) (d : BitVec 3) (s : State) (g : Group) (x : Ctx), Issues (.accz st pk d) s g x 0 0 ∧ g.bind d.toNat = []) ∧
    (∃ (st : BitVec 3) (pk : BitVec 2) (d : BitVec 6) (a : BitVec 3) (b : BitVec 6) (s : State) (g : Group) (x : Ctx),
      Issues (.accrd st pk d a b) s g x 0 0 ∧ g.bind a.toNat = []) ∧
    ∃ (st : BitVec 3) (pk : BitVec 2) (d : BitVec 3) (a b : BitVec 6) (s : State) (g : Group) (x : Ctx),
      Issues (.accwr st pk d a b) s g x 0 0 ∧ g.bind d.toNat = [] ∧ swf (g.acc d.toNat) = true :=
  ⟨⟨0#3, withG g0, g0, ctx g0, 7#3, 1#6, 2#6, _, issues (by decide +kernel), rfl, by decide +kernel, by decide +kernel, by decide +kernel⟩,
    ⟨0#3, 7#3, withG g0, g0, ctx g0, issues (by decide +kernel), by decide +kernel⟩,
    ⟨0#3, 0#2, 2#3, 3#3, 0#3, 1#3, withG gMma, gMma, ctx gMma, issues (by decide +kernel), by decide +kernel, by decide +kernel, by decide +kernel,
      by decide +kernel, by decide +kernel⟩,
    ⟨0#3, 0#2, 2#3, 3#3, 1#6, 0#3, 1#3, 0#2, ⟨256, 256, 256, 256⟩, sQuant, gMma, ctx gMma, issues (by decide +kernel), by decide +kernel,
      by decide +kernel, by decide +kernel, by decide +kernel, by decide +kernel, by decide +kernel, by decide +kernel⟩,
    ⟨0#3, 0#2, 7#3, withG g0, g0, ctx g0, issues (by decide +kernel), by decide +kernel⟩,
    ⟨0#3, 0#2, 5#6, 7#3, 1#6, withG g0, g0, ctx g0, issues (by decide +kernel), by decide +kernel⟩,
    0#3, 0#2, 7#3, 5#6, 1#6, withG g0, g0, ctx g0, issues (by decide +kernel), by decide +kernel, by decide +kernel⟩

/-- An open session of partitions 0 and 1, the pair of group 0 of team 0, and a launch of it. -/
def sess (s : State) : State :=
  { s with
    launches := s.launches.map fun l => { l with record := { l.record with sess := true, sid := 3 } }
    sessions := [⟨1, 3, some 0, some 1, 0#64, 8, 1, true, false, (0x10000#64, 4), (0#64, 0)⟩]
    pairs := [⟨3, 0, 0, [], [], [], [], 0, 0, [], [], none, none, false, false, false, false⟩] }

/-- A group of it. -/
def gGate : Group := { g0 with sessValid := true }

/-- The same with the marks of a triple at v8 and at t0: its values FRESH, its slots `slots`. -/
def gTriple (slots : Word → Mark) : Group :=
  { gGate with
    vmarks := ((((gGate.vmarks.set 8 (.fresh 7#64)).set 9 (.fresh 7#64)).set 10 (.fresh 7#64)).set 11 (slots 7#64)).set 12 (slots 7#64)
    tmarks := ((((gGate.tmarks.set 0 (.fresh 7#64)).set 1 (.fresh 7#64)).set 2 (.fresh 7#64)).set 3 (slots 7#64)).set 4 (slots 7#64) }

/-- A triple is drawn, and shares are masked and opened. -/
theorem witness_GateWords_gtrip : ∃ (s : State) (g : Group) (x : Ctx) (i : Instr) (w : GateOp × Nat × Bool × Nat × Nat × List Nat × Nat),
    s.gateClosed g = none ∧ g.gates.length < 16 ∧ gateOf x s i = some w ∧ Issues i s g x 0 w.2.2.2.2.2.2 ∧ gateMarks g i ∧
    w.2.2.1 = true ∧ g.orderHeld false = false ∧ ∀ j ∈ w.2.2.2.2.2.1, s.tileHeld x.core x.slot j = false :=
  ⟨sess (withG gGate), gGate, ctx gGate, .gtrip 0#3 8#6 0#2, _, by decide +kernel, by decide, rfl, issues (by decide +kernel), trivial, rfl,
    by decide +kernel, by decide +kernel⟩

theorem witness_GateWords_gopen : ∃ (s : State) (g : Group) (x : Ctx) (i : Instr) (w : GateOp × Nat × Bool × Nat × Nat × List Nat × Nat),
    s.gateClosed g = none ∧ g.gates.length < 16 ∧ gateOf x s i = some w ∧ Issues i s g x 0 w.2.2.2.2.2.2 ∧ gateMarks g i ∧
    w.2.2.1 = false ∧ ∀ j ∈ w.2.2.2.2.2.1, s.tileHeld x.core x.slot j = false :=
  ⟨sess (withG (gTriple .posted)), gTriple .posted, ctx (gTriple .posted), .gopen 0#3 8#6 0#2, _, by decide +kernel, by decide, rfl,
    issues (by decide +kernel), ⟨7#64, by decide +kernel⟩, rfl, by decide +kernel⟩

theorem witness_GateWords_gmask : ∃ (s : State) (g : Group) (x : Ctx) (st : BitVec 3) (d a b : BitVec 6),
    s.gateClosed g = none ∧ g.gates.length < 16 ∧ Issues (.gmask st d a b 0#2) s g x 0 0 ∧ gateMarks g (.gmask st d a b 0#2) ∧
    ∀ r, r = a ∨ r = b ∨ r = d ∨ r = d + 1#6 → unraced g x.fid r := by
  refine ⟨sess (withG (gTriple .slot)), gTriple .slot, ctx (gTriple .slot), 0#3, 8#6, 1#6, 2#6, by decide +kernel, by decide,
    issues (by decide +kernel), ⟨7#64, by decide +kernel, by decide +kernel⟩, fun r _ => ⟨(fun _ h => nomatch h), fun j hj _ p hp => ?_,
      (fun _ h => nomatch h), (fun _ h => nomatch h)⟩⟩
  have h : ∀ j, j < 4 → ((gTriple .slot).frag j).pend = [] := by decide +kernel
  rw [h j hj] at hp
  cases hp

theorem witness_GateWords_gfin : ∃ (s : State) (g : Group) (x : Ctx) (st : BitVec 3) (d a : BitVec 6) (t : BitVec 2),
    s.gateClosed g = none ∧ g.gates.length < 16 ∧ Issues (.gfin st d a t) s g x 0 0 ∧ gateMarks g (.gfin st d a t) :=
  ⟨sess (withG (gTriple .opened)), gTriple .opened, ctx (gTriple .opened), 0#3, 20#6, 8#6, 0#2, by decide +kernel, by decide,
    issues (by decide +kernel), 7#64, by decide +kernel, by decide +kernel⟩

theorem witness_GateWords_gtrunc : ∃ (s : State) (g : Group) (x : Ctx) (st : BitVec 3) (d a f : BitVec 6),
    s.gateClosed g = none ∧ g.gates.length < 16 ∧ Issues (.gtrunc st d a f) s g x 0 0 ∧ f = 31#6 :=
  ⟨sess (withG gGate), gGate, ctx gGate, 0#3, 5#6, 6#6, 31#6, by decide +kernel, by decide, issues (by decide +kernel), rfl⟩

theorem witness_GateWords_tiles :
    (∃ (s : State) (g : Group) (x : Ctx) (st d a b : BitVec 3), s.gateClosed g = none ∧ g.gates.length < 16 ∧
      Issues (.gmaskt st d a b) s g x 0 0 ∧ gateMarks g (.gmaskt st d a b) ∧ s.tileHeld x.core x.slot (d.toNat + 3) = false ∧
      s.tileHeld x.core x.slot (d.toNat + 4) = false ∧
      ∀ n ∈ [a.toNat, b.toNat, d.toNat, d.toNat + 1], s.tileWritten x.core x.slot n = false) ∧
    ∃ (s : State) (g : Group) (x : Ctx) (st d : BitVec 3), s.gateClosed g = none ∧ g.gates.length < 16 ∧ Issues (.gopent st d) s g x 0 0 ∧
      gateMarks g (.gopent st d) ∧ s.tileHeld x.core x.slot (d.toNat + 3) = false ∧ s.tileHeld x.core x.slot (d.toNat + 4) = false :=
  ⟨⟨sess (withG (gTriple .slot)), gTriple .slot, ctx (gTriple .slot), 0#3, 0#3, 6#3, 7#3, by decide +kernel, by decide,
      issues (by decide +kernel), ⟨⟨7#64, by decide +kernel, by decide +kernel⟩, by decide +kernel, by decide +kernel⟩, by decide +kernel,
      by decide +kernel, by decide +kernel⟩,
    sess (withG (gTriple .posted)), gTriple .posted, ctx (gTriple .posted), 0#3, 0#3, by decide +kernel, by decide,
      issues (by decide +kernel), ⟨7#64, by decide +kernel⟩, by decide +kernel, by decide +kernel⟩

/-- A request for an OPEN with partition 1, at 0x10100. -/
def sSess : State :=
  { withG (sregs [(1#6, 0x10100#64)] g0) with mem := writeBytes base.mem 0x50100 (leBytes 8 0x08010001 ++ leBytes 8 5) }

theorem witness_SessionRequests : ∃ (st : BitVec 3) (d a : BitVec 6) (s : State) (g : Group) (x : Ctx) (p : Plan) (u : State) (l : LaneAcc)
    (r : SessReq), Issues (.gsess st d a) s g x 0 0 ∧ g.orderHeld false = false ∧ x.plan s (x.sessSpec (.gsess st d a) d a) = (p, u) ∧
    p.fault = none ∧ p.page = none ∧ p.lanes = [l] ∧ l.st = .waiting ∧ l.ext = false ∧
    x.behindWrite s (x.sessSpec (.gsess st d a) d a) = false ∧
    x.noEntry s (x.sessSpec (.gsess st d a) d a) p.lanes = false ∧ sessReq g.part (readAt s.mem l.pas) = some r ∧ r.op = 1 :=
  let g := sregs [(1#6, 0x10100#64)] g0
  let x := ctx g
  let p := (x.plan sSess (x.sessSpec (.gsess 0#3 5#6 1#6) 5#6 1#6)).1
  let l := p.lanes.headD ⟨0, 0#64, [], [], false, 0#64, 0#64, 0#64, .waiting, false⟩
  ⟨0#3, 5#6, 1#6, sSess, g, x, p, (x.plan sSess (x.sessSpec (.gsess 0#3 5#6 1#6) 5#6 1#6)).2, l, ⟨1, 0, 1, 8, 0, 5#64, 0#64, 0, 0⟩,
    issues (by decide +kernel), by decide +kernel, rfl, by decide +kernel, by decide +kernel, by decide +kernel, by decide +kernel,
    by decide +kernel, by decide +kernel, by decide +kernel, by decide +kernel, rfl⟩

/-- The same, of a block on a page that the tables map. -/
theorem witness_SessionRequests_completes : ∃ (st : BitVec 3) (d a : BitVec 6) (s u : State) (g : Group) (x : Ctx) (pa e : Nat) (r : SessReq),
    Issues (.gsess st d a) s g x 0 0 ∧ g.reqs = [] ∧ g.drain = none ∧ (x.s a).toNat % 64 = 0 ∧ (x.s a).toNat / 2 ^ 55 % 2 ^ 5 = 0 ∧
    Machine.translate s g.part (.ofCore x.core) ((x.s a).toNat % 2 ^ 55) = (.ok pa e, u) ∧ natBit e 6 = false ∧ natBit e 4 = false ∧
    (∀ n, n < 64 → poisoned s (pa + n) = false) ∧ sessReq g.part (readBytes s.mem pa 64) = some r ∧ r.op = 1 :=
  let g := sregs [(1#6, 0x10100#64)] g0
  ⟨0#3, 5#6, 1#6, sSess, _, g, ctx g, 0x50100, 0x5000D, ⟨1, 0, 1, 8, 0, 5#64, 0#64, 0, 0⟩, issues (by decide +kernel), rfl, rfl, by decide +kernel,
    by decide +kernel, pair_of_fst (by decide +kernel), by decide, by decide, by decide +kernel, by decide +kernel, rfl⟩

/-- Session `n` with the request's partitions, of the nonce, opened or not. -/
def session0 (n : Nat) (part0 part1 : Option Nat) (peer : Nat) (nonce : Word) (opened : Bool) : Session :=
  ⟨peer, n, part0, part1, nonce, 8, 0, opened, false, (0#64, 0), (0#64, 0)⟩

/-- The request, or a revocation of session 3. -/
def sessAsk (revokes : Bool) : SessReq := if revokes then ⟨2, 0, 0, 0, 0, 0#64, 0#64, 0, 3⟩ else ⟨1, 0, 1, 8, 0, 5#64, 0#64, 0, 0⟩

/-- The request with those sessions. -/
def sSessions (revokes : Bool) (ss : List Session) : State :=
  { withG (sregs [(1#6, 0x10100#64)] g0) with
    sessions := ss
    mem := if revokes then writeBytes base.mem 0x50100 (leBytes 8 2 ++ List.replicate 24 0#8 ++ [3#8]) else sSess.mem }

/-- A request that is waiting, one that is matched, one that the peer's agrees with or disagrees with, one when no SID is free, and one for
the lowest free SID. -/
theorem witness_SessionRequests_cases : ∀ ss ∈ [[session0 3 (some 0) none 1 5#64 false], [session0 3 (some 0) (some 1) 1 5#64 true],
      [session0 3 none (some 1) 0 5#64 false], [session0 3 none (some 1) 0 6#64 false],
      (List.range 32).map fun n => session0 n (some 2) (some 3) 3 5#64 true, [session0 0 (some 2) (some 3) 3 5#64 true]],
    ∃ (st : BitVec 3) (d a : BitVec 6) (u : State) (g : Group) (x : Ctx) (pa e : Nat),
    let s := sSessions false ss
    Issues (.gsess st d a) s g x 0 0 ∧ g.reqs = [] ∧ g.drain = none ∧ (x.s a).toNat % 64 = 0 ∧ (x.s a).toNat / 2 ^ 55 % 2 ^ 5 = 0 ∧
    Machine.translate s g.part (.ofCore x.core) ((x.s a).toNat % 2 ^ 55) = (.ok pa e, u) ∧ natBit e 6 = false ∧ natBit e 4 = false ∧
    (∀ n, n < 64 → poisoned s (pa + n) = false) ∧ sessReq g.part (readBytes s.mem pa 64) = some (sessAsk false) := by
  let g := sregs [(1#6, 0x10100#64)] g0
  intro ss h
  simp only [List.mem_cons, List.not_mem_nil, or_false] at h
  rcases h with rfl | rfl | rfl | rfl | rfl | rfl <;>
    exact ⟨0#3, 5#6, 1#6, _, g, ctx g, 0x50100, 0x5000D, issues (by decide +kernel), rfl, rfl, by decide +kernel,
      by decide +kernel, pair_of_fst (by decide +kernel), by decide, by decide, by decide +kernel, by decide +kernel⟩

/-- They meet the cases of `answered`, in that order. -/
theorem witness_SessionRequests_answers :
    (∃ y ∈ [session0 3 (some 0) none 1 5#64 false], y.opened = false ∧ y.part0.or y.part1 = some 0 ∧ y.peer = (sessAsk false).peer) ∧
    (∃ y ∈ [session0 3 (some 0) (some 1) 1 5#64 true], y.opened = true ∧ y.revoked = false ∧ y.part0 = some 0 ∧
      y.part1 = some (sessAsk false).peer ∧ y.nonce = (sessAsk false).nonce ∧ y.frac = (sessAsk false).frac ∧ y.reveal = (sessAsk false).reveal) ∧
    (∀ ok : Bool, ∃ y ∈ [session0 3 none (some 1) 0 (if ok then 5#64 else 6#64) false], y.opened = false ∧
      y.part0.or y.part1 = some (sessAsk false).peer ∧ y.peer = 0 ∧ (decide (y.nonce = (sessAsk false).nonce) = ok)) ∧
    (∀ n, n < 32 → ∃ z ∈ (List.range 32).map fun n => session0 n (some 2) (some 3) 3 5#64 true, z.sid = n) ∧
    ((∀ z ∈ [session0 0 (some 2) (some 3) 3 5#64 true], z.sid ≠ 1) ∧ ∀ k, k < 1 → ∃ z ∈ [session0 0 (some 2) (some 3) 3 5#64 true], z.sid = k) := by
  decide +kernel

/-- A revocation of an open session of the partition, and of a SID that names none. -/
theorem witness_SessionRequests_revokes : ∀ open' : Bool, ∃ (st : BitVec 3) (d a : BitVec 6) (s u : State) (g : Group) (x : Ctx) (pa e : Nat)
    (r : SessReq), Issues (.gsess st d a) s g x 0 0 ∧ g.reqs = [] ∧ g.drain = none ∧ (x.s a).toNat % 64 = 0 ∧ (x.s a).toNat / 2 ^ 55 % 2 ^ 5 = 0 ∧
    Machine.translate s g.part (.ofCore x.core) ((x.s a).toNat % 2 ^ 55) = (.ok pa e, u) ∧ natBit e 6 = false ∧ natBit e 4 = false ∧
    (∀ n, n < 64 → poisoned s (pa + n) = false) ∧ sessReq g.part (readBytes s.mem pa 64) = some r ∧ r.op = 2 ∧
    (if open' then ∃ y ∈ s.sessions, y.sid = r.sid ∧ y.opened = true ∧ y.revoked = false ∧ y.part0 = some g.part
      else ∀ y ∈ s.sessions, y.sid ≠ r.sid) := by
  let g := sregs [(1#6, 0x10100#64)] g0
  intro o
  cases o
  · exact ⟨0#3, 5#6, 1#6, sSessions true [], _, g, ctx g, 0x50100, 0x5000D, sessAsk true, issues (by decide +kernel), rfl, rfl, by decide +kernel,
      by decide +kernel, pair_of_fst (by decide +kernel), by decide, by decide, by decide +kernel, by decide +kernel, rfl, by decide +kernel⟩
  · exact ⟨0#3, 5#6, 1#6, sSessions true [session0 3 (some 0) (some 1) 1 5#64 true], _, g, ctx g, 0x50100, 0x5000D, sessAsk true,
      issues (by decide +kernel), rfl, rfl, by decide +kernel, by decide +kernel, pair_of_fst (by decide +kernel), by decide, by decide,
      by decide +kernel, by decide +kernel, rfl, by decide +kernel⟩

/-- The smallest launch record: a grid of 1, a group of 16 registers, a granule, reserves of 16. -/
def recordMem : SMap 8 := writeBytes (writeBytes base.mem 0x50128 [1#8, 0#8, 1#8, 0#8, 1#8, 0#8, 0#8, 16#8, 1#8]) 0x50150 [16#8, 0#8, 16#8, 0#8]

/-- 0x10100 in s1. -/
def gArg : Group := sregs [(1#6, 0x10100#64)] g0

/-- The record at 0x10100, `full` device queue or not. -/
def sRecord (full : Bool) : State :=
  { withG gArg with
    mem := recordMem
    parts := [{ loadedPartition with devQ := if full then List.replicate 64 (roomyRecord, 0) else [] }] }

/-- The bytes of the argument. -/
def argBytes (s : State) (n : Nat) : List Byte := readAt s.mem ((List.range n).map (0x50100 + ·))

/-- A group that names the record, with an older store that is not performed; it has paid for the word, or has not. -/
def gWaits (paid : Bool) : Group :=
  onF (fun f => { f with paid := if paid then some (1, 8, readAt recordMem ((List.range 256).map (0x50100 + ·))) else none })
    { gArg with reqs := [⟨3, .store, 4, false, 5, [⟨0, 0x10000#64, [0x50000, 0x50001, 0x50002, 0x50003], [], false, 7#64, 0#64, 0#64, .waiting, false⟩],
      false, 0, BitVec.allOnes 64, 0#64, none, 0, (0, 0)⟩] }

/-- The machine with it. -/
def sWaits (paid : Bool) : State := { withG (gWaits paid) with mem := recordMem }

/-- A record of zeros; a valid one that waits, paid or not; a valid one; a valid one before a full queue. -/
theorem witness_DispatcherWords_launch :
    (∃ (st : BitVec 3) (d a : BitVec 6) (s : State) (g : Group) (x : Ctx) (bs : List Byte) (n : Nat) (u : State), g.orderHeld false = false ∧
      stageRoom x s g [] 1 ∧ s.isDet g = false ∧ (x.s a).toNat % 8 = 0 ∧ x.readGlobal s (x.s a) 256 = (.ok bs n, u) ∧ s.recordOk g.part bs = false ∧
      (g.frag x.fid).paid.isSome = false ∧ Issues (.launch st d a) s g x 0 n) ∧
    (∀ paid : Bool, ∃ (st : BitVec 3) (d a : BitVec 6) (s : State) (g : Group) (x : Ctx) (bs : List Byte) (n : Nat) (u : State),
      g.orderHeld false = false ∧ stageRoom x s g [] 1 ∧ s.isDet g = false ∧ (x.s a).toNat % 8 = 0 ∧ x.readGlobal s (x.s a) 256 = (.ok bs n, u) ∧
      (g.frag x.fid).paid.isSome = paid ∧ ((g.frag x.fid).paid.isSome || s.recordOk g.part bs) = true ∧ g.quiet = false ∧
      Issues (.launch st d a) s g x (readRecord bs).grant.1 (n + (readRecord bs).grant.2)) ∧
    ∀ full : Bool, ∃ (st : BitVec 3) (d a : BitVec 6) (s : State) (g : Group) (x : Ctx) (bs : List Byte) (n : Nat) (u : State) (p : Partition),
      g.orderHeld false = false ∧ stageRoom x s g [] 1 ∧ s.isDet g = false ∧ (x.s a).toNat % 8 = 0 ∧ x.readGlobal s (x.s a) 256 = (.ok bs n, u) ∧
      s.recordOk g.part bs = true ∧ g.quiet = true ∧ s.part? g.part = some p ∧
      Issues (.launch st d a) s g x (readRecord bs).grant.1 (n + (readRecord bs).grant.2) ∧
      if full then 64 ≤ p.devQ.length else p.devQ.length < 64 := by
  refine ⟨⟨0#3, 5#6, 1#6, withG gArg, gArg, ctx gArg, argBytes (withG gArg) 256, 8, _, by decide +kernel, room_free (by decide +kernel), by decide +kernel, by decide +kernel,
    pair_of_fst (by decide +kernel), by decide +kernel, rfl, issues (by decide +kernel)⟩, fun paid => ?_, fun full => ?_⟩
  · cases paid
    · exact ⟨0#3, 5#6, 1#6, sWaits false, gWaits false, ctx (gWaits false), argBytes (sWaits false) 256, 8, _, by decide +kernel, room_free (by decide +kernel), by decide +kernel,
        by decide +kernel, pair_of_fst (by decide +kernel), rfl, by decide +kernel, by decide +kernel, issues (by decide +kernel)⟩
    · exact ⟨0#3, 5#6, 1#6, sWaits true, gWaits true, ctx (gWaits true), argBytes (sWaits true) 256, 0, _, by decide +kernel, room_free (by decide +kernel), by decide +kernel,
        by decide +kernel, pair_of_fst (by decide +kernel), rfl, by decide +kernel, by decide +kernel, issues (by decide +kernel)⟩
  cases full
  · exact ⟨0#3, 5#6, 1#6, sRecord false, gArg, ctx gArg, argBytes (sRecord false) 256, 8, _, _, by decide +kernel, room_free (by decide +kernel), by decide +kernel,
      by decide +kernel, pair_of_fst (by decide +kernel), by decide +kernel, by decide +kernel, rfl, issues (by decide +kernel),
      by decide +kernel⟩
  · exact ⟨0#3, 5#6, 1#6, sRecord true, gArg, ctx gArg, argBytes (sRecord true) 256, 8, _, _, by decide +kernel, room_free (by decide +kernel), by decide +kernel,
      by decide +kernel, pair_of_fst (by decide +kernel), by decide +kernel, by decide +kernel, rfl, issues (by decide +kernel),
      by decide +kernel⟩

/-- The cutting of a block of zeros: entry 0, no grant. -/
def cut0 : Cutting := ⟨0, false, 0, 0, List.replicate 12 0#32⟩

/-- A cutting that waits as a release. -/
theorem witness_DispatcherWords_waits : ∃ (st : BitVec 3) (d a b : BitVec 6) (s : State) (g : Group) (x : Ctx) (bs : List Byte)
    (n : Nat) (u : State) (c : Cutting), g.orderHeld false = false ∧ stageRoom x s g [] 1 ∧ s.isDet g = false ∧ g.quiet = false ∧ (x.s a).toNat < 16 ∧
    x.cuttingWaits (x.s b) = false ∧ x.readCutting s (x.s b) = (.ok bs n, u) ∧ (s.recordOf g).bind (fun r => cuttingOf r bs none) = some c ∧
    (s.recordOf g).bind (fun r => cuttingOf r bs (some ((x.s a).toNat % 16))) = some c ∧
    Issues (.emit st d b) s g x c.igrant (n + c.mgrant) ∧ Issues (.spawn st d a b) s g x c.igrant (n + c.mgrant) :=
  let s := withG (gWaits false)
  ⟨0#3, 5#6, 2#6, 1#6, s, gWaits false, ctx (gWaits false), argBytes s 64, 2, _, cut0, by decide +kernel, room_free (by decide +kernel), by decide +kernel, by decide +kernel,
    by decide +kernel, by decide +kernel, pair_of_fst (by decide +kernel), by decide +kernel, by decide +kernel, issues (by decide +kernel), issues (by decide +kernel)⟩

/-- A nursery that holds 4,096 cuttings, and a core that holds all the teams it can. -/
def sFull : State :=
  { withG gArg with bins := [⟨0, 5, 1, List.replicate 4096 cut0, 0⟩], teams := List.replicate 64 (base.teams.headD default') }
where
  default' : Team := ⟨⟨0, 0, false⟩, 0, 0, 0, 1, 1, 0, 65536, [], [], 0, 0, 0, 16, false, false, none, none, false⟩

theorem witness_DispatcherWords_cuttings : ∀ full, ∃ (st : BitVec 3) (d a b : BitVec 6) (s : State) (g : Group) (x : Ctx) (bs : List Byte)
    (n : Nat) (u : State) (c : Cutting), g.orderHeld false = false ∧ stageRoom x s g [] 1 ∧ s.isDet g = false ∧ g.quiet = true ∧ (x.s a).toNat < 16 ∧
    x.cuttingWaits (x.s b) = false ∧ x.readCutting s (x.s b) = (.ok bs n, u) ∧ (s.recordOf g).bind (fun r => cuttingOf r bs none) = some c ∧
    (s.recordOf g).bind (fun r => cuttingOf r bs (some ((x.s a).toNat % 16))) = some c ∧
    Issues (.emit st d b) s g x c.igrant (n + c.mgrant) ∧ Issues (.spawn st d a b) s g x c.igrant (n + c.mgrant) ∧
    s.nurseryRoom (dieOf x.core) g.team.uid c = (!full) ∧ ((s.recordOf g).elim false fun r => s.spawnRoom x.core r) = (!full) := by
  intro full
  cases full
  · exact ⟨0#3, 5#6, 2#6, 1#6, withG gArg, gArg, ctx gArg, argBytes (withG gArg) 64, 2, _, cut0, by decide +kernel, room_free (by decide +kernel), by decide +kernel,
      by decide +kernel, by decide +kernel, by decide +kernel, pair_of_fst (by decide +kernel), by decide +kernel, by decide +kernel,
      issues (by decide +kernel), issues (by decide +kernel), by decide +kernel, by decide +kernel⟩
  · exact ⟨0#3, 5#6, 2#6, 1#6, sFull, gArg, ctx gArg, argBytes sFull 64, 2, _, cut0, by decide +kernel, room_free (by decide +kernel), by decide +kernel,
      by decide +kernel, by decide +kernel, by decide +kernel, pair_of_fst (by decide +kernel), by decide +kernel, by decide +kernel,
      issues (by decide +kernel), issues (by decide +kernel), by decide +kernel, by decide +kernel⟩

/-- A bin of the nursery that the cutting fills. -/
theorem witness_DispatcherWords_bin : ∃ (st : BitVec 3) (d a : BitVec 6) (s : State) (g : Group) (x : Ctx) (bs : List Byte)
    (n : Nat) (u : State) (c : Cutting) (l : Launch), g.orderHeld false = false ∧ stageRoom x s g [] 1 ∧ s.isDet g = false ∧ g.quiet = true ∧
    x.cuttingWaits (x.s a) = false ∧ x.readCutting s (x.s a) = (.ok bs n, u) ∧ (s.recordOf g).bind (fun r => cuttingOf r bs none) = some c ∧
    Issues (.emit st d a) s g x c.igrant (n + c.mgrant) ∧ s.nurseryRoom (dieOf x.core) g.team.uid c = true ∧ s.launch? g.team.uid = some l ∧
    63 ≤ ((s.bins.find? fun b => b.die == dieOf x.core && b.uid == g.team.uid && b.entry == c.ent).elim [] (·.cuts)).length :=
  let s : State := { withG gArg with bins := [⟨0, 0, 0, List.replicate 63 cut0, 0⟩] }
  ⟨0#3, 5#6, 1#6, s, gArg, ctx gArg, argBytes s 64, 2, _, cut0, _, by decide +kernel, room_free (by decide +kernel), by decide +kernel,
    by decide +kernel, by decide +kernel, pair_of_fst (by decide +kernel), by decide +kernel, issues (by decide +kernel), by decide +kernel, rfl,
    by decide +kernel⟩

/-- The words of a deterministic launch, of a record, and of a cutting. -/
theorem witness_DispatcherWords_det :
    (∃ (st : BitVec 3) (d a : BitVec 6) (s : State) (g : Group) (x : Ctx) (bs : List Byte) (n : Nat) (u : State),
      g.orderHeld false = false ∧ stageRoom x s g [] 1 ∧ s.isDet g = true ∧ (x.s a).toNat % 8 = 0 ∧
      x.readGlobal s (x.s a) 256 = (.ok bs n, u) ∧ s.recordOk g.part bs = true ∧ g.quiet = true ∧
      Issues (.launch st d a) s g x (readRecord bs).grant.1 (n + (readRecord bs).grant.2)) ∧
    ∃ (st : BitVec 3) (d a b : BitVec 6) (s : State) (g : Group) (x : Ctx) (bs : List Byte) (n : Nat) (u : State) (c : Cutting) (l : Launch),
      g.orderHeld false = false ∧ stageRoom x s g [] 1 ∧ s.isDet g = true ∧ g.quiet = true ∧ (x.s a).toNat < 16 ∧ x.s b ≠ 0#64 ∧
      x.cuttingWaits (x.s b) = false ∧ x.readCutting s (x.s b) = (.ok bs n, u) ∧ (s.recordOf g).bind (fun r => cuttingOf r bs none) = some c ∧
      (s.recordOf g).bind (fun r => cuttingOf r bs (some ((x.s a).toNat % 16))) = some c ∧ s.launch? g.team.uid = some l ∧
      Issues (.emit st d b) s g x c.igrant (n + c.mgrant) ∧ Issues (.spawn st d a b) s g x c.igrant (n + c.mgrant) ∧
      Issues (.yield st b) s g x 0 n :=
  ⟨⟨0#3, 5#6, 1#6, det (sRecord false), gArg, ctx gArg, argBytes (sRecord false) 256, 8, _, by decide +kernel, fun _ => .inl (by decide +kernel),
      by decide +kernel, by decide +kernel, pair_of_fst (by decide +kernel), by decide +kernel, by decide +kernel, issues (by decide +kernel)⟩,
    0#3, 5#6, 2#6, 1#6, det (withG gArg), gArg, ctx gArg, argBytes (withG gArg) 64, 2, _, cut0, _, by decide +kernel,
    fun _ => .inl (by decide +kernel), by decide +kernel, by decide +kernel, by decide +kernel, by decide +kernel, by decide +kernel,
    pair_of_fst (by decide +kernel), by decide +kernel, by decide +kernel, rfl, issues (by decide +kernel), issues (by decide +kernel),
    issues (by decide +kernel)⟩

/-- A `yield` whose cutting finds its nursery full and goes to a group of its own. -/
theorem witness_DispatcherWords_yield_spawns : ∃ (st : BitVec 3) (a : BitVec 6) (s : State) (g : Group) (x : Ctx) (bs : List Byte) (n : Nat)
    (u : State) (c : Cutting), g.orderHeld false = false ∧ stageRoom x s g [] 1 ∧ s.isDet g = false ∧ x.s a ≠ 0#64 ∧ g.quiet = true ∧
    x.cuttingWaits (x.s a) = false ∧ x.readCutting s (x.s a) = (.ok bs n, u) ∧ (s.recordOf g).bind (fun r => cuttingOf r bs none) = some c ∧
    s.yieldRoom x.core g.team.uid c = true ∧ s.nurseryRoom (dieOf x.core) g.team.uid c = false ∧ Issues (.yield st a) s g x 0 n :=
  let s := { withG gArg with bins := sFull.bins }
  ⟨0#3, 1#6, s, gArg, ctx gArg, argBytes s 64, 2, _, cut0, by decide +kernel, room_free (by decide +kernel), by decide +kernel, by decide +kernel,
    by decide +kernel, by decide +kernel, pair_of_fst (by decide +kernel), by decide +kernel, by decide +kernel, by decide +kernel,
    issues (by decide +kernel)⟩

theorem witness_DispatcherWords_yield :
    (∃ (st : BitVec 3) (a : BitVec 6) (s : State) (g : Group) (x : Ctx), g.orderHeld false = false ∧ stageRoom x s g [] 1 ∧ s.isDet g = false ∧ x.s a = 0#64 ∧
      Issues (.yield st a) s g x 0 0) ∧
    ∃ (st : BitVec 3) (a : BitVec 6) (s : State) (g : Group) (x : Ctx) (bs : List Byte) (n : Nat) (u : State) (c : Cutting),
      g.orderHeld false = false ∧ stageRoom x s g [] 1 ∧ s.isDet g = false ∧ x.s a ≠ 0#64 ∧ g.quiet = true ∧ x.cuttingWaits (x.s a) = false ∧ x.readCutting s (x.s a) = (.ok bs n, u) ∧
      (s.recordOf g).bind (fun r => cuttingOf r bs none) = some c ∧ s.yieldRoom x.core g.team.uid c = true ∧ Issues (.yield st a) s g x 0 n :=
  ⟨⟨0#3, 1#6, withG g0, g0, ctx g0, by decide +kernel, room_free (by decide +kernel), by decide +kernel, by decide +kernel, issues (by decide +kernel)⟩,
    0#3, 1#6, withG gArg, gArg, ctx gArg, argBytes (withG gArg) 64, 2, _, cut0, by decide +kernel, room_free (by decide +kernel), by decide +kernel, by decide +kernel,
    by decide +kernel, by decide +kernel, pair_of_fst (by decide +kernel), by decide +kernel, by decide +kernel, issues (by decide +kernel)⟩

/-- A descriptor of the whole partition in s1, and a good address in s2. -/
def gSys (a : Word) : Group := sregs [(1#6, a), (2#6, 0x10000#64)] g0

/-- A second group, of another team, in slot 1, that a trap has stopped. -/
def gOther : Group := { g0 with slot := 1, team := ⟨0, 1, false⟩, stopped := some 0 }

/-- A machine with it. -/
def sTwo (g : Group) : State :=
  { withG g with groups := [g, gOther], teams := base.teams ++ base.teams.map fun t => { t with key := ⟨0, 1, false⟩ } }

theorem witness_SystemWords_tlb :
    (∃ (st : BitVec 3) (a : BitVec 6) (s : State) (g : Group) (x : Ctx) (p : Partition), s.part? g.part = some p ∧
      Issues (.tlbdrain st a) s g x 0 0 ∧ drainBad (x.s a) = false ∧ g.quiet = true ∧ p.drains.length < 16) ∧
    ∀ b, ∃ (st : BitVec 3) (d a : BitVec 6) (s : State) (g : Group) (x : Ctx) (p : Partition), s.part? g.part = some p ∧
      Issues (.tlbconf st d a) s g x 0 0 ∧ drainBad (x.s a) = false ∧ g.drain = none ∧ p.drains.contains (x.s a) = b := by
  let s : State := { withG (gSys 0#64) with parts := [{ loadedPartition with drains := [0#64] }] }
  refine ⟨⟨0#3, 1#6, withG (gSys 0#64), gSys 0#64, ctx (gSys 0#64), _, rfl, issues (by decide +kernel), by decide +kernel, by decide +kernel,
    by decide +kernel⟩, fun b => ?_⟩
  cases b
  · exact ⟨0#3, 5#6, 1#6, withG (gSys 0#64), gSys 0#64, ctx (gSys 0#64), _, rfl, issues (by decide +kernel), by decide +kernel, by decide +kernel,
      by decide +kernel⟩
  · exact ⟨0#3, 5#6, 1#6, s, gSys 0#64, ctx (gSys 0#64), _, rfl, issues (by decide +kernel), by decide +kernel, by decide +kernel,
      by decide +kernel⟩

theorem witness_SystemWords_contexts :
    (∃ (st : BitVec 3) (a b : BitVec 6) (s : State) (g : Group) (x : Ctx) (k : TeamKey), (s.part? g.part).isSome = true ∧
      Issues (.ctxsv st a b) s g x 0 0 ∧ x.saveStage s (wordOf (.ctxsv st a b)) (x.s a) (x.s b) = .ask k ∧
      (s.team? k).any (fun m => m.saving.isNone && decide (m.shape ≤ 1)) = true ∧ (s.launch? k.uid).isSome = true) ∧
    (∃ (st : BitVec 3) (a b : BitVec 6) (s : State) (g : Group) (x : Ctx), (s.part? g.part).isSome = true ∧
      Issues (.ctxsv st a b) s g x 0 0 ∧ x.saveStage s (wordOf (.ctxsv st a b)) (x.s a) (x.s b) = .done) ∧
    ∃ (st : BitVec 3) (a b : BitVec 6) (s : State) (g : Group) (x : Ctx) (y : Group) (f : Nat), (s.part? g.part).isSome = true ∧
      Issues (.ctxld st a b) s g x 0 0 ∧ (x.s a).toNat / 2 ^ 62 = 1 ∧ s.handleGroup g.part (x.s a) = some y ∧ y.stopped = some f ∧
      ¬(y.core = x.core ∧ y.slot = x.slot) ∧ goodTarget (x.s b) :=
  let g1 := { gSys 1#64 with saves := [⟨0, (ctx (gSys 1#64)).unit, 1#64, 0x10000#64, ⟨0, 1, false⟩, none⟩] }
  let g2 := gSys 0x4000000000000001#64
  ⟨⟨0#3, 1#6, 2#6, sTwo (gSys 1#64), gSys 1#64, ctx (gSys 1#64), ⟨0, 1, false⟩, by decide +kernel, issues (by decide +kernel), by decide +kernel,
      by decide +kernel, by decide +kernel⟩,
    ⟨0#3, 1#6, 2#6, sTwo g1, g1, ctx g1, by decide +kernel, issues (by decide +kernel), by decide +kernel⟩,
    0#3, 1#6, 2#6, sTwo g2, g2, ctx g2, _, 0, by decide +kernel, issues (by decide +kernel), by decide +kernel,
    some_getD gOther (by decide +kernel), by decide +kernel, by decide +kernel, by unfold goodTarget; decide +kernel⟩

/-- A team of the launch that waits for room. -/
def waits : Waiting := ⟨⟨0, 1, false⟩, [], 0, false, false, none, none, none, false⟩

/-- The machine at a clock. -/
def atClock (g : Group) (n : Nat) : State := { withG g with clock := n }

theorem witness_Preemptions_slice :
    let g := { g0 with sliceAt := 5 }
    let s := { atClock g 5 with launches := base.launches.map fun l => { l with waiting := [waits] } }
    live s 0 0 g ∧ g.sliceAt ≠ 0 ∧ g.sliceAt ≤ s.clock ∧ g.halted = false ∧ g.stopped = none ∧ g.ending = false ∧
      s.frozen.contains 0 = false ∧ s.sliceClamps g = true ∧ s.isDet g = false :=
  ⟨⟨by decide, rfl⟩, by decide, by decide, rfl, rfl, rfl, by decide, by decide +kernel, by decide +kernel⟩

/-- A pending clamp, of a group in a landing or not. -/
def gClamp (inres : Bool) : Group :=
  { g0 with clampPend := true, clampAt := some 0, landing := { g0.landing with land := 0x200#64, inres := inres } }

theorem witness_Preemptions_clamp :
    (live (withG (gClamp true)) 0 0 (gClamp true) ∧ (gClamp true).clampPend = true ∧ (gClamp true).ending = false ∧
      (withG (gClamp true)).isDet (gClamp true) = false ∧ (withG (gClamp true)).standing (gClamp true) = false ∧
      (withG (gClamp true)).boundary (gClamp true) = true ∧ (gClamp true).deferDue = false ∧ (gClamp true).landing.inres = true) ∧
    live (withG (gClamp false)) 0 0 (gClamp false) ∧ (gClamp false).clampPend = true ∧ (gClamp false).ending = false ∧
      (withG (gClamp false)).isDet (gClamp false) = false ∧ (withG (gClamp false)).standing (gClamp false) = false ∧
      (withG (gClamp false)).boundary (gClamp false) = true ∧ (gClamp false).deferDue = false ∧ (gClamp false).landing.inres = false ∧ (gClamp false).landing.land ≠ 0#64 ∧
      (gClamp false).nextFrag false = some 0 :=
  ⟨⟨⟨by decide, rfl⟩, rfl, rfl, by decide +kernel, by decide +kernel, by decide +kernel, by decide +kernel, rfl⟩, ⟨by decide, rfl⟩, rfl, rfl, by decide +kernel,
    by decide +kernel, by decide +kernel, by decide +kernel, rfl, by decide, by decide +kernel⟩

/-- A team that no save concerns, one whose save has failed, and a group of a deterministic launch at a boundary. -/
theorem witness_Preemptions_deadline : ∀ bad d : Bool, ∃ (s : State) (g : Group) (c : Nat) (m : Team) (l : Launch), live s 0 0 g ∧
    g.clampAt = some c ∧ c + 65536 ≤ s.clock ∧ g.halted = false ∧ s.frozen.contains 0 = false ∧ s.team? g.team = some m ∧
    (if bad then m.saving.isSome = true ∧ m.saveBad = true else m.saving = none) ∧ s.launch? g.team.uid = some l ∧ l.super = false ∧
    s.isDet g = d ∧ (s.isDet g = true → g.atBoundary = true) ∧ s.deferNow g = false := by
  let g := gClamp true
  let s (bad : Bool) : State :=
    { withT (fun t => if bad then { t with saving := some 0x10000#64, saveBad := true } else t) g with clock := 65536 }
  intro bad d
  cases bad <;> cases d
  · exact ⟨s false, g, 0, _, _, ⟨by decide, rfl⟩, rfl, by decide, rfl, by decide, rfl, rfl, rfl, rfl, by decide +kernel,
      fun h => absurd h (by decide +kernel), by decide +kernel⟩
  · exact ⟨det (s false), g, 0, _, _, ⟨by decide, rfl⟩, rfl, by decide, rfl, by decide, rfl, rfl, rfl, rfl, by decide +kernel,
      fun _ => by decide +kernel, by decide +kernel⟩
  · exact ⟨s true, g, 0, _, _, ⟨by decide, rfl⟩, rfl, by decide, rfl, by decide, rfl, ⟨rfl, rfl⟩, rfl, rfl, by decide +kernel,
      fun h => absurd h (by decide +kernel), by decide +kernel⟩
  · exact ⟨det (s true), g, 0, _, _, ⟨by decide, rfl⟩, rfl, by decide, rfl, by decide, rfl, ⟨rfl, rfl⟩, rfl, rfl, by decide +kernel,
      fun _ => by decide +kernel, by decide +kernel⟩

theorem witness_Preemptions_ageing : ∃ (s : State) (g : Group), live s 0 0 g ∧ s.isReady g = true ∧ g.readyAt + 4096 * (g.boost + 1) < s.clock ∧
    (s.launch? g.team.uid).elim 0 (·.cls) + g.boost < 3 :=
  ⟨atClock g0 4097, g0, ⟨by decide, rfl⟩, by decide +kernel, by decide, by decide +kernel⟩

theorem witness_Preemptions_halt :
    (∃ (s : State) (g : Group), live s 0 0 g ∧ g.halted = false ∧ s.boundary g = true ∧ s.deferNow g = false) ∧
    (∃ (s : State) (g : Group), live s 0 0 g ∧ g.halted = true ∧ g.sliceAt ≠ 0 ∧ g.stopped = none) ∧
    ∃ (s : State) (g : Group), live s 0 0 g ∧ s.isDet g = true ∧ g.aside = none ∧ s.quantum g ≤ g.qcnt ∧ s.boundary g = true :=
  let g1 := { g0 with halted := true, sliceAt := 3 }
  let g2 := { g0 with qcnt := 1 }
  ⟨⟨withG g0, g0, ⟨by decide, rfl⟩, rfl, by decide +kernel, by decide +kernel⟩, ⟨withG g1, g1, ⟨by decide, rfl⟩, rfl, by decide, rfl⟩,
    det (withG g2), g2, ⟨by decide, rfl⟩, by decide +kernel, rfl, by decide +kernel, by decide +kernel⟩

/-- A peer access of an exited team has been answered. -/
def gDefer : Group := { gVec with deferred := [⟨.peergone, 0x100#64, some 1#64, 0x20#64, false⟩] }

theorem witness_GroupEvents_deferred : ∃ (s : State) (g : Group) (d : Deferred) (rest : List Deferred) (f : Nat), live s 0 0 g ∧
    g.deferred = d :: rest ∧ s.deferNow g = true ∧ g.nextFrag (s.isDet g) = some f ∧
    g.takesInGroup (deferredArgs d (g.frag f).pc) = true :=
  ⟨withG gDefer, gDefer, _, _, 0, ⟨by decide, rfl⟩, rfl, by decide +kernel, by decide +kernel, by decide +kernel⟩

/-- A timer of 16 that runs out at 3 in slot 2, a pending mailbox slot 7, fragment 0 parked. -/
def gEvent : Group :=
  { onF (fun f => { f with state := .inWany }) (gSlot true) with
    slots := (gSlot true).slots.set 2 (some ⟨0x5000000000000010#64, 0x40#64, true, false, 3, 0⟩) }

theorem witness_GroupEvents_events :
    (∃ (s : State) (g : Group) (e : Nat) (b : Binding), live s 0 0 g ∧ g.slotAt e = some b ∧ srcKind b.desc = 5 ∧
      b.desc.toNat % 2 ^ 48 ≠ 0 ∧ b.timerAt ≤ (if s.isDet g then g.retired else s.clock) ∧ b.pers = true) ∧
    ∃ (s : State) (g : Group) (n : Nat) (b : Binding) (f : Nat), live s 0 0 g ∧ s.isDet g = false ∧ s.standing g = false ∧ s.boundary g = true ∧
      g.landing.inres = false ∧ g.traps = 0 ∧ g.longestParked = some f ∧ n < 8 ∧ g.wanted.getLsbD n = true ∧
      (∀ m, m < n → g.wanted.getLsbD m = false) ∧ g.slotAt n = some b :=
  ⟨⟨atClock gEvent 3, gEvent, 2, _, ⟨by decide, rfl⟩, rfl, by decide +kernel, by decide +kernel, by decide +kernel, rfl⟩,
    withG gEvent, gEvent, 7, _, 0, ⟨by decide, rfl⟩, by decide +kernel, by decide +kernel, by decide +kernel, rfl, by decide +kernel, by decide +kernel, by decide,
    by decide +kernel, by decide +kernel, rfl⟩

/-- A sealed batch of class m with a completion word. -/
def gSealed : Group := { g0 with bm := { g0.bm with counter := 1#32, seals := [⟨1#32, none, some (0, 9#32), 0, false, 0, 0⟩] } }

/-- A group that has ended. -/
def gEnded : Group := { blankGroup with ending := true, cuttings := 1 }

theorem witness_GroupEvents_ends :
    (∃ (s : State) (g : Group) (c : Nat) (b : Sealed) (rest : List Sealed), live s 0 0 g ∧ (g.batch (.ofCode c)).seals = b :: rest ∧
      s.isDet g = false ∧ s.batchHeld g (.ofCode c) b = false) ∧
    (∃ (s : State) (g : Group), live s 0 0 g ∧ s.workDone g = true ∧ s.isDet g = false ∧ g.parkCut = none ∧ g.halted = false ∧ s.frozen.contains 0 = false ∧
      g.cursor = none ∧ s.pair? g = none ∧ (s.team? g.team).all (·.saving.isNone) = true) ∧
    ∃ (s : State) (n : Nat) (p : Partition) (bs : List Byte) (u : State), s.part? n = some p ∧ p.prep = false ∧
      devRead s n 0 (p.tqcb + 24#64) 4 = (.ok bs, u) :=
  ⟨⟨withG gSealed, gSealed, 1, _, _, ⟨by decide, rfl⟩, rfl, by decide +kernel, by decide +kernel⟩,
    ⟨withG gEnded, gEnded, ⟨by decide, rfl⟩, by decide +kernel, by decide +kernel, rfl, rfl, by decide, rfl, rfl, by decide +kernel⟩,
    base, 0, _, [0#8, 0#8, 0#8, 0#8], _, rfl, rfl, pair_of_fst (by decide +kernel)⟩

/-- One lane at 0x10000, which is physical 0x50000. -/
def lane0 (st : LaneSt) (k : Bool := false) : LaneAcc := ⟨0, 0x10000#64, [0x50000, 0x50001, 0x50002, 0x50003], [], false, 7#64, 9#64, 0#64, st, k⟩

/-- A request of it to v5. -/
def req0 (k : ReqKind) (st : LaneSt) : Request := ⟨3, k, 4, false, 5, [lane0 st], false, 0, BitVec.allOnes 64, 0x20#64, none, 0, (0, 0)⟩

/-- A group that has issued it. -/
def gReq (k : ReqKind) (st : LaneSt) : Group := { g0 with reqs := [req0 k st] }

/-- A store whose lane 0 has failed while another waits. -/
def gHalf : Group := { g0 with reqs := [{ req0 .store .waiting with lanes := [lane0 (.failed .tag), lane0 .waiting] }] }

/-- A load of lanes 0 and 1 that wait to be read. -/
def gLoad : Group :=
  let l := { lane0 .waiting with new := 0#64 }
  { g0 with reqs := [{ req0 .load .waiting with lanes := [l, { l with lane := 1 }] }] }

theorem witness_MemoryResponses_results :
    (∃ (s : State) (g : Group) (r : Request) (n : Nat), live s 0 0 g ∧ g.req? n = some r ∧ r.kind = .load ∧ readable r ∧
      (∀ l ∈ r.lanes, l.st = .waiting → s.blocks g r l = false) ∧ s.isDet g = false) ∧
    (∃ (s : State) (g : Group) (r : Request) (n : Nat) (lanes : BitVec 64), live s 0 0 g ∧ g.req? n = some r ∧ r.kind = .load ∧
      (∃ l ∈ r.lanes, l.st = .waiting ∧ lanes.getLsbD l.lane = false) ∧
      ∃ l ∈ r.lanes, l.st = .waiting ∧ lanes.getLsbD l.lane = true ∧ s.blocks g r l = false ∧ l.ea.toNat % r.size = 0 ∧ l.new = 0#64) ∧
    (∃ (s : State) (g : Group) (r : Request) (n op : Nat), live s 0 0 g ∧ g.req? n = some r ∧ r.kind = .atomic op ∧
      (∀ l ∈ r.lanes, l.st = .performed ∧ l.lane < 64) ∧ (r.lanes.map (·.lane)).Nodup) ∧
    (∃ (s : State) (g : Group) (r : Request) (n : Nat), live s 0 0 g ∧ g.req? n = some r ∧ r.kind.stages = true ∧ r.performed = true ∧
      (r.lanes.filter fun l => l.st == .failed .tag) = []) ∧
    (∃ (s : State) (g : Group) (r : Request) (n : Nat), live s 0 0 g ∧ g.req? n = some r ∧ r.kind.stages = true ∧ r.performed = false ∧
      (r.frag = 8 → ∀ l ∈ r.lanes, l.st ≠ .failed .tag) ∧ (∀ l ∈ r.lanes, ∀ c, l.st = .failed c → c = .tag) ∧
      (r.lanes.filter fun l => l.st == .failed .tag) ≠ []) ∧
    ∃ (s : State) (g : Group) (r : Request) (n : Nat), live s 0 0 g ∧ g.req? n = some r ∧ r.kind.stages = true ∧ r.performed = true ∧
      (r.frag = 8 → ∀ l ∈ r.lanes, l.st ≠ .failed .tag) ∧ (∀ l ∈ r.lanes, ∀ c, l.st = .failed c → c = .tag) ∧
      (r.lanes.filter fun l => l.st == .failed .tag) ≠ [] :=
  ⟨⟨withG gLoad, gLoad, _, 3, ⟨by decide, rfl⟩, rfl, rfl, by unfold readable; decide +kernel, by decide +kernel, by decide +kernel⟩,
    ⟨withG gLoad, gLoad, _, 3, 2#64, ⟨by decide, rfl⟩, rfl, rfl, by decide +kernel, by decide +kernel⟩,
    ⟨withG (gReq (.atomic 0) .performed), gReq (.atomic 0) .performed, _, 3, 0, ⟨by decide, rfl⟩, rfl, rfl, by decide +kernel, by decide +kernel⟩,
    ⟨withG (gReq .store .performed), gReq .store .performed, _, 3, ⟨by decide, rfl⟩, rfl, rfl, by decide +kernel, by decide +kernel⟩,
    ⟨withG gHalf, gHalf, _, 3, ⟨by decide, rfl⟩, rfl, rfl, by decide +kernel, (fun h => nomatch h),
      (fun l hl c hc => by
        rcases List.mem_cons.1 hl with rfl | hl
        · exact (LaneSt.failed.inj hc).symm
        · rw [List.mem_singleton.1 hl] at hc; cases hc), by decide +kernel⟩,
    withG (gReq .store (.failed .tag)), gReq .store (.failed .tag), _, 3, ⟨by decide, rfl⟩, rfl, rfl, by decide +kernel, (fun h => nomatch h),
      (fun l hl c hc => by rw [List.mem_singleton.1 hl] at hc; exact (LaneSt.failed.inj hc).symm), by decide +kernel⟩

/-- An operand-log entry and a hamper entry whose page is mapped by now. -/
theorem witness_MemoryResponses_replay : ∀ log, ∃ (s : State) (g : Group) (r : Request) (n : Nat) (l : LaneAcc) (pas tpas : List Nat)
    (ext : Bool) (u : State), live s 0 0 g ∧ g.req? n = some r ∧ r.kind.global = true ∧ r.logged = log ∧ g.reqs = [r] ∧ r.lanes = [l] ∧
    l.st = .faulted ∧ r.ticket = none ∧ laneCheck s g.part g.site r.kind.acc false l.ea r.size = (.ok pas tpas ext, u) := by
  intro log
  cases log
  · exact ⟨withG (gReq .store .faulted), gReq .store .faulted, req0 .store .faulted, 3, lane0 .faulted, (lane0 .faulted).pas, [], false, _,
      ⟨by decide, rfl⟩, rfl, rfl, rfl, rfl, rfl, rfl, rfl, pair_of_fst (by decide +kernel)⟩
  · exact ⟨withG (gReq .load .faulted), gReq .load .faulted, req0 .load .faulted, 3, lane0 .faulted, (lane0 .faulted).pas, [], false, _,
      ⟨by decide, rfl⟩, rfl, rfl, rfl, rfl, rfl, rfl, rfl, pair_of_fst (by decide +kernel)⟩

/-- A cluster team of two, its second team there or gone. -/
def sPair (there : Bool) (g : Group) : State :=
  { withG g with
    launches := base.launches.map fun l => { l with record := { l.record with shape := 2 } }
    teams := base.teams.flatMap fun t =>
      let a := { t with shape := 2 }
      if there then [a, { a with key := ⟨0, 1, false⟩, pos := 1, core := 1 }] else [a] }

theorem witness_MemoryResponses_peer :
    (∀ store : Bool, ∃ (s : State) (g : Group) (r : Request) (n pos : Nat) (p : Team), live s 0 0 g ∧ g.req? n = some r ∧
      r.kind = (if store then .peerStore pos else .peerLoad pos) ∧ r.performed = false ∧ g.peerOlder r pos = false ∧
      s.peerTeam g pos = some p ∧ s.peerHeld p = false ∧ s.team? p.key = some p) ∧
    ∃ (s : State) (g : Group) (r : Request) (n pos : Nat), live s 0 0 g ∧ g.req? n = some r ∧ r.kind = .peerLoad pos ∧
      r.performed = false ∧ g.peerOlder r pos = false ∧ s.peerTeam g pos = none ∧ r.lanes ≠ [] := by
  refine ⟨fun store => ?_, sPair false (gReq (.peerLoad 1) .waiting), gReq (.peerLoad 1) .waiting, _, 3, 1, ⟨by decide, rfl⟩, rfl, rfl,
    by decide +kernel, by decide +kernel, by decide +kernel, by decide +kernel⟩
  cases store
  · exact ⟨sPair true (gReq (.peerLoad 1) .waiting), gReq (.peerLoad 1) .waiting, _, 3, 1, _, ⟨by decide, rfl⟩, rfl, rfl,
      by decide +kernel, by decide +kernel, rfl, by decide +kernel, rfl⟩
  · exact ⟨sPair true (gReq (.peerStore 1) .waiting), gReq (.peerStore 1) .waiting, _, 3, 1, _, ⟨by decide, rfl⟩, rfl, rfl,
      by decide +kernel, by decide +kernel, rfl, by decide +kernel, rfl⟩

/-- A copy's piece of two bytes that waits alone on line 0x1400. -/
theorem witness_SliceSteps_piece : ∃ (s : State) (line core slot : Nat) (g : Group) (r : Request), s.mgmt.devState ≠ .frozen ∧
    s.mergePicks line [r.id] = [(core, slot, r)] ∧ s.group? core slot = some g ∧ g.req? r.id = some r ∧ r.kind = .piece ∧ r.size = 1 ∧
    (∀ l ∈ r.lanes, l.st = .waiting ∧ l.lane = 64 ∧ l.res = 0#64 ∧ l.tpas = [] ∧ ∃ a, l.pas = [a] ∧ a / 64 = line ∧ outside a = false) := by
  let l : LaneAcc := ⟨64, 0x10000#64, [0x50000], [], false, 7#64, 0#64, 0#64, .waiting, false⟩
  let r : Request := ⟨3, .piece, 1, false, 0, [l, { l with ea := 0x10001#64, pas := [0x50001] }], false, 0, BitVec.allOnes 64, 0#64, none, 0, (0, 0)⟩
  let g := { g0 with reqs := [r] }
  refine ⟨withG g, 0x1400, 0, 0, g, r, by decide, by decide +kernel, rfl, rfl, rfl, rfl, fun l hl => ?_⟩
  simp only [r, List.mem_cons, List.not_mem_nil, or_false] at hl
  rcases hl with rfl | rfl
  · exact ⟨rfl, rfl, rfl, rfl, 0x50000, rfl, by decide, by decide⟩
  · exact ⟨rfl, rfl, rfl, rfl, 0x50001, rfl, by decide, by decide⟩

/-- A store, an atomic and a `tagst` that wait alone on line 0x1400. -/
theorem witness_SliceSteps :
    (∃ (s : State) (line core slot : Nat) (g : Group) (r : Request) (l : LaneAcc), s.mgmt.devState ≠ .frozen ∧
      s.mergePicks line [r.id] = [(core, slot, r)] ∧ s.group? core slot = some g ∧ g.req? r.id = some r ∧ r.lanes = [l] ∧ l.st = .waiting ∧
      l.res = 0#64 ∧ l.tpas = [] ∧ (∀ a ∈ l.pas, outside a = false) ∧ r.size ≤ 8 ∧ l.pas.length = r.size ∧ ∀ a ∈ l.pas, a / 64 = line) ∧
    (∃ (s : State) (n line : Nat) (g : Group) (r : Request) (op : Nat) (l : LaneAcc), s.mgmt.devState ≠ .frozen ∧ s.req? n = some (g, r) ∧
      s.group? g.core g.slot = some g ∧ r.kind.op = some op ∧ r.lanes = [l] ∧ l.st = .waiting ∧ l.res = 0#64 ∧ l.pas.headD 0 / 64 = line ∧
      s.blocks g r l = false ∧ l.tpas = []) ∧
    ∃ (s : State) (n : Nat) (g : Group) (r : Request) (l : LaneAcc), s.mgmt.devState ≠ .frozen ∧ s.req? n = some (g, r) ∧
      s.group? g.core g.slot = some g ∧ r.kind = .tagst ∧ r.lanes = [l] ∧ l.st = .waiting ∧ s.blocks g r l = false :=
  ⟨⟨withG (gReq .store .waiting), 0x1400, 0, 0, gReq .store .waiting, req0 .store .waiting, _, by decide, by decide +kernel, rfl, rfl, rfl, rfl,
      rfl, rfl, by decide, by decide, rfl, by decide⟩,
    ⟨withG (gReq (.red 0) .waiting), 3, 0x1400, gReq (.red 0) .waiting, req0 (.red 0) .waiting, 0, _, by decide, rfl, rfl, rfl, rfl, rfl, rfl,
      by decide, by decide +kernel, rfl⟩,
    withG (gReq .tagst .waiting), 3, gReq .tagst .waiting, req0 .tagst .waiting, _, by decide, rfl, rfl, rfl, rfl, rfl, by decide +kernel⟩

/-- An operation of the engine, from tiles 0 and 1 to a3. -/
def op0 (started : Option Nat) (consumed : Bool) : MatOp :=
  ⟨0, 0, 2, none, 3, 3#64, 0, 1, ⟨2, 1#2, 32⟩, ⟨2, 1#2, 32⟩, [], [], consumed, started, [], [], [], [], 1#32, 0#64⟩

/-- The machine with it in the engine, or in an engine that resets. -/
def sEngine (q : List MatOp) (resetting : Bool) : State := { atClock gMma 65536 with engines := [⟨0, q, resetting⟩] }

theorem witness_EngineEvents :
    (∃ (s : State) (q : MatOp) (rest : List MatOp), s.mgmt.devState ≠ .frozen ∧ s.frozen.contains 0 = false ∧ (s.engine 0).queue = q :: rest ∧
      q.started = none) ∧
    (∃ (s : State) (q : MatOp) (rest : List MatOp) (g : Group), s.mgmt.devState ≠ .frozen ∧ s.frozen.contains 0 = false ∧
      (s.engine 0).queue = q :: rest ∧ q.consumed = false ∧ q.started.isSome = true ∧ s.group? 0 q.slot = some g) ∧
    (∃ (s : State) (q : MatOp) (rest : List MatOp) (g : Group), s.mgmt.devState ≠ .frozen ∧ s.frozen.contains 0 = false ∧
      (s.engine 0).queue = q :: rest ∧ q.consumed = true ∧ s.group? 0 q.slot = some g ∧ q.shapeB.rows ≤ 64) ∧
    (∃ (s : State) (q : MatOp) (rest : List MatOp) (g : Group) (k : Nat), s.mgmt.devState ≠ .frozen ∧ s.frozen.contains 0 = false ∧
      (s.engine 0).queue = q :: rest ∧ s.group? 0 q.slot = some g ∧ q.started = some k ∧ k + 65536 ≤ s.clock) ∧
    ∃ s : State, s.mgmt.devState ≠ .frozen ∧ s.frozen.contains 0 = false ∧ (s.engine 0).resetting = true :=
  ⟨⟨sEngine [op0 none false] false, op0 none false, [], by decide, by decide, rfl, rfl⟩,
    ⟨sEngine [op0 (some 0) false] false, op0 (some 0) false, [], gMma, by decide, by decide, rfl, rfl, rfl, rfl⟩,
    ⟨sEngine [op0 (some 0) true] false, op0 (some 0) true, [], gMma, by decide, by decide, rfl, rfl, rfl, by decide⟩,
    ⟨sEngine [op0 (some 0) false] false, op0 (some 0) false, [], gMma, 0, by decide, by decide, rfl, rfl, rfl, by decide⟩,
    sEngine [] true, by decide, by decide, rfl⟩

/-- Operations of the three integer types, in a row below M and a word below N. -/
theorem witness_EngineEvents_integer : ∀ ty ∈ [2, 3, 5], ∃ (s : State) (q : MatOp) (rest : List MatOp) (g : Group) (r n : Nat),
    s.mgmt.devState ≠ .frozen ∧ s.frozen.contains 0 = false ∧ (s.engine 0).queue = q :: rest ∧ q.consumed = true ∧
    s.group? 0 q.slot = some g ∧ q.shapeB.rows ≤ 64 ∧ q.ty = ty ∧ r < 64 ∧ q.rows.getLsbD r = true ∧ r < q.shapeA.rows ∧ n < q.shapeB.rows ∧
    q.quant = none ∧ swf (g.acc q.acc) = true := by
  intro ty _
  exact ⟨sEngine [{ op0 (some 0) true with ty := ty }] false, { op0 (some 0) true with ty := ty }, [], gMma, 1, 1, (by decide : base.mgmt.devState ≠ .frozen),
    (by decide : base.frozen.contains 0 = false), rfl, rfl, rfl, (by decide : 2 ≤ 64), rfl, by decide, (by decide : (3#64).getLsbD 1 = true), (by decide : 1 < 2), (by decide : 1 < 2), rfl,
    (by decide +kernel : swf (gMma.acc 3) = true)⟩

/-- A gate word of d8 for triple 0, before its parts. -/
def word0 (op : GateOp) : GateWord :=
  let z : Lanes := Vector.replicate 64 0#32
  ⟨4, op, 8, 0#64, true, [], 0, 0, [], 0, z, z, z, [], false, 1#32, 0x20#64, none, 0, none, (0#64, 0)⟩

/-- The pair of `sess`. -/
def pair0 : Pair := ⟨3, 0, 0, [], [], [], [], 0, 0, [], [], none, none, false, false, false, false⟩

/-- A crossing of triple 0. -/
def cross0 : Crossing := ⟨4, 0#64, 0, 0, Vector.replicate 64 1#32⟩

/-- The session with its pair. -/
def sGate (p : Pair) (g : Group) : State := { sess (withG g) with pairs := [p] }

/-- A group whose stream is at its first record, a Beaver triple of .z32 at 0x10040. -/
def gDraw : Group := { gGate with gates := [{ word0 (.gtrip 0) with drawn := false }], cursor := some (0x10040#64, 832#64, 0#64, 0#64) }

/-- The machine with that record. -/
def sDraw : State := { sGate pair0 gDraw with mem := writeBytes base.mem 0x50048 [1#8] }

theorem witness_GateEvents_draw : ∃ (s : State) (g : Group) (p : Pair) (w : GateWord) (ty : Nat) (stream len seq off : Word) (hd body : List Byte)
    (u : State), live s 0 0 g ∧ s.pair? g = some p ∧ p.notice (s.roleOf g) = [] ∧ p.bad (s.roleOf g) = false ∧ s.writingBack g = false ∧
    g.skip = none ∧ g.gates.find? (fun w => !w.drawn) = some w ∧ w.ticket = none ∧ w.op = .gtrip ty ∧ ty < 2 ∧
    g.cursor = some (stream, len, seq, off) ∧ s.gateRead g w.id (stream + off) 64 = (.ok hd, u) ∧ off.toNat + 832 ≤ len.toNat ∧
    headerSeq hd = seq ∧ headerKind hd = ty + 1 ∧ headerReserved hd = false ∧ (u.gateRead g w.id (stream + off + 64#64) 768).1 = .ok body :=
  ⟨sDraw, gDraw, pair0, _, 0, _, _, _, _, readAt sDraw.mem ((List.range 64).map (0x50040 + ·)), List.replicate 768 0#8, _, ⟨by decide, rfl⟩, rfl,
    by decide +kernel, by decide +kernel, by decide +kernel, rfl, rfl, rfl, rfl, by decide, rfl, pair_of_fst (by decide +kernel),
    by decide +kernel, by decide +kernel, by decide +kernel, by decide +kernel, by decide +kernel⟩

theorem witness_GateEvents_accept : ∃ (s : State) (g : Group) (p : Pair) (w : GateWord) (n : Nat) (data : Lanes) (rest : List (Nat × Lanes)),
    live s 0 0 g ∧ s.pair? g = some p ∧ g.gates.find? GateWord.posts = some w ∧ w.post = (n, data) :: rest ∧ g.injArm = false :=
  let g := { gGate with gates := [{ word0 (.gmask 0) with post := [(0, Vector.replicate 64 1#32)] }] }
  ⟨sGate pair0 g, g, pair0, _, _, _, _, ⟨by decide, rfl⟩, rfl, rfl, rfl, rfl⟩

theorem witness_GateEvents_arrive :
    (∃ (s : State) (g : Group) (p : Pair) (c : Crossing) (rest : List Crossing), live s 0 0 g ∧ s.pair? g = some p ∧
      p.sent (1 - s.roleOf g) = c :: rest ∧ c.aborts = p.aborts (s.roleOf g) ∧ (p.buf (s.roleOf g)).length < 32 ∧
      ∀ w ∈ g.gates, w.await = 0) ∧
    ∃ (s : State) (g : Group) (p : Pair) (c : Crossing) (rest : List Crossing) (w : GateWord), live s 0 0 g ∧ s.pair? g = some p ∧
      p.sent (1 - s.roleOf g) = c :: rest ∧ c.aborts = p.aborts (s.roleOf g) ∧ (p.buf (s.roleOf g)).length < 32 ∧ p.buf (s.roleOf g) = [] ∧
      g.gates.find? (fun w => w.await != 0) = some w ∧ w.op = .greveal ∧ w.drawn = true ∧ w.got = [] ∧ c.q = w.q ∧ c.index = 0 ∧ w.await = 1 :=
  let p := { pair0 with sent1 := [cross0] }
  let g := { gGate with gates := [{ word0 .greveal with await := 1 }] }
  ⟨⟨sGate p gGate, gGate, p, cross0, [], ⟨by decide, rfl⟩, rfl, by decide +kernel, by decide +kernel, by decide +kernel, by decide +kernel⟩,
    sGate p g, g, p, cross0, [], _, ⟨by decide, rfl⟩, rfl, by decide +kernel, by decide +kernel, by decide +kernel, by decide +kernel,
    rfl, rfl, rfl, rfl, rfl, rfl, rfl⟩

theorem witness_GateEvents_abort : ∃ (s : State) (g : Group) (p : Pair), live s 0 0 g ∧ s.pair? g = some p ∧ ∃ larger rest, p.notice (s.roleOf g) = larger :: rest :=
  let p := { pair0 with notice0 := [0#64] }
  ⟨sGate p gGate, gGate, p, ⟨by decide, rfl⟩, rfl, 0#64, [], by decide +kernel⟩

/-- Queue 63 of partition 0 at address `a`, with one record. -/
def sQueue (a : Word) : State :=
  { withG g0 with mem := recordMem, parts := [{ loadedPartition with queues := [(63, ⟨a, true, false, 0#8, 1, 0#32, 1#32⟩)] }] }

theorem witness_LaunchQueues_host : ∀ good, ∃ (s : State) (link : Fin 2) (part n : Nat) (p : Partition) (bs : List Byte) (u : State),
    s.mgmt.devState ≠ .frozen ∧ s.part? part = some p ∧ p.halted = false ∧ n < 64 ∧ (p.queueAt n).en = true ∧ (p.queueAt n).err = false ∧
    (p.queueAt n).head ≠ (p.queueAt n).tail ∧ (p.queueAt n).log2n ≠ 0 ∧ ((p.queueAt n).tail - (p.queueAt n).head).toNat ≤ 2 ^ (p.queueAt n).log2n ∧
    devRead s part (s.homeDie p) ((p.queueAt n).qbase + BitVec.ofNat 64 (256 * ((p.queueAt n).head.toNat % 2 ^ (p.queueAt n).log2n))) 256 =
      (.ok bs, u) ∧ s.hostClear ⟨link, part⟩ = true ∧ s.recordOk part bs = good ∧ s.sessionTaken part (readRecord bs) = false := by
  intro good
  cases good
  · exact ⟨sQueue 0x10200#64, 1, 0, 63, _, readAt recordMem ((List.range 256).map (0x50200 + ·)), _, by decide, rfl, rfl, by decide, rfl, rfl,
      by decide, by decide, by decide, pair_of_fst (by decide +kernel), rfl, by decide +kernel, by decide +kernel⟩
  · exact ⟨sQueue 0x10100#64, 1, 0, 63, _, readAt recordMem ((List.range 256).map (0x50100 + ·)), _, by decide, rfl, rfl, by decide, rfl, rfl,
      by decide, by decide, by decide, pair_of_fst (by decide +kernel), rfl, by decide +kernel, by decide +kernel⟩

theorem witness_LaunchQueues_device : ∃ (s : State) (part : Nat) (p : Partition) (r : LaunchRec) (c : Nat) (rest : List (LaunchRec × Nat)),
    s.mgmt.devState ≠ .frozen ∧ s.part? part = some p ∧ p.halted = false ∧ p.devQ = (r, c) :: rest ∧ s.sessionTaken part r = false :=
  ⟨sRecord true, 0, _, _, _, _, by decide, rfl, rfl, rfl, by decide +kernel⟩

/-- The loaded machine with its launch changed and no group. -/
def sLaunch (f : Launch → Launch) : State := { base with launches := base.launches.map f, groups := [] }

theorem witness_LaunchProgress_start : ∃ (s : State) (l : Launch), s.mgmt.devState ≠ .frozen ∧ s.launch? 0 = some l ∧ l.started = false ∧
    l.done = false ∧ (s.part? l.part).any (fun p => !p.halted) = true ∧ s.earlierWaits l = false ∧ l.tokenRec = none ∧ l.look = true ∧
    l.record.waits = [] :=
  ⟨sLaunch fun l => { l with started := false, look := true }, _, by decide, rfl, rfl, rfl, by decide +kernel, by decide +kernel, rfl, rfl, by decide +kernel⟩

theorem witness_LaunchProgress_place : ∃ (s : State) (l : Launch) (p : Partition) (w : Waiting) (rest : List (Launch × Waiting)) (core : Nat),
    s.mgmt.devState ≠ .frozen ∧ s.launch? 0 = some l ∧ s.part? 0 = some p ∧ p.halted = false ∧ s.waitingOf 0 = (l, w) :: rest ∧
    (w.key.origin = false ∨ l.commits = false) ∧ l.unitOf w = [w] ∧ l.shapeFor w ≤ 1 ∧ w.image = none ∧ s.choose p l [w] = some core :=
  ⟨sLaunch fun l => { l with waiting := [waits] }, _, _, waits, [], 0, by decide, rfl, rfl, rfl, by decide +kernel, .inl rfl, by decide +kernel,
    by decide +kernel, rfl, by decide +kernel⟩

theorem witness_LaunchProgress_flush : ∃ (s : State) (l : Launch) (b : Bin), s.mgmt.devState ≠ .frozen ∧ s.launch? 0 = some l ∧
    s.bins.find? (fun b => b.die == 0 && b.uid == 0 && b.entry == 0) = some b ∧ b.lastAt + 2000 ≤ s.clock ∧ l.record.det = false :=
  ⟨{ base with clock := 2000, bins := [⟨0, 0, 0, [cut0], 0⟩] }, _, _, by decide, rfl, rfl, by decide, by decide +kernel⟩

theorem witness_LaunchProgress_quiet : ∀ second : Bool, ∃ (s : State) (l : Launch), s.mgmt.devState ≠ .frozen ∧ s.launch? 0 = some l ∧
    l.started = true ∧ l.done = false ∧ (s.part? l.part).any (fun p => !p.halted) = true ∧ (∀ g ∈ s.groups, g.team.uid ≠ 0) ∧ l.waiting = [] ∧
    l.sent = l.received ∧ l.commits = false ∧
    if second then (∃ k, l.sample = some (k, l.sent, l.received) ∧ k + 64 ≤ s.fclock) ∧ l.jobs = 0 ∧ l.record.signal = none
    else l.sample = none := by
  intro second
  cases second
  · exact ⟨sLaunch id, _, by decide, rfl, rfl, rfl, by decide +kernel, fun g h => (List.not_mem_nil h).elim, rfl, rfl, rfl, rfl⟩
  · exact ⟨{ sLaunch (fun l => { l with jobs := 0, sample := some (0, 0, 0) }) with fclock := 64 }, _, by decide, rfl, rfl, rfl, by decide +kernel,
      fun g h => (List.not_mem_nil h).elim, rfl, rfl, rfl, ⟨0, rfl, by decide⟩, rfl, by decide +kernel⟩

/-- A group whose quantum of the round has ended, before its turn and after it. -/
def gTurn (r : BitVec 32) : Group := { g0 with qdone := true, qround := r }

/-- A group that has ended, after its turn, with deferred traps that are still to be delivered. -/
def gOver (d : List Deferred) : Group := { blankGroup with ending := true, cuttings := 1, qdone := true, qround := 1#32, deferred := d }

theorem witness_Commits :
    (∃ (s : State) (l : Launch) (g : Group), s.mgmt.devState ≠ .frozen ∧ s.launch? 0 = some l ∧ l.record.det = true ∧ l.started = true ∧
      l.done = false ∧ s.commitOrder 0 ≠ [] ∧ s.roundOver l (s.commitOrder 0) = true ∧
      (s.commitOrder 0).find? (fun g => g.qround != BitVec.ofNat 32 (l.round + 1)) = some g ∧ s.group? g.core g.slot = some g ∧ g.staged = [] ∧
      g.commit = none ∧ g.bc.seals = [] ∧ g.bm.seals = [] ∧ g.bg.seals = []) ∧
    (∃ (s : State) (l : Launch), s.mgmt.devState ≠ .frozen ∧ s.launch? 0 = some l ∧ l.record.det = true ∧ l.started = true ∧ l.done = false ∧
      s.commitOrder 0 ≠ [] ∧ s.roundOver l (s.commitOrder 0) = true ∧ (∀ g ∈ s.commitOrder 0, g.qround = BitVec.ofNat 32 (l.round + 1)) ∧
      s.endedOf 0 = []) ∧
    ∀ drained, ∃ (s : State) (l : Launch) (g : Group), s.mgmt.devState ≠ .frozen ∧ s.launch? 0 = some l ∧ l.record.det = true ∧
      l.started = true ∧ l.done = false ∧ (s.commitOrder 0 ≠ [] ∨ l.commits = true) ∧ s.roundOver l (s.commitOrder 0) = true ∧
      (∀ g ∈ s.commitOrder 0, g.qround = BitVec.ofNat 32 (l.round + 1)) ∧ s.endedOf 0 = [g] ∧ s.workDone g = drained ∧ g.cursor = none :=
  ⟨⟨det (withG (gTurn 0#32)), _, gTurn 0#32, by decide, rfl, rfl, rfl, rfl, by decide +kernel, by decide +kernel, rfl, rfl, rfl, rfl, rfl, rfl,
      rfl⟩,
    ⟨det (withG (gTurn 1#32)), _, by decide, rfl, rfl, rfl, rfl, by decide +kernel, by decide +kernel, by decide +kernel, by decide +kernel⟩,
    fun drained => match drained with
    | true => ⟨det (withG (gOver [])), _, gOver [], by decide, rfl, rfl, rfl, rfl, .inl (by decide +kernel), by decide +kernel, by decide +kernel, rfl,
        by decide +kernel, rfl⟩
    | false => ⟨det (withG (gOver [⟨.peergone, 0#64, none, 0#64, false⟩])), _, gOver [⟨.peergone, 0#64, none, 0#64, false⟩], by decide, rfl, rfl, rfl,
        rfl, .inl (by decide +kernel), by decide +kernel, by decide +kernel, rfl, by decide +kernel, rfl⟩⟩

/-- What the second part of Commits asks of every group of the launch. -/
def settled (s : State) (uid : Nat) : Prop := ∀ g ∈ s.groups, g.team.uid = uid → g.qdone = true ∧ g.stopped = none ∧ g.halted = false ∧
  s.frozen.contains g.core = false ∧ s.finishing g = false ∧ g.reqs = [] ∧ g.copies = [] ∧ s.group? g.core g.slot = some g

theorem settled_one (r : BitVec 32) : settled (det (withG (gTurn r))) 0 := by
  intro g hg _
  cases List.mem_singleton.1 hg
  exact ⟨rfl, rfl, rfl, rfl, rfl, rfl, rfl, rfl⟩

theorem witness_Commits_turns :
    (∃ (s : State) (l : Launch) (g : Group), s.mgmt.devState ≠ .frozen ∧ s.launch? 0 = some l ∧ l.record.det = true ∧ l.started = true ∧
      l.done = false ∧ l.waiting = [] ∧ (∀ x ∈ s.saved, x.team.key.uid ≠ 0) ∧ settled s 0 ∧ g ∈ s.groups ∧ g.team.uid = 0 ∧
      g.qround ≠ BitVec.ofNat 32 (l.round + 1) ∧ (∀ h ∈ s.groups, h = g) ∧ g.staged = [] ∧ g.commit = none ∧ g.bc.seals = [] ∧ g.bm.seals = [] ∧
      g.bg.seals = []) ∧
    ∃ (s : State) (l : Launch), s.mgmt.devState ≠ .frozen ∧ s.launch? 0 = some l ∧ l.record.det = true ∧ l.started = true ∧
      l.done = false ∧ l.waiting = [] ∧ (∀ x ∈ s.saved, x.team.key.uid ≠ 0) ∧ settled s 0 ∧ (∃ g ∈ s.groups, g.team.uid = 0) ∧
      (∀ g ∈ s.groups, g.team.uid = 0 → g.qround = BitVec.ofNat 32 (l.round + 1) ∧ g.ending = false ∧ g.clampPend = false ∧ g.deferred = [] ∧
        ∀ f, f < 4 → (g.frag f).state ≠ .inWany) ∧ l.clampAll = false ∧ ∀ b ∈ s.bins, b.uid ≠ 0 :=
  ⟨⟨det (withG (gTurn 0#32)), _, gTurn 0#32, by decide, rfl, rfl, rfl, rfl, rfl, (fun _ h => nomatch h), settled_one _, List.mem_singleton.2 rfl, rfl,
      by decide, (fun _ h => List.mem_singleton.1 h), rfl, rfl, rfl, rfl, rfl⟩,
    det (withG (gTurn 1#32)), _, by decide, rfl, rfl, rfl, rfl, rfl, (fun _ h => nomatch h), settled_one _, ⟨_, List.mem_singleton.2 rfl, rfl⟩,
    (fun g hg _ => by cases List.mem_singleton.1 hg; exact ⟨rfl, rfl, rfl, rfl, by decide +kernel⟩), rfl, (fun _ h => nomatch h)⟩

/-- The first group of a team of two posts a token to the second, whose turn is over, and whose mailbox is empty or full. -/
theorem witness_Commits_post : ∀ full : Bool, ∃ (s : State) (l : Launch) (g : Group) (v : Word) (token : BitVec 32) (d : BitVec 6) (f : Nat)
    (k : TeamKey) (n : Nat) (p : Group), s.mgmt.devState ≠ .frozen ∧ s.launch? 0 = some l ∧ l.record.det = true ∧ l.started = true ∧
    l.done = false ∧ l.waiting = [] ∧ (∀ x ∈ s.saved, x.team.key.uid ≠ 0) ∧ settled s 0 ∧ g ∈ s.groups ∧ g.team.uid = 0 ∧
    g.qround ≠ BitVec.ofNat 32 (l.round + 1) ∧ (∀ h ∈ s.groups, h.team.uid = 0 → h.qround ≠ BitVec.ofNat 32 (l.round + 1) → h = g) ∧ g.staged = [] ∧
    g.commit = some (.post v token d f) ∧ g.bc.seals = [] ∧ g.bm.seals = [] ∧ g.bg.seals = [] ∧ s.postHeld g v = false ∧
    s.postTarget g v 0#64 = .ok (some (k, n)) ∧ k.uid = 0 ∧ s.groups.find? (fun h => h.team == k && h.gidx == n) = some p ∧
    ¬(p.core = g.core ∧ p.slot = g.slot) ∧ f < 4 ∧ (if full then p.mailbox.length = 4 else p.mailbox = []) := by
  let g := { gTurn 0#32 with commit := some (.post 1#64 7#32 5#6 0) }
  let p (full : Bool) : Group := { gTurn 1#32 with slot := 1, gidx := 1, mailbox := if full then [1#32, 2#32, 3#32, 4#32] else [] }
  let s (full : Bool) : State := { det (withT (fun t => { t with groups := 2 }) g) with groups := [g, p full] }
  have st : ∀ full, settled (s full) 0 := by
    intro full h hg _
    simp only [s, List.mem_cons, List.not_mem_nil, or_false] at hg
    rcases hg with rfl | rfl <;> exact ⟨rfl, rfl, rfl, rfl, rfl, rfl, rfl, rfl⟩
  have only : ∀ full, ∀ h ∈ (s full).groups, h.team.uid = 0 → h.qround ≠ BitVec.ofNat 32 (0 + 1) → h = g := by
    intro full h hg _ hq
    simp only [s, List.mem_cons, List.not_mem_nil, or_false] at hg
    rcases hg with rfl | rfl
    · rfl
    · exact absurd rfl hq
  intro full
  cases full
  · exact ⟨s false, _, g, _, _, _, _, ⟨0, 0, false⟩, 1, p false, by decide, rfl, rfl, rfl, rfl, rfl, (fun _ h => nomatch h), st false, List.mem_cons_self, rfl,
      by decide, only false, rfl, rfl, rfl, rfl, rfl, by decide +kernel, by decide +kernel, rfl, rfl, by decide, by decide, rfl⟩
  · exact ⟨s true, _, g, _, _, _, _, ⟨0, 0, false⟩, 1, p true, by decide, rfl, rfl, rfl, rfl, rfl, (fun _ h => nomatch h), st true, List.mem_cons_self, rfl,
      by decide, only true, rfl, rfl, rfl, rfl, rfl, by decide +kernel, by decide +kernel, rfl, rfl, by decide, by decide, rfl⟩

/-- The data page is cached at die 0, and no drain is open. -/
def paged (s : State) : Prop := s.tlb = [⟨0, 0, none, .page, 0x10000, 0x5000D#64, false⟩] ∧ s.parts = [loadedPartition]

/-- A byte that the device writes to that page finds its place. -/
theorem dev_byte {s : State} {a : Word} (h : paged s) (ha : a.toNat / 2 ^ 16 = 1) :
    devCheck s 0 0 true a = (.ok [0x50000 + a.toNat % 2 ^ 16] [] false, s) := by
  have hf : field a 59 55 = 0 := by
    unfold field
    omega
  have ht : Machine.translate s 0 (.ofDie 0) (a.toNat % 2 ^ 55) = (.ok (0x50000 + a.toNat % 2 ^ 16) 0x5000D, s) := by
    have e : 1 = a.toNat % 36028797018963968 / 65536 := by omega
    have e2 : a.toNat % 2 ^ 55 % 2 ^ 16 = a.toNat % 2 ^ 16 := by omega
    have hp : s.part? 0 = some loadedPartition := by unfold State.part?; rw [h.2]; rfl
    have hc : s.cachedLeaf 0 (.ofDie 0) (a.toNat % 2 ^ 55) = some ⟨0, 0, none, .page, 0x10000, 0x5000D#64, false⟩ := by
      unfold State.cachedLeaf State.cachedAt
      rw [h.1]
      simp [Site.core?, Site.dieNo, TlbKind.leaf, TlbEntry.covers, TlbKind.bits, ← e]
    unfold Machine.translate
    simp only [hp, hc, e2, TlbKind.bits]
    rfl
  have one : (a + BitVec.ofNat 64 (1 - 1)) = a := by simp
  unfold devCheck laneCheck
  simp only [one, hf, ht]
  simp [tagMiss, tagDiffers, AccKind.reads, natBit]

/-- So do the bytes of a run within the page. -/
theorem dev_write {s : State} {a : Word} {bs : List Byte} (h : paged s) (ha : 2 ^ 16 ≤ a.toNat) (hb : a.toNat + bs.length ≤ 2 ^ 17) :
    ∃ t, devWrite s 0 0 a bs = .ok t ∧ paged t := by
  have step : ∀ (xs : List (Nat × Byte)) (out : List (Nat × Byte)), (∀ x ∈ xs, x.1 < bs.length) → ∃ out',
      xs.foldl (fun (r : Except DevStop (State × List (Nat × Byte))) (x : Nat × Byte) =>
        match r with
        | .error c => .error c
        | .ok (t, out) =>
          match devCheck t 0 0 true (a + BitVec.ofNat 64 x.1) with
          | (.ok ps _ _, t) => .ok (t.remoteStore 0 ps, out ++ (ps.filter fun p => !outside p).map fun p => (p, x.2))
          | (.fault c a, _) => .error (some (c, a))
          | (.wait, _) => .error none) (.ok (s, out)) = .ok (s, out') := by
    intro xs
    induction xs with
    | nil => exact fun out _ => ⟨out, rfl⟩
    | cons x r ih =>
      intro out hx
      have hx1 := hx x List.mem_cons_self
      have e : (a + BitVec.ofNat 64 x.1).toNat / 2 ^ 16 = 1 := by
        simp only [BitVec.toNat_add, BitVec.toNat_ofNat]
        omega
      simp only [List.foldl_cons, dev_byte h e]
      have hr : s.remoteStore 0 [0x50000 + (a + BitVec.ofNat 64 x.1).toNat % 2 ^ 16] = s := by
        have lt := Nat.mod_lt (a + BitVec.ofNat 64 x.1).toNat (show 0 < 2 ^ 16 by decide)
        have hp : peerPa (0x50000 + (a + BitVec.ofNat 64 x.1).toNat % 2 ^ 16) = false := by
          unfold peerPa
          rw [Nat.div_eq_of_lt (by omega)]
          rfl
        simp only [State.remoteStore, State.remoteRefuses, List.any_cons, List.any_nil, hp, Bool.false_and, Bool.or_false]
        rfl
      rw [hr]
      exact ih _ fun y hy => hx y (List.mem_cons_of_mem _ hy)
  obtain ⟨out, e⟩ := step ((List.range bs.length).zip bs) [] fun x hx => List.mem_range.1 (List.of_mem_zip hx).1
  refine ⟨clearPoison { s with mem := ssetAll s.mem out } (out.map (·.1)), ?_, h⟩
  exact congrArg (fun r : Except DevStop (State × List (Nat × Byte)) => (match r with
    | .error c => .error c
    | .ok (t, out) => .ok (clearPoison { t with mem := ssetAll t.mem out } (out.map (·.1))) : Except DevStop State)) e

/-- So do the parts of an image. -/
theorem write_parts {s : State} {a : Word} {ps : List (Nat × List Byte)} (h : paged s) (ha : 2 ^ 16 ≤ a.toNat)
    (hb : ∀ p ∈ ps, a.toNat + p.1 + p.2.length ≤ 2 ^ 17) : ∃ t, writeParts s 0 0 a ps = .ok t ∧ paged t := by
  unfold writeParts
  induction ps generalizing s with
  | nil => exact ⟨s, rfl, h⟩
  | cons p r ih =>
    have hp := hb p List.mem_cons_self
    have e : (a + BitVec.ofNat 64 p.1).toNat = a.toNat + p.1 := by
      simp only [BitVec.toNat_add, BitVec.toNat_ofNat]
      omega
    obtain ⟨t, ht, hc⟩ := dev_write (a := a + BitVec.ofNat 64 p.1) (bs := p.2) h (by omega) (by omega)
    simp only [List.foldl_cons, ht]
    exact ih hc fun q hq => hb q (List.mem_cons_of_mem _ hq)

/-- Parts of unstated layout keep the page, and have their lengths. -/
theorem free_parts (ps : List (Nat × Nat)) : ∀ (s : State), paged s → paged (freeParts s ps).2 ∧
    (freeParts s ps).1.map (fun p => (p.1, p.2.length)) = ps := by
  have h : ∀ (ps : List (Nat × Nat)) (a : List (Nat × List Byte)) (s : State), paged s →
      let r := ps.foldl (fun (a : List (Nat × List Byte) × State) p =>
        let (out, t) := a
        (out ++ [(p.1, (List.range p.2).map fun i => Config.imageByte (t.draws + i))], { t with draws := t.draws + p.2 })) (a, s)
      paged r.2 ∧ r.1.map (fun p => (p.1, p.2.length)) = a.map (fun p => (p.1, p.2.length)) ++ ps := by
    intro ps
    induction ps with
    | nil => intro a s h; exact ⟨h, by simp⟩
    | cons p r ih =>
      intro a s hs
      have q := ih (a ++ [(p.1, (List.range p.2).map fun i => Config.imageByte (s.draws + i))]) { s with draws := s.draws + p.2 } hs
      refine ⟨q.1, q.2.trans ?_⟩
      simp
  exact fun s hs => h ps [] s hs

/-- The record of the smallest images, with the save area at the data page. -/
def small : LaunchRec := { roomyRecord with scratch := 0, tiles := 0, accs := 0, save := 0x10000#64 }

/-- A team that is to be saved there. -/
def mSaved : Team := { sFull.default' with saving := some 0x10000#64, scratch := 0 }

/-- The machine with it. -/
def sSave : State :=
  { base with tlb := [⟨0, 0, none, .page, 0x10000, 0x5000D#64, false⟩], launches := base.launches.map fun l => { l with record := small }, teams := [mSaved] }

/-- Its group as its image holds it. -/
def gSaved : Group := g0.forImage false 0

theorem save_lengths : ∀ p ∈ (freeParts sSave (gSaved.openParts small)).2.groupImage gSaved small, p.1 + p.2.length ≤ 0x7000 := by decide +kernel

theorem save_block : ∀ p ∈ mSaved.blockImage small, p.1 + p.2.length ≤ 0x2000 := by decide +kernel

theorem save_groups : sSave.groupsOfTeam mSaved.key = [g0] ∧ sSave.writeCursor g0.core g0.slot = sSave := ⟨rfl, rfl⟩

theorem save_launch : ∃ l, sSave.launch? mSaved.key.uid = some l ∧ l.record = small := ⟨_, rfl, rfl⟩

theorem save_forImage : g0.forImage small.det sSave.clock = gSaved := by
  have d : small.det = false := by decide +kernel
  have c : sSave.clock = 0 := by decide +kernel
  rw [d, c]
  rfl

theorem save_places : mSaved.part = 0 ∧ dieOf mSaved.core = 0 ∧ g0.gidx = 0 ∧ mSaved.saving = some 0x10000#64 ∧ ¬(mSaved.pos = 0 ∧ mSaved.shape > 1) := by decide

/-- What a team of one group, alone in its cluster team, writes. -/
theorem save_image {s u u1 s1 : State} {g : Group} {m : Team} {base : Word} {l : Launch} {r : LaunchRec} {parts free : List (Nat × List Byte)}
    (e1 : s.launch? m.key.uid = some l) (hr : l.record = r) (hg : s.groupsOfTeam m.key = [g])
    (hf : freeParts s ((g.forImage r.det s.clock).openParts r) = (parts, u1))
    (hu : writeParts u1 m.part (dieOf m.core) (base + BitVec.ofNat 64 (r.groupOffset g.gidx))
      (u1.groupImage (g.forImage r.det s.clock) r ++ parts) = .ok u)
    (ho : freeParts u [(64, 1024)] = (free, s1)) (hb : ¬(m.pos = 0 ∧ m.shape > 1)) :
    s.writeTeam m base = writeParts s1 m.part (dieOf m.core) base (m.blockImage r ++ free ++ [(1088, List.replicate 512 0#8)]) := by
  subst hr
  unfold State.writeTeam
  simp only [-List.reduceReplicate, e1, hg, List.foldl_cons, List.foldl_nil, hf, hu, hb, if_false, ho]

/-- Its save succeeds when its images are written. -/
theorem save_team {s u : State} {m : Team} {g : Group} {base : Word} (hg : s.groupsOfTeam m.key = [g]) (hc : s.writeCursor g.core g.slot = s)
    (hs : m.saving = some base) (hw : s.writeTeam m base = .ok u) : s.saveTeams [m] = .ok (u.storeTeam m base) := by
  unfold State.saveTeams
  simp only [List.foldl_cons, List.foldl_nil, hg, hc, hs, hw]

theorem save_paged : paged sSave := ⟨rfl, rfl⟩

theorem save_open : ∀ q ∈ gSaved.openParts small, q.1 + q.2 ≤ 0x7000 := by decide +kernel

theorem save_addr : (0x10000#64 + BitVec.ofNat 64 (small.groupOffset 0)).toNat = 0x12000 := by decide +kernel

theorem save_ok : ∃ u, sSave.saveTeams [mSaved] = .ok u := by
  have fr := free_parts (gSaved.openParts small) sSave save_paged
  have fl : ∀ p ∈ (freeParts sSave (gSaved.openParts small)).1, p.1 + p.2.length ≤ 0x7000 := by
    intro p h
    have hm : (p.1, p.2.length) ∈ gSaved.openParts small := by
      rw [← fr.2]
      exact List.mem_map.2 ⟨p, h, rfl⟩
    exact save_open _ hm
  obtain ⟨u, hu, pu⟩ := write_parts (a := 0x10000#64 + BitVec.ofNat 64 (small.groupOffset 0)) fr.1 (by rw [save_addr]; decide)
    (ps := (freeParts sSave (gSaved.openParts small)).2.groupImage gSaved small ++ (freeParts sSave (gSaved.openParts small)).1) (by
      intro p h
      rw [save_addr]
      rcases List.mem_append.1 h with h | h
      · have := save_lengths p h; omega
      · have := fl p h; omega)
  have fs := free_parts [(64, 1024)] u pu
  obtain ⟨v, hv, -⟩ := write_parts (a := 0x10000#64) fs.1 (by decide)
    (ps := mSaved.blockImage small ++ (freeParts u [(64, 1024)]).1 ++ [(1088, List.replicate 512 0#8)]) (by
      intro p h
      rw [show (0x10000#64 : Word).toNat = 0x10000 from rfl]
      simp only [-List.reduceReplicate, List.mem_append, List.mem_singleton] at h
      rcases h with (h | h) | h
      · have := save_block p h
        omega
      · have hm : (p.1, p.2.length) ∈ [(64, 1024)] := by
          rw [← fs.2]
          exact List.mem_map.2 ⟨p, h, rfl⟩
        have := (by decide : ∀ q ∈ [(64, 1024)], q.1 + q.2 ≤ 0x2000) _ hm
        omega
      · have e1 : p.1 = 1088 := by rw [h]
        have e2 : p.2.length = 512 := by rw [h]; exact List.length_replicate
        omega)
  obtain ⟨l, e1, hr⟩ := save_launch
  obtain ⟨hp, hd, hi, hs, hb⟩ := save_places
  have w := save_image (u := u) e1 hr save_groups.1 (Prod.eta _).symm (by rw [save_forImage, hp, hd, hi]; exact hu) (Prod.eta _).symm hb
  rw [hp, hd, hv] at w
  exact ⟨_, save_team save_groups.1 save_groups.2 hs w⟩

/-- A save of a team whose launch is there and whose save area the tables map. -/
theorem witness_FailureEvents_save : ∃ (s : State) (g : Group) (m : Team) (a : Word) (u : State), s.mgmt.devState ≠ .frozen ∧
    s.group? 0 0 = some g ∧ s.team? g.team = some m ∧ s.saveMates m = [m] ∧ m.saving = some a ∧ m.saveBad = false ∧ m.saveRec = none ∧
    (∀ h ∈ s.groups, h.team = m.key → s.deferNow h = false) ∧ s.readyToSave m = true ∧ s.saveTeams [m] = .ok u ∧
    (s.launch? m.key.uid).isSome = true :=
  let ⟨u, h⟩ := save_ok
  ⟨sSave, g0, mSaved, _, u, by decide, rfl, rfl, by decide +kernel, rfl, rfl, rfl, by decide +kernel, by decide +kernel, h, rfl⟩

theorem witness_FailureEvents_pool : ∃ (s : State) (m : Team) (l : Launch), s.mgmt.devState ≠ .frozen ∧ s.teamsOn 0 = [m] ∧
    Config.granules ≤ m.granules ∧ m.shape ≤ 1 ∧ s.launch? m.key.uid = some l ∧ l.record.idem = true ∧ m.key.origin = false ∧
    m.relaunched = false ∧ ∀ h ∈ s.groups, h.team = m.key → h.cursor = none :=
  ⟨{ base with launches := base.launches.map fun l => { l with record := { l.record with idem := true } } }, _, _, by decide, rfl,
    by decide, by decide, rfl, rfl, rfl, rfl, by decide +kernel⟩

theorem witness_FailureEvents_core :
    (∃ (s : State) (g : Group), s.mgmt.devState ≠ .frozen ∧ s.poison.contains 0 = false ∧ 0 < 240 * s.variant.dies ∧
      s.frozen.contains 0 = false ∧ s.group? 0 0 = some g ∧ s.isReady g = true ∧ g.readyAt + 1048576 ≤ s.clock) ∧
    (∃ s : State, s.mgmt.devState ≠ .frozen ∧ s.frozen.contains 0 = true ∧ s.nextStandby (dieOf 0) = some 239 ∧
      (s.engine 0).queue = [] ∧ s.dead.contains 0 = false) ∧
    ∃ s : State, s.mgmt.devState ≠ .frozen ∧ s.frozen.contains 0 = true ∧ s.nextStandby (dieOf 0) = none ∧
      s.dead.contains 0 = false :=
  ⟨⟨atClock g0 1048576, g0, by decide, by decide, by decide, by decide, rfl, by decide +kernel, by decide⟩,
    ⟨{ base with frozen := [0], standby := [(0, 239)] }, by decide, by decide, by decide, rfl, by decide⟩,
    { base with frozen := [0] }, by decide, by decide, by decide, by decide +kernel⟩

theorem witness_FailureEvents_drain : ∃ (s : State) (g : Group) (d : Word) (reg : BitVec 6) (f : Nat) (p : Partition),
    s.mgmt.devState ≠ .frozen ∧ s.group? 0 0 = some g ∧ g.drain = some (d, reg, f) ∧ f < 4 ∧ s.part? g.part = some p ∧
    (∀ h ∈ s.groups, h.part = g.part → s.openAccess d h = false) ∧ p.held = [] ∧ s.hostQ = [] :=
  let g := { g0 with drain := some (0#64, 5#6, 0) }
  ⟨withG g, g, _, _, _, _, by decide, rfl, rfl, by decide, rfl, by decide +kernel, rfl, rfl⟩

/-- Partition 0 in preparation, and running with an export of it through port 1 to partition 2 of package 3. -/
def sHost (prep : Bool) : State :=
  { base with parts := [{ loadedPartition with prep := prep }], peerWins := [⟨1, 0, 0x8003080800000000#64⟩] }

theorem witness_HostAccesses_bar2 :
    (∃ (s : State) (link : Fin 2) (p : Partition) (offset n : Nat) (pas : List Nat), s.mgmt.devState ≠ .frozen ∧ s.part? 0 = some p ∧ s.hostClear ⟨link, 0⟩ = true ∧ p.prep = true ∧
      offset + n ≤ 2 ^ 36 ∧ pas = (List.range n).filterMap (fun i => p.quotaByte (offset + i)) ∧ pas.length = n ∧
      pas.any (poisoned s) = false ∧ n = 4) ∧
    ∀ write, ∃ (s : State) (link : Fin 2) (p : Partition) (offset n : Nat) (pas : List Nat) (u : State), s.mgmt.devState ≠ .frozen ∧ s.part? 0 = some p ∧
      s.hostClear ⟨link, 0⟩ = true ∧ (∀ a ∈ pas, outside a = false) ∧ p.prep = false ∧ offset + n ≤ 2 ^ 36 ∧ hostVa s 0 write (BitVec.ofNat 64 (p.w2base.toNat * 2 ^ 36 + offset)) n = (.ok pas, u) ∧ n = 4 := by
  refine ⟨⟨sHost true, 1, _, 0x1FFFFFFC, 4, _, by decide, rfl, rfl, rfl, by decide, rfl, by decide +kernel, by decide +kernel, rfl⟩, fun write => ?_⟩
  cases write
  · exact ⟨sHost false, 1, _, 0x10000, 4, [0x50000, 0x50001, 0x50002, 0x50003], _, by decide, rfl, rfl, by decide, rfl, by decide, pair_of_fst (by decide +kernel),
      rfl⟩
  · exact ⟨sHost false, 1, _, 0x10000, 4, [0x50000, 0x50001, 0x50002, 0x50003], _, by decide, rfl, rfl, by decide, rfl, by decide, pair_of_fst (by decide +kernel),
      rfl⟩

theorem witness_HostAccesses_peer :
    (∃ (s : State) (p : Partition), s.mgmt.devState ≠ .frozen ∧ s.part? 0 = some p ∧ (p.queueAt 63).en = false ∧ s.exportOf 0 3 2 = none) ∧
    ∀ write, ∃ (s : State) (p : Partition) (w : PeerWin) (addr n : Nat) (pas : List Nat) (u : State), s.mgmt.devState ≠ .frozen ∧
      s.part? 0 = some p ∧ (∀ a ∈ pas, outside a = false) ∧ s.exportOf 1 3 2 = some w ∧ w.value.toNat / 2 ^ 36 % 64 = 0 ∧ p.prep = false ∧
      hostVa s 0 write (BitVec.ofNat 64 (w.value.toNat % 2 ^ 19 * 2 ^ 36 + addr % 2 ^ 45)) n = (.ok pas, u) ∧ n = 4 := by
  refine ⟨⟨sHost false, _, by decide, rfl, by decide +kernel, by decide +kernel⟩, fun write => ?_⟩
  cases write
  · exact ⟨sHost false, _, ⟨1, 0, 0x8003080800000000#64⟩, 0x10000, 4, [0x50000, 0x50001, 0x50002, 0x50003], _, by decide, rfl, by decide, by decide +kernel,
      by decide, rfl, pair_of_fst (by decide +kernel), rfl⟩
  · exact ⟨sHost false, _, ⟨1, 0, 0x8003080800000000#64⟩, 0x10000, 4, [0x50000, 0x50001, 0x50002, 0x50003], _, by decide, rfl, by decide, by decide +kernel,
      by decide, rfl, pair_of_fst (by decide +kernel), rfl⟩

/-- The host's read of QHEAD 63, and of a peer window entry of a part without peer ports. -/
theorem witness_HostAccesses_registers :
    (∃ (s : State) (p : Partition) (rest : List Agent), s.mgmt.devState = .ready ∧ s.part? 0 = some p ∧ (p.queueAt 63).log2n ≤ 16 ∧
      s.agenda = .read (some ⟨1, 0⟩) (32 * 63 + 16) :: rest) ∧
    ∃ (s : State) (p : Partition) (rest : List Agent), s.mgmt.devState = .ready ∧ s.part? 0 = some p ∧ s.variant.hasPeer = false ∧
      s.agenda = .read none 0x4FF8 :: rest :=
  ⟨⟨{ sHost false with agenda := [.read (some ⟨1, 0⟩) 2032] }, _, [], rfl, rfl, by decide +kernel, rfl⟩,
    { sHost false with agenda := [.read none 0x4FF8], variant := .kn960l }, _, [], rfl, rfl, rfl, rfl⟩

/-- A device that is ready and empty. -/
def sReady : State := { State.reset with mgmt := { State.reset.mgmt with devState := .ready } }

/-- A descriptor of partition 63: cluster 0, block 0 of tier 1, its table at 0. -/
def desc0 : List Byte := [63#8] ++ List.replicate 39 0#8 ++ [1#8] ++ List.replicate 31 0#8 ++ [1#8] ++ List.replicate 4607 0#8

theorem newPartition_tier2 (s : State) (d : List Byte) : (s.newPartition d).q2 = bitsOf (sliceOf d 584 4096) := rfl

theorem bitsOf_zeros (n : Nat) : bitsOf (List.replicate n 0#8) = [] := by
  have z : ∀ i, (List.replicate n (0#8 : Byte)).getD i 0#8 = 0#8 := fun i => by
    simp only [List.getD, List.getElem?_replicate]
    split <;> rfl
  unfold bitsOf
  simp only [z, List.flatMap_eq_nil_iff]
  exact fun _ _ => by simp

theorem desc0_tier2 : (sReady.newPartition desc0).q2 = [] := by
  rw [newPartition_tier2]
  have h : sliceOf desc0 584 4096 = List.replicate 4096 0#8 := by
    simp [-List.reduceReplicate, sliceOf, desc0, List.drop_append, List.drop_replicate, List.take_replicate]
  rw [h, bitsOf_zeros]

theorem desc0_good : sReady.createBad (sReady.newPartition desc0) desc0 = false := by
  simp only [State.createBad, desc0_tier2]
  decide +kernel

theorem witness_Commands_create : ∃ (s : State) (desc : List (BitVec 8)), s.mgmt.devState = .ready ∧ desc.length = 4680 ∧
    s.createBad (s.newPartition desc) desc = false :=
  ⟨sReady, desc0, rfl, by decide +kernel, desc0_good⟩

/-- A partition in preparation, its control block at 0x10000 and a co-resident supervisor record at 0x10100. -/
def pPrep : Partition := { loadedPartition with suprec := 0x10100#64, prep := true }

/-- The machine with it. -/
def sPrep : State :=
  { base with mem := writeBytes (writeBytes recordMem 0x50137 [4#8]) 0x50008 [3#8], parts := [pPrep], launches := [], teams := [], groups := [] }

theorem witness_Commands_start : ∃ (s : State) (p : Partition) (bs : List Byte) (u : State) (v : State), s.mgmt.devState = .ready ∧
    s.part? 0 = some p ∧ p.prep = true ∧ p.halted = false ∧ devRead s 0 0 p.tqcb 64 = (.ok bs, u) ∧ controlOk bs = true ∧
    (u.modPart 0 fun _ => { p with tqBase := BitVec.ofNat 64 (fieldAt bs 0 8), tqLog := fieldAt bs 8 1, prep := false }).placeSupervisor
      { p with tqBase := BitVec.ofNat 64 (fieldAt bs 0 8), tqLog := fieldAt bs 8 1, prep := false } = some v :=
  ⟨sPrep, pPrep, readAt sPrep.mem ((List.range 64).map (0x50000 + ·)), _, _, rfl, rfl, rfl, rfl, pair_of_fst (by decide +kernel),
    by decide +kernel, some_getD sPrep (by decide +kernel)⟩

theorem witness_Commands_supervisor : ∃ (s : State) (p : Partition) (v : State), s.mgmt.devState = .ready ∧ s.part? 0 = some p ∧
    p.prep = false ∧ p.halted = false ∧ (∀ l ∈ s.launches, l.part = 0 → l.super = true → l.done = true) ∧ s.placeSupervisor p = some v :=
  ⟨{ sPrep with parts := [{ pPrep with prep := false }] }, { pPrep with prep := false }, _, rfl, rfl, rfl, rfl,
    fun l h => (List.not_mem_nil h).elim, some_getD sPrep (by decide +kernel)⟩

theorem witness_Commands_management : ∃ (s : State) (e : BoxEntry), s.mgmt.devState = .ready ∧ 3 < s.variant.dies ∧
    s.bbox.find? (fun e => e.die == 3 && e.seq == BitVec.ofNat 32 (0 + 63)) = some e ∧ s.mgmt.verifies (blankImage true) = true ∧
    s.mgmt.verifies (blankImage false) = true :=
  ⟨{ sReady with bbox := [⟨3, 0, 7#8, 255, 63#32, []⟩] }, _, rfl, by decide, rfl, by decide +kernel, by decide +kernel⟩

/-- Two partitions, each with a group of its own. -/
def sApart : State :=
  { base with
    parts := [loadedPartition, { loadedPartition with num := 1, clusters := [1], q1 := [1] }]
    launches := base.launches ++ base.launches.map fun l => { l with uid := 1, part := 1 }
    teams := base.teams ++ base.teams.map fun t => { t with key := ⟨1, 0, false⟩, part := 1, core := 8 }
    groups := [g0, { g0 with part := 1, team := ⟨1, 0, false⟩, core := 8 }] }

theorem witness_Commands_destroy : ∃ (s : State) (p : Partition), s.mgmt.devState = .ready ∧ s.part? 0 = some p ∧ Apart s 0 ∧
    ∃ g ∈ s.groups, g.part ≠ 0 :=
  ⟨sApart, loadedPartition, rfl, rfl, ⟨by decide +kernel, by decide +kernel, (fun _ h => nomatch h), (fun _ h => nomatch h),
    fun l hl => ⟨(by decide +kernel : ∀ l ∈ sApart.launches, ∀ g ∈ sApart.groups, g.team.uid = l.uid → g.part = l.part) l hl,
      (by decide +kernel : ∀ l ∈ sApart.launches, ∀ m ∈ sApart.teams, m.key.uid = l.uid → m.part = l.part) l hl, (fun _ h => nomatch h)⟩,
    (fun _ h => nomatch h), by decide +kernel⟩, by decide +kernel⟩

/-- The commands of a frozen device. -/
theorem witness_Commands_frozen : ∃ (s : State) (p : Partition), s.mgmt.devState = .frozen ∧ s.part? 0 = some p ∧ p.halted = false ∧
    s.mgmt.verifies (blankImage true) = true :=
  ⟨{ base with mgmt := { base.mgmt with devState := .frozen } }, _, rfl, rfl, rfl, by decide +kernel⟩

theorem witness_BringUps :
    (∃ (s : State) (core first n : Nat), s.mgmt.devState = .frozen ∧ core < 240 * s.variant.dies ∧ first + n < 2 ^ 64 ∧ 0 < n ∧ core = 959) ∧
    ∃ s : State, s.mgmt.verifies s.mgmt.fw = true ∧ s.mgmt.verifies s.mgmt.cfg = true ∧ s.mgmt.fw.firmware = true ∧ s.mgmt.cfg.firmware = false :=
  ⟨⟨{ State.reset with mgmt := { State.reset.mgmt with devState := .frozen } }, 959, 0, 64, rfl, by decide, by decide, by decide, rfl⟩,
    State.reset, by decide +kernel, by decide +kernel, rfl, rfl⟩

/-- A lane in repair. -/
def sLink (failures : Nat) : State := { base with links := [⟨4, 0, 64, Vector.replicate 4 ⟨64, 0#32⟩, [], 0, true, failures, false⟩] }

theorem witness_FabricEvents_lanes :
    (∃ (s : State) (lane : LinkLane), s.mgmt.devState ≠ .frozen ∧ s.variant.hasLane lane = true ∧ (s.laneAt lane).down = false ∧
      (s.laneAt lane).retraining = false ∧
      (∀ d, d ≤ 9 → ∃ freed, (freed - ((s.laneAt lane).audited lane.cls freed s.draws).1.ret).toNat = d) ∧
      ((s.laneAt lane).mismatches.filter fun k => decide (s.fclock < k + 2000000)).length < 4) ∧
    (∃ (s : State) (lane : LinkLane), s.mgmt.devState ≠ .frozen ∧ s.variant.hasLane lane = true ∧ (s.laneAt lane).down = false ∧
      (s.laneAt lane).retraining = true ∧ (s.laneAt lane).failures < 2) ∧
    (∃ (s : State) (lane : LinkLane) (die : Nat) (q : Partition), s.mgmt.devState ≠ .frozen ∧ s.variant.hasLane lane = true ∧
      (s.laneAt lane).down = false ∧ (s.laneAt lane).retraining = true ∧ 2 ≤ (s.laneAt lane).failures ∧
      s.variant.link lane.link = some (.hub die) ∧ q ∈ s.parts ∧ q.touches s.variant die = true) ∧
    ∃ (s : State) (lane : LinkLane), s.mgmt.devState ≠ .frozen ∧ s.variant.hasLane lane = false ∧ lane.link = 1 ∧ s.variant = .kn480 :=
  ⟨⟨base, ⟨0, 0, 0⟩, by decide, by decide, by decide +kernel, by decide +kernel, fun d hd =>
      ⟨BitVec.ofNat 32 d + (((base.laneAt ⟨0, 0, 0⟩).win 0).ret + BitVec.ofNat 32 (Config.creditsReturned base.draws)), by
        show (BitVec.ofNat 32 d + (((base.laneAt ⟨0, 0, 0⟩).win 0).ret + BitVec.ofNat 32 (Config.creditsReturned base.draws)) -
          (((base.laneAt ⟨0, 0, 0⟩).win 0).ret + BitVec.ofNat 32 (Config.creditsReturned base.draws))).toNat = d
        rw [BitVec.add_sub_cancel]
        simp only [BitVec.toNat_ofNat]
        omega⟩, by decide +kernel⟩,
    ⟨sLink 1, ⟨4, 0, 0⟩, by decide, by decide, by decide +kernel, by decide +kernel, by decide +kernel⟩,
    ⟨sLink 2, ⟨4, 0, 0⟩, 0, loadedPartition, by decide, by decide, by decide +kernel, by decide +kernel, by decide +kernel, by decide,
      List.mem_singleton.2 rfl, by decide +kernel⟩,
    { base with variant := .kn480 }, ⟨1, 0, 0⟩, by decide, by decide, rfl, rfl⟩

theorem witness_FabricEvents_device :
    (∃ s : State, s.mgmt.devState ≠ .frozen ∧ 3 < s.variant.dies ∧ s.failed.contains (3, 31) = false ∧ 0 < s.variant.cxlPorts ∧
      s.deadPorts.contains 0 = false ∧ s.mgmt.pcap < 2401) ∧
    ∃ (s : State) (q : Partition), s.mgmt.devState ≠ .frozen ∧ s.failed.contains (0, 8) = true ∧ q ∈ s.parts ∧ s.needsRouter q 0 8 = true :=
  ⟨⟨base, by decide, by decide, by decide, by decide, by decide, by decide⟩,
    { base with failed := [(0, 8)] }, loadedPartition, by decide, by decide, List.mem_singleton.2 rfl, by decide +kernel⟩

/-- A group with its budgets used up, with a handler or without. -/
def poor (land : Word) (g : Group) : Group := { g with ibud := 0, mbud := 0, landing := { g.landing with land := land } }

/-- A group that has units and no sectors, and a handler. -/
def noSector (g : Group) : Group := { g with mbud := 0, landing := { g.landing with land := 0x200#64 } }

/-- A group without a unit of budget. -/
def gPoor (land : Word) : Group := poor land g0

/-- The same word in a supervisor launch. -/
def super (s : State) : State := { s with launches := s.launches.map fun l => { l with super := true } }

/-- The word is short of budget by its units, or by its sectors alone, and its group has a handler. -/
def isShort (sectors : Bool) (i : Instr) (s : State) (g : Group) : Prop :=
  ∃ u n, Reaches i s g (ctx g) ∧ Asks (ctx g) s g i u n ∧ g.landing.land ≠ 0#64 ∧ g.landing.inres = false ∧
    if sectors then (g.frag 0).owes ((useIn (ctx g).hs i).charge + u) ≤ g.ibud ∧ g.mbud < (g.frag 0).owes n
    else g.ibud < (g.frag 0).owes ((useIn (ctx g).hs i).charge + u)

theorem witness_ShortBudgets_words :
    isShort false (.add 0#3 0#2 5#6 1#6 2#6) (withG (gPoor 0x200#64)) (gPoor 0x200#64) ∧
    isShort false (.gets 0#3 5#6 0x20#6) (withG (gPoor 0x200#64)) (gPoor 0x200#64) ∧
    isShort false (.split 0#3 5#6 1#4 2#6) (withG (gPoor 0x200#64)) (gPoor 0x200#64) ∧
    isShort false (.exit 0#3) (withG (gPoor 0x200#64)) (gPoor 0x200#64) ∧
    isShort false (.tzero 0#3 7#3) (withG (gPoor 0x200#64)) (gPoor 0x200#64) ∧
    isShort false (.accz 0#3 0#2 7#3) (withG (gPoor 0x200#64)) (gPoor 0x200#64) ∧
    isShort false (.tlbconf 0#3 5#6 1#6) (withG (gPoor 0x200#64)) (gPoor 0x200#64) ∧
    isShort false (.yield 0#3 1#6) (withG (gPoor 0x200#64)) (gPoor 0x200#64) :=
  have h : ∀ i, comes (withG (gPoor 0x200#64)) (gPoor 0x200#64) i = true → Reaches i (withG (gPoor 0x200#64)) (gPoor 0x200#64) (ctx (gPoor 0x200#64)) :=
    fun _ h => reaches h
  ⟨⟨0, 0, h _ (by decide +kernel), .plain _ (by decide +kernel), by decide, rfl, by decide +kernel⟩,
    ⟨0, 0, h _ (by decide +kernel), .gets _ _ _ (fun _ => by decide), by decide, rfl, by decide +kernel⟩,
    ⟨0, 0, h _ (by decide +kernel), .split _ _ _ _ (by decide +kernel), by decide, rfl, by decide +kernel⟩,
    ⟨0, 0, h _ (by decide +kernel), .exit _ (.inr (by decide +kernel)), by decide, rfl, by decide +kernel⟩,
    ⟨0, 0, h _ (by decide +kernel), .tzero _ _ (by decide +kernel), by decide, rfl, by decide +kernel⟩,
    ⟨0, 0, h _ (by decide +kernel), .accz _ _ _ (by decide +kernel), by decide, rfl, by decide +kernel⟩,
    ⟨0, 0, h _ (by decide +kernel), .tlbconf _ _ _ rfl, by decide, rfl, by decide +kernel⟩,
    0, 0, h _ (by decide +kernel), .yield _ _ (by decide +kernel), by decide, rfl, by decide +kernel⟩

/-- A load, a load of a buffer, a copy out of global memory, a drawn triple, and a launch whose record is read: short by their sectors. -/
theorem witness_ShortBudgets_sectors :
    isShort true (.pref 0#3 0#2 1#6 0#6) (withG (noSector g0)) (noSector g0) ∧
    isShort true (.ldv 0#3 0#2 5#6 1#6 0#6 2#2) (withG (noSector gData)) (noSector gData) ∧
    isShort true (.ldb 0#3 0#2 5#6 1#4 0#6 2#2) (withG (noSector gBuf)) (noSector gBuf) ∧
    isShort true (.gtrip 0#3 8#6 0#2) (sess (withG (noSector gGate))) (noSector gGate) ∧
    isShort true (.launch 0#3 5#6 1#6) { withG (noSector gArg) with mem := recordMem } (noSector gArg) ∧
    isShort true (.emit 0#3 5#6 1#6) (withG (noSector gArg)) (noSector gArg) ∧
    isShort true (.spawn 0#3 5#6 2#6 1#6) (withG (noSector gArg)) (noSector gArg) ∧
    isShort true (.yield 0#3 1#6) (withG (noSector gArg)) (noSector gArg) :=
  ⟨⟨0, 2, reaches (by decide +kernel), .advance _ _ (by decide +kernel), by decide, rfl, by decide +kernel⟩,
    ⟨0, _, reaches (by decide +kernel), .access _ _ rfl (by decide +kernel) (.inr (memRoom_free (by decide +kernel) (by decide +kernel))),
      by decide, rfl, by decide +kernel⟩,
    ⟨0, _, reaches (by decide +kernel), .buffer _ _ _ _ _ _ rfl (by decide +kernel) (.inr (memRoom_free (by decide +kernel) (by decide +kernel))),
      by decide, rfl, by decide +kernel⟩,
    ⟨0, _, reaches (by decide +kernel), .gate _ _ _ _ _ _ _ _ rfl (by decide +kernel) (by decide) trivial (fun _ => by decide +kernel) (by decide +kernel),
      by decide, rfl, by decide +kernel⟩,
    ⟨_, _, reaches (by decide +kernel), .launch _ _ _ (argBytes { withG (noSector gArg) with mem := recordMem } 256) 8 _ (room_free (by decide +kernel)) (by decide +kernel)
      (by decide +kernel) (pair_of_fst (by decide +kernel)) (by decide +kernel), by decide, rfl, by decide +kernel⟩,
    ⟨_, _, reaches (by decide +kernel), .emit _ _ _ (argBytes (withG (noSector gArg)) 64) 2 _ cut0 (room_free (by decide +kernel)) (by decide +kernel) (by decide +kernel)
      (pair_of_fst (by decide +kernel)) (by decide +kernel), by decide, rfl, by decide +kernel⟩,
    ⟨_, _, reaches (by decide +kernel), .spawn _ _ _ _ (argBytes (withG (noSector gArg)) 64) 2 _ cut0 (room_free (by decide +kernel)) (by decide +kernel) (by decide +kernel)
      (by decide +kernel) (pair_of_fst (by decide +kernel)) (by decide +kernel), by decide, rfl, by decide +kernel⟩,
    0, 2, reaches (by decide +kernel), .yieldTo _ _ (argBytes (withG (noSector gArg)) 64) 2 _ cut0 (room_free (by decide +kernel)) (by decide +kernel) (by decide +kernel)
      (by decide +kernel) (by decide +kernel) (pair_of_fst (by decide +kernel)) (by decide +kernel) (.inl (by decide +kernel)), by decide, rfl, by decide +kernel⟩

/-- A copy, a window word, a tile load, a multiply, gate words on tiles and a `gsess`. -/
theorem witness_ShortBudgets_engines :
    isShort false (.cpyFromScratchpad 0#3 1#6 2#6 3#6 1#2) (withG (poor 0x200#64 (gCopy 256#64))) (poor 0x200#64 (gCopy 256#64)) ∧
    isShort false (.lds 0#3 0#2 5#6 1#6 0#6 2#2) (withG (gPoor 0x200#64)) (gPoor 0x200#64) ∧
    isShort false (.mma 0#3 0#2 2#3 3#3 0#3 1#3) (withG (poor 0x200#64 gMma)) (poor 0x200#64 gMma) ∧
    isShort false (.gmaskt 0#3 0#3 6#3 7#3) (sess (withG (poor 0x200#64 (gTriple .slot)))) (poor 0x200#64 (gTriple .slot)) ∧
    isShort false (.gopent 0#3 0#3) (sess (withG (poor 0x200#64 (gTriple .posted)))) (poor 0x200#64 (gTriple .posted)) ∧
    isShort false (.gsess 0#3 5#6 1#6) { sSess with groups := [poor 0x200#64 gArg] } (poor 0x200#64 gArg) ∧
    isShort false (.tlbdrain 0#3 1#6) (withG (gPoor 0x200#64)) (gPoor 0x200#64) :=
  ⟨⟨0, 0, reaches (by decide +kernel), .copy _ (.linear (.window none 0) (.window none 0x400) 256) 0 256 (by decide +kernel) (by decide +kernel)
      (by decide +kernel) (by decide +kernel) (fun h => absurd h (by decide +kernel)) (room_free (by decide +kernel)), by decide, rfl, by decide +kernel⟩,
    ⟨0, 0, reaches (by decide +kernel), .window _ _ _ _ _ _ rfl (by decide +kernel) (fun h => absurd h (by decide)), by decide, rfl, by decide +kernel⟩,
    ⟨0, 0, reaches (by decide +kernel), .mma _ _ _ _ _ _ (by decide +kernel) (by decide +kernel), by decide, rfl, by decide +kernel⟩,
    ⟨0, 0, reaches (by decide +kernel), .gmaskt _ _ _ _ (by decide +kernel) (by decide)
      ⟨⟨7#64, by decide +kernel, by decide +kernel⟩, by decide +kernel, by decide +kernel⟩ (by decide +kernel) (by decide +kernel), by decide, rfl,
      by decide +kernel⟩,
    ⟨0, 0, reaches (by decide +kernel), .gopent _ _ (by decide +kernel) (by decide) ⟨7#64, by decide +kernel⟩ (by decide +kernel), by decide, rfl,
      by decide +kernel⟩,
    ⟨0, 0, reaches (by decide +kernel), .gsess _ _ _ (by decide +kernel) (by decide +kernel) (memRoom_free (by decide +kernel) (by decide +kernel)),
      by decide, rfl, by decide +kernel⟩,
    0, 0, reaches (by decide +kernel), .tlbdrain _ _ loadedPartition rfl (by decide +kernel) (by decide), by decide, rfl, by decide +kernel⟩

/-- Words of a deterministic launch, short by their unit: a store, a post, a copy, a cutting. -/
theorem witness_ShortBudgets_det :
    isShort false (.mpost 0#3 5#6 1#6 2#6) (det (withG (gPoor 0x200#64))) (gPoor 0x200#64) ∧
    isShort false (.stp 0#3 0#2 5#6 1#6 0#6 0#2) (det (withG (gPoor 0x200#64))) (gPoor 0x200#64) ∧
    isShort false (.cpyFromScratchpad 0#3 1#6 2#6 3#6 1#2) (det (withG (poor 0x200#64 (gCopy 256#64)))) (poor 0x200#64 (gCopy 256#64)) ∧
    isShort true (.emit 0#3 5#6 1#6) (det (withG (noSector gArg))) (noSector gArg) :=
  ⟨⟨0, 0, reaches (by decide +kernel), .mpost _ _ _ _ (fun _ => .inl (by decide +kernel)) (.inl (by decide +kernel)) (by decide +kernel), by decide, rfl,
      by decide +kernel⟩,
    ⟨0, 0, reaches (by decide +kernel), .window _ _ _ _ _ _ rfl (by decide +kernel) (fun _ _ => .inl (by decide +kernel)), by decide, rfl,
      by decide +kernel⟩,
    ⟨0, 0, reaches (by decide +kernel), .copy _ (.linear (.window none 0) (.window none 0x400) 256) 0 256 (by decide +kernel) (by decide +kernel)
      (by decide +kernel) (by decide +kernel) (fun _ => by decide +kernel) (fun _ => .inl (by decide +kernel)), by decide, rfl, by decide +kernel⟩,
    _, _, reaches (by decide +kernel), .emit _ _ _ (argBytes (withG (noSector gArg)) 64) 2 _ cut0 (fun _ => .inl (by decide +kernel)) (by decide +kernel)
      (by decide +kernel) (pair_of_fst (by decide +kernel)) (by decide +kernel), by decide, rfl, by decide +kernel⟩

/-- The group in a clamp landing of a deterministic launch. -/
def gAside (ibud : Nat) : Group := { gVec with aside := some (0, 0, gVec.landing, []), ibud := ibud }

/-- A banned word comes to its charge there, and is short, or traps. -/
theorem witness_clampLanding : ∀ n, n = 0 ∨ n = 1 → ∃ (i : Instr) (s : State) (g : Group) (x : Ctx), Comes i s g x ∧ g.aside.isSome = true ∧
    bannedAside i = true ∧ if n = 0 then g.ibud < (g.frag x.fid).owes (useIn x.hs i).charge else (g.frag x.fid).owes (useIn x.hs i).charge ≤ g.ibud := by
  have c : ∀ n, Comes (.pegref 0#3 1#6) (det (withG (gAside n))) (gAside n) (ctx (gAside n)) := fun n =>
    ⟨rfl, rfl, rfl, Nat.zero_lt_succ 3, rfl, rfl, rfl, rfl, .inl rfl⟩
  intro n h
  rcases h with rfl | rfl
  · exact ⟨_, _, _, _, c 0, rfl, rfl, by decide +kernel⟩
  · exact ⟨_, _, _, _, c 1, rfl, rfl, by decide +kernel⟩

/-- The hard path, of a supervisor's group and of another; and a hint word. -/
theorem witness_ShortBudgets :
    (∀ b, ∃ (i : Instr) (s : State) (g : Group) (x : Ctx) (l : Launch), Reaches i s g x ∧ Asks x s g i 0 0 ∧
      g.ibud < (g.frag x.fid).owes ((useIn x.hs i).charge + 0) ∧ s.launch? g.team.uid = some l ∧ g.landing.land = 0#64 ∧ l.super = b ∧
      (s.team? g.team).any (fun m => m.saving.isNone) = true ∧ (s.part? g.part).any (fun p => !p.halted) = true) ∧
    ∃ (i : Instr) (s : State) (g : Group), Sys2Proof.Machine.Instr.isHint i = true ∧ s.cur = some (0, 0, 0) ∧ s.group? 0 0 = some g ∧
      (g.frag 0).state = .ready ∧ g.ibud = 0 ∧ g.landing.land ≠ 0#64 ∧ g.landing.inres = false := by
  let i := Instr.add 0#3 0#2 5#6 1#6 2#6
  refine ⟨fun b => ?_, .imx 5#22, withG (gPoor 0x200#64), gPoor 0x200#64, rfl, rfl, rfl, by decide +kernel, rfl, by decide, rfl⟩
  cases b
  · exact ⟨i, withG (gPoor 0#64), gPoor 0#64, ctx (gPoor 0#64), _, reaches (by decide +kernel), .plain _ (by decide +kernel), by decide +kernel, rfl,
      rfl, rfl, by decide +kernel, by decide +kernel⟩
  · exact ⟨i, super (withG (gPoor 0#64)), gPoor 0#64, ctx (gPoor 0#64), _, reaches (by decide +kernel), .plain _ (by decide +kernel), by decide +kernel,
      rfl, rfl, rfl, by decide +kernel, by decide +kernel⟩

/-- A group of 16 vector registers that takes its traps itself, or has none taken. -/
def gFew (own : Bool) : Group := { (if own then gVec else g0) with valloc := 16, privl := false }

theorem witness_PreciseTraps : ∀ own, ∃ (i : Instr) (s : State) (g : Group) (c : Cause) (a : Word), isEvent i = false ∧
    Sys2Proof.Machine.Instr.isHint i = false ∧ s.cur = some (0, 0, 0) ∧ s.group? 0 0 = some g ∧ (g.frag 0).state = .ready ∧
    unitFault s g (g.frag 0).hints i = some (c, a) ∧ g.takesInGroup (.precise c a (g.frag 0).pc) = own ∧ g.privl = false ∧
    s.variant.hasGate = true ∧ g.valloc ≤ 16 := by
  intro own
  cases own
  · exact ⟨.vmovS 0#3 0#2 16#6 1#6, withG (gFew false), gFew false, .vreg, 16#64, by decide, by decide, rfl, rfl, by decide +kernel,
      by decide +kernel, by decide +kernel, rfl, by decide, by decide⟩
  · exact ⟨.vmovS 0#3 0#2 16#6 1#6, withG (gFew true), gFew true, .vreg, 16#64, by decide, by decide, rfl, rfl, by decide +kernel,
      by decide +kernel, by decide +kernel, rfl, by decide, by decide⟩

/-- The machine of `withFetchWord` before its first step, with an `add`. -/
def sAdd : State := State.reset.withFetchWord 32 0b00000000011100010100011100100100

theorem witness_StepRunsDecoded_word : ∃ (s : State) (rest : List Agent) (core slot fid : Nat) (g : Group) (w : BitVec 32) (t : State) (i : Instr),
    s.agenda = .issue core slot :: rest ∧ s.mgmt.withheld = false ∧ s.mgmt.devState = .ready ∧
    State.group? { s with agenda := rest } core slot = some g ∧ State.candidate { s with agenda := rest } g = some fid ∧
    ((State.choice { s with agenda := rest } core (State.slotClass { s with agenda := rest } g fid)).elim false fun y => y.1.slot == slot) = true ∧
    State.deferNow { s with agenda := rest } g = false ∧ g.clampPend = false ∧ hintWord w = false ∧
    State.fetchWord { s with agenda := rest } g.part (.ofCore g.core)
      ((g.frag fid).pc + BitVec.ofNat 64 (4 * (g.frag fid).hints.length)) = (.word w, t) ∧ decode w = .ok i :=
  ⟨sAdd, [], 0, 0, 0, g0, 0b00000000011100010100011100100100#32, _, .add 1#3 3#2 5#6 7#6 9#6, rfl, rfl, rfl, rfl, by decide +kernel,
    by decide +kernel, by decide +kernel, rfl, by decide +kernel, pair_of_fst (by decide +kernel), rfl⟩

/-- The same with a unit of an `imx` word and an `addi`. -/
def sUnit : State :=
  { State.reset.withFetchWord 32 0 with
    mem := wordBytesAt (writeBytes base.mem 0x40000 (bytesOfWord 0b11111110000000000000000000000001#32)) 0x40004
      0b00010000011100010100011100001001#32 }

theorem witness_StepRunsDecoded_unit : ∀ d, ∃ (s : State) (rest : List Agent) (core slot fid : Nat) (g : Group) (w : BitVec 32) (t u : State) (i : Instr)
    (ws : List (BitVec 32)) (v : Option (BitVec 32)) (h : Instr) (is : List Instr),
    s.agenda = .issue core slot :: rest ∧ s.mgmt.withheld = false ∧ s.mgmt.devState = .ready ∧
    State.group? { s with agenda := rest } core slot = some g ∧ State.candidate { s with agenda := rest } g = some fid ∧
    ((State.choice { s with agenda := rest } core (State.slotClass { s with agenda := rest } g fid)).elim false fun y => y.1.slot == slot) = true ∧
    (g.frag fid).hints = [] ∧
    State.deferNow { s with agenda := rest } g = false ∧ g.clampPend = false ∧
    State.fetchWord { s with agenda := rest } g.part (.ofCore g.core)
      (g.frag fid).pc = (.word w, t) ∧ hintWord w = true ∧ t.fetchUnit g.part (.ofCore g.core) ((g.frag fid).pc + 4#64) 9007199254740992 [w] = (.ok (ws, v), u) ∧
    unitOf u g ws v = .ok (h :: is, i) ∧ quantumBefore (u.isDet g) g 0 i = false ∧ u.isDet g = d ∧
    (d = true → (u.withUnit g fid (h :: is)).unitWaits g.core g.slot fid i = none) := by
  intro d
  cases d
  · exact ⟨sUnit, [], 0, 0, 0, g0, 0b11111110000000000000000000000001#32, _, _, .addi 1#3 3#2 5#6 7#6 9#8, [0b11111110000000000000000000000001#32],
      some 0b00010000011100010100011100001001#32, .imx 1#22, [], rfl, rfl, rfl, rfl, by decide +kernel, by decide +kernel, rfl, by decide +kernel,
      rfl, pair_of_fst (by decide +kernel), by decide +kernel, pair_of_fst (by decide +kernel), by decide +kernel, by decide +kernel, by decide +kernel,
      fun h => nomatch h⟩
  · exact ⟨det sUnit, [], 0, 0, 0, g0, 0b11111110000000000000000000000001#32, _, _, .addi 1#3 3#2 5#6 7#6 9#8, [0b11111110000000000000000000000001#32],
      some 0b00010000011100010100011100001001#32, .imx 1#22, [], rfl, rfl, rfl, rfl, by decide +kernel, by decide +kernel, rfl, by decide +kernel,
      rfl, pair_of_fst (by decide +kernel), by decide +kernel, pair_of_fst (by decide +kernel), by decide +kernel, by decide +kernel, by decide +kernel,
      fun _ => some_none (by decide +kernel)⟩

theorem witness_StepRunsDecoded_event : ∃ (s : State) (rest : List Agent) (i : Instr), s.agenda = .event i :: rest ∧ isEvent i = true :=
  ⟨{ base with agenda := [.event .powerOn] }, [], .powerOn, rfl, by decide⟩

theorem witness_StepRunsDecoded_fetch : ∃ (s t : State) (part : Nat) (site : Site) (a : Word) (pa e : Nat), a.toNat < 2 ^ 55 ∧
    Machine.translate s part site a.toNat = (.ok pa e, t) ∧ natBit e 6 = false ∧ natBit e 3 = false ∧ poisoned t pa = false :=
  ⟨sAdd, _, 0, .ofDie 0, 0#64, 0x40000, 0x40001, by decide, pair_of_fst (by decide +kernel), by decide, by decide, by decide +kernel⟩

theorem witness_DecodeEncode : ∃ (i : Instr) (w : BitVec 32), Sys2Proof.Instr.wellFormed i = true ∧ encode i = some w ∧ decode w = .ok i :=
  ⟨.add 1#3 3#2 5#6 7#6 9#6, 0b00000000011100010100011100100100#32, by decide, by decide, by decide⟩

theorem witness_StepKeepsMemoryForm : ∃ s t : State, s.Inv ∧ step s = .next t :=
  ⟨{ base with agenda := [.idle 1] }, _, by unfold State.Inv; decide +kernel, rfl⟩

theorem witness_FrozenStays :
    (∃ (s : State) (i : Instr) (t : State), s.mgmt.devState = .frozen ∧ isEvent i = true ∧ exec i s = .next t) ∧
    (∃ s : State, s.mgmt.devState = .ready) ∧
    (∃ (s : State) (a : Agent) (rest : List Agent), s.mgmt.devState = .frozen ∧ s.agenda = a :: rest ∧ (∀ i, a ≠ .event i) ∧
      ∀ fn o, a ≠ .read fn o) ∧
    ∃ (s : State) (fn : Option HostPort) (o : Nat) (rest : List Agent), s.mgmt.devState = .frozen ∧ s.agenda = .read fn o :: rest :=
  let s : State := { base with mgmt := { base.mgmt with devState := .frozen }, agenda := [.issue 0 0] }
  ⟨⟨s, .freezeN, _, rfl, by decide, rfl⟩, ⟨base, rfl⟩, ⟨s, .issue 0 0, [], rfl, rfl, fun i h => (by cases h), fun fn o h => (by cases h)⟩,
    { s with agenda := [.read none 0] }, none, 0, [], rfl, rfl⟩

/-! Ill-formed terms, one for each check of WellFormed.lean, which the check refuses. -/

theorem test_illformed_scalar :
    ([.add 0#3 0#2 0#6 0#6 0#6, .shli 0#3 0#2 1#6 2#6 64#8, .shri 0#3 0#2 1#6 2#6 64#8, .srai 0#3 0#2 1#6 2#6 255#8,
      .gets 0#3 1#6 0x06#6, .sets 0#3 0x01#6 1#6, .sets 0#3 0x32#6 1#6, .sets 0#3 0x0C#6 1#6] : List Instr).any Sys2Proof.Instr.wellFormed = false := by decide

theorem test_illformed_vector :
    ([.vcmp 0#3 0#2 6#3 1#4 1#6 2#6 0#1, .vcmp 0#3 0#2 0#3 0#4 1#6 2#6 0#1, .vshli 0#3 0#2 1#6 2#6 32#8, .vshri 0#3 0#2 1#6 2#6 32#8,
      .vsrai 0#3 0#2 1#6 2#6 32#8, .vred 0#3 0#2 1#6 2#6 11#6] : List Instr).any Sys2Proof.Instr.wellFormed = false := by decide

theorem test_illformed_float :
    ([.fcmp 0#3 0#2 7#3 1#4 1#6 2#6 0#1, .fcmp 0#3 0#2 0#3 0#4 1#6 2#6 0#1, .cvt 0#3 0#2 1#6 2#6 7#3 0#3, .cvt 0#3 0#2 1#6 2#6 0#3 7#3,
      .cvt 0#3 0#2 1#6 2#6 3#3 3#3, .cvtSr 0#3 0#2 1#6 2#6 0#3 3#3, .cvtSr 0#3 0#2 1#6 2#6 1#3 7#3, .cvtSr 0#3 0#2 1#6 2#6 5#3 5#3]
      : List Instr).any Sys2Proof.Instr.wellFormed = false := by decide

theorem test_illformed_masks :
    ([.kand 0#3 0#4 1#4 2#4, .kor 0#3 0#4 1#4 2#4, .kxor 0#3 0#4 1#4 2#4, .kandn 0#3 0#4 1#4 2#4, .knot 0#3 0#4 1#4, .kmovK 0#3 0#4 1#4,
      .kmovS 0#3 0#4 1#6] : List Instr).any Sys2Proof.Instr.wellFormed = false := by decide

theorem test_illformed_memory :
    ([.ldv 0#3 0#2 63#6 1#6 2#6 3#2, .stv 0#3 0#2 63#6 1#6 2#6 3#2, .lds 0#3 0#2 63#6 1#6 2#6 3#2, .sts 0#3 0#2 63#6 1#6 2#6 3#2,
      .ldb 0#3 0#2 63#6 1#4 2#6 3#2, .stb 0#3 0#2 63#6 1#4 2#6 3#2, .ldacq 0#3 0#2 1#6 2#6 6#3 0#1, .strel 0#3 0#2 1#6 2#6 6#3 0#1,
      .atom 0#3 0#2 63#6 1#6 2#6 1#1, .red 0#3 0#2 63#6 1#6 2#6 1#1, .fence 0#3 6#3] : List Instr).any Sys2Proof.Instr.wellFormed = false := by decide

theorem test_illformed_streams :
    ([.cpyFromGlobal 0#3 1#6 2#6 3#6 3#2, .cpyFromScratchpad 0#3 1#6 2#6 3#6 3#2, .cpyFromPeer 0#3 1#6 2#6 3#6 3#2, .seal 0#3 1#6 2#6 3#6 3#2,
      .waitb 0#3 3#2 0#8, .mma 0#3 0#2 6#3 0#3 1#3 2#3, .mmaq 0#3 0#2 1#3 0#3 1#6 0#3 1#3 0#2, .mmaq 0#3 0#2 2#3 0#3 1#6 0#3 1#3 3#2]
      : List Instr).any Sys2Proof.Instr.wellFormed = false := by decide

theorem test_illformed_gate :
    ([.gtrip 0#3 1#6 3#2, .gtrip 0#3 60#6 0#2, .gtrip 0#3 55#6 2#2, .gmask 0#3 60#6 1#6 2#6 1#2, .gmask 0#3 1#6 63#6 2#6 2#2,
      .gmask 0#3 1#6 20#6 63#6 2#2, .gopen 0#3 60#6 0#2, .gfin 0#3 63#6 1#6 2#2, .gfin 0#3 1#6 60#6 0#2, .gtrunc 0#3 1#6 2#6 32#6,
      .gtript 0#3 4#3, .gmaskt 0#3 4#3 1#3 2#3, .gopent 0#3 4#3, .mod 6#3 0#5 0#1 0#1 0#1 0#1 0#1 0#1] : List Instr).any Sys2Proof.Instr.wellFormed = false := by
  decide

/-- The last value that each check admits. -/
theorem test_wellformed_edges :
    ([.shli 0#3 0#2 1#6 2#6 63#8, .gets 0#3 1#6 0x38#6, .sets 0#3 0x19#6 1#6, .vcmp 0#3 0#2 5#3 1#4 1#6 2#6 0#1, .vshli 0#3 0#2 1#6 2#6 31#8,
      .vred 0#3 0#2 1#6 2#6 10#6, .fcmp 0#3 0#2 6#3 15#4 1#6 2#6 0#1, .cvt 0#3 0#2 1#6 2#6 6#3 0#3, .cvtSr 0#3 0#2 1#6 2#6 5#3 6#3,
      .ldv 0#3 0#2 62#6 1#6 2#6 3#2, .ldv 0#3 0#2 63#6 1#6 2#6 2#2, .fence 0#3 5#3, .seal 0#3 1#6 2#6 3#6 2#2, .mma 0#3 0#2 5#3 0#3 1#3 2#3,
      .mmaq 0#3 0#2 3#3 0#3 1#6 0#3 1#3 2#2, .gtrip 0#3 54#6 2#2, .gfin 0#3 62#6 54#6 2#2, .gtript 0#3 3#3,
      .mod 5#3 0#5 0#1 0#1 0#1 0#1 0#1 0#1] : List Instr).all Sys2Proof.Instr.wellFormed = true := by decide

/-! The word of every constructor, its fields filled with small different numbers, written out from the encoding of chapter 3. -/

theorem test_decode_scalar_1 :
    decode 0b00000000011100010100011100100100#32 = .ok (.add 1#3 3#2 5#6 7#6 9#6) ∧
    decode 0b00000000011100010100011100100101#32 = .ok (.sub 1#3 3#2 5#6 7#6 9#6) ∧
    decode 0b00000000011100010100011100100110#32 = .ok (.mul 1#3 3#2 5#6 7#6 9#6) ∧
    decode 0b00000000011100010100011100100111#32 = .ok (.mulh 1#3 3#2 5#6 7#6 9#6) ∧
    decode 0b00000010011100010100011100100100#32 = .ok (.mulhn 1#3 3#2 5#6 7#6 9#6) ∧
    decode 0b00000010011100010100011100100101#32 = .ok (.div 1#3 3#2 5#6 7#6 9#6) ∧
    decode 0b00000010011100010100011100100110#32 = .ok (.divn 1#3 3#2 5#6 7#6 9#6) ∧
    decode 0b00000010011100010100011100100111#32 = .ok (.rem 1#3 3#2 5#6 7#6 9#6) ∧
    decode 0b00000100011100010100011100100100#32 = .ok (.remn 1#3 3#2 5#6 7#6 9#6) ∧
    decode 0b00000100011100010100011100100101#32 = .ok (.and 1#3 3#2 5#6 7#6 9#6) :=
  ⟨rfl, rfl, rfl, rfl, rfl, rfl, rfl, rfl, rfl, rfl⟩

theorem test_decode_scalar_2 :
    decode 0b00000100011100010100011100100110#32 = .ok (.or 1#3 3#2 5#6 7#6 9#6) ∧
    decode 0b00000100011100010100011100100111#32 = .ok (.xor 1#3 3#2 5#6 7#6 9#6) ∧
    decode 0b00000110011100010100011100100100#32 = .ok (.andn 1#3 3#2 5#6 7#6 9#6) ∧
    decode 0b00000110011100010100011100100101#32 = .ok (.shl 1#3 3#2 5#6 7#6 9#6) ∧
    decode 0b00000110011100010100011100100110#32 = .ok (.shr 1#3 3#2 5#6 7#6 9#6) ∧
    decode 0b00000110011100010100011100100111#32 = .ok (.sra 1#3 3#2 5#6 7#6 9#6) ∧
    decode 0b00001000011100010100011100000000#32 = .ok (.clz 1#3 3#2 5#6 7#6) ∧
    decode 0b00001000011100010100011100000001#32 = .ok (.popc 1#3 3#2 5#6 7#6) ∧
    decode 0b00001000011100010100011100100110#32 = .ok (.min 1#3 3#2 5#6 7#6 9#6) ∧
    decode 0b00001000011100010100011100100111#32 = .ok (.minn 1#3 3#2 5#6 7#6 9#6) :=
  ⟨rfl, rfl, rfl, rfl, rfl, rfl, rfl, rfl, rfl, rfl⟩

theorem test_decode_scalar_3 :
    decode 0b00001010011100010100011100100100#32 = .ok (.max 1#3 3#2 5#6 7#6 9#6) ∧
    decode 0b00001010011100010100011100100101#32 = .ok (.maxn 1#3 3#2 5#6 7#6 9#6) ∧
    decode 0b00001010011100010100011100100110#32 = .ok (.sel 1#3 3#2 5#6 7#6 9#6) ∧
    decode 0b00001010011100010100011100000011#32 = .ok (.mov 1#3 3#2 5#6 7#6) ∧
    decode 0b00001100011100010100011100100100#32 = .ok (.cmpeq 1#3 3#2 5#6 7#6 9#6) ∧
    decode 0b00001100011100010100011100100101#32 = .ok (.cmpne 1#3 3#2 5#6 7#6 9#6) ∧
    decode 0b00001100011100010100011100100110#32 = .ok (.cmplt 1#3 3#2 5#6 7#6 9#6) ∧
    decode 0b00001100011100010100011100100111#32 = .ok (.cmpltn 1#3 3#2 5#6 7#6 9#6) ∧
    decode 0b00001110011100010100011100100100#32 = .ok (.cmple 1#3 3#2 5#6 7#6 9#6) ∧
    decode 0b00001110011100010100011100100101#32 = .ok (.cmplen 1#3 3#2 5#6 7#6 9#6) :=
  ⟨rfl, rfl, rfl, rfl, rfl, rfl, rfl, rfl, rfl, rfl⟩

theorem test_decode_scalar_4 :
    decode 0b00010000011100010100011100001001#32 = .ok (.addi 1#3 3#2 5#6 7#6 9#8) ∧
    decode 0b00010010011100010100011100001001#32 = .ok (.andi 1#3 3#2 5#6 7#6 9#8) ∧
    decode 0b00010100011100010100011100001001#32 = .ok (.ori 1#3 3#2 5#6 7#6 9#8) ∧
    decode 0b00010110011100010100011100001001#32 = .ok (.xori 1#3 3#2 5#6 7#6 9#8) ∧
    decode 0b00011000011100010100011100001001#32 = .ok (.shli 1#3 3#2 5#6 7#6 9#8) ∧
    decode 0b00011010011100010100011100001001#32 = .ok (.shri 1#3 3#2 5#6 7#6 9#8) ∧
    decode 0b00011100011100010100011100001001#32 = .ok (.srai 1#3 3#2 5#6 7#6 9#8) ∧
    decode 0b00011110011100010100000000000111#32 = .ok (.movi 1#3 3#2 5#6 7#8) :=
  ⟨rfl, rfl, rfl, rfl, rfl, rfl, rfl, rfl⟩

theorem test_decode_control_1 :
    decode 0b00100000010000000000000000000011#32 = .ok (.bra 1#3 3#14) ∧
    decode 0b00100000010100001100000000000101#32 = .ok (.bz 1#3 3#6 5#14) ∧
    decode 0b00100000011000001100000000000101#32 = .ok (.bnz 1#3 3#6 5#14) ∧
    decode 0b00100010010000000000000000000011#32 = .ok (.call 1#3 3#14) ∧
    decode 0b00100100010000000000001100000000#32 = .ok (.jmp 1#3 3#6) ∧
    decode 0b00100100010000000000000000000001#32 = .ok (.ret 1#3) ∧
    decode 0b00100100010000001100010100011110#32 = .ok (.split 1#3 3#6 5#4 7#6) ∧
    decode 0b00100100010000000000000000000011#32 = .ok (.join 1#3) ∧
    decode 0b00100110010000000000000000000000#32 = .ok (.exit 1#3) ∧
    decode 0b00100110010000000000000000000001#32 = .ok (.nop 1#3) ∧
    decode 0b00100110010000000000000000000010#32 = .ok (.brk 1#3) ∧
    decode 0b00100110010000000000000000001111#32 = .ok (.trap 1#3 3#6) :=
  ⟨rfl, rfl, rfl, rfl, rfl, rfl, rfl, rfl, rfl, rfl, rfl, rfl⟩

theorem test_decode_control_2 :
    decode 0b00101000010000000000000000000000#32 = .ok (.rft 1#3) ∧
    decode 0b00101000010000001100010100000001#32 = .ok (.gets 1#3 3#6 5#6) ∧
    decode 0b00101000010000100000010100000010#32 = .ok (.sets 1#3 8#6 5#6) ∧
    decode 0b00101000010011001000001100000010#32 = .ok (.setsGinj 1#3 3#6) ∧
    decode 0b00101000010000110000001100000010#32 = .ok (.setsLcause 1#3 3#6) ∧
    decode 0b00101010010000000000001100000000#32 = .ok (.rfgive 1#3 3#6) ∧
    decode 0b00101010010000001100010100000001#32 = .ok (.rfclaim 1#3 3#6 5#6) ∧
    decode 0b00101100010000000000000000000011#32 = .ok (.land 1#3 3#14) ∧
    decode 0b00101110010000000000000000000000#32 = .ok (.resume 1#3) ∧
    decode 0b00101110010000000000001100000001#32 = .ok (.yield 1#3 3#6) ∧
    decode 0b00101110010000001100010100011110#32 = .ok (.topup 1#3 3#6 5#6 7#6) :=
  ⟨rfl, rfl, rfl, rfl, rfl, rfl, rfl, rfl, rfl, rfl, rfl⟩

theorem test_decode_vector_1 :
    decode 0b01000000011100010100011100100111#32 = .ok (.vadd 1#3 3#2 5#6 7#6 9#6 1#1 1#1) ∧
    decode 0b01000010011100010100011100100111#32 = .ok (.vsub 1#3 3#2 5#6 7#6 9#6 1#1 1#1) ∧
    decode 0b01000100011100010100011100100101#32 = .ok (.vaddc 1#3 3#2 5#6 7#6 9#6 1#1) ∧
    decode 0b01000100011100010100011100100111#32 = .ok (.vsubc 1#3 3#2 5#6 7#6 9#6 1#1) ∧
    decode 0b01000110011100010100011100100101#32 = .ok (.vmul 1#3 3#2 5#6 7#6 9#6 1#1) ∧
    decode 0b01000110011100010100011100100111#32 = .ok (.vmad 1#3 3#2 5#6 7#6 9#6 1#1) ∧
    decode 0b01001000011100010100011100100101#32 = .ok (.vmulh 1#3 3#2 5#6 7#6 9#6 1#1) ∧
    decode 0b01001000011100010100011100100111#32 = .ok (.vmulhn 1#3 3#2 5#6 7#6 9#6 1#1) ∧
    decode 0b01001010011100010100011100100101#32 = .ok (.vand 1#3 3#2 5#6 7#6 9#6 1#1) ∧
    decode 0b01001010011100010100011100100111#32 = .ok (.vor 1#3 3#2 5#6 7#6 9#6 1#1) :=
  ⟨rfl, rfl, rfl, rfl, rfl, rfl, rfl, rfl, rfl, rfl⟩

theorem test_decode_vector_2 :
    decode 0b01001100011100010100011100100101#32 = .ok (.vxor 1#3 3#2 5#6 7#6 9#6 1#1) ∧
    decode 0b01001100011100010100011100100111#32 = .ok (.vandn 1#3 3#2 5#6 7#6 9#6 1#1) ∧
    decode 0b01001110011100010100011100100101#32 = .ok (.vshl 1#3 3#2 5#6 7#6 9#6 1#1) ∧
    decode 0b01001110011100010100011100100111#32 = .ok (.vshr 1#3 3#2 5#6 7#6 9#6 1#1) ∧
    decode 0b01010000011100010100011100100101#32 = .ok (.vsra 1#3 3#2 5#6 7#6 9#6 1#1) ∧
    decode 0b01010000011100010100011100100111#32 = .ok (.vsel 1#3 3#2 5#6 7#6 9#6 1#1) ∧
    decode 0b01010010011100010100011100100101#32 = .ok (.vmin 1#3 3#2 5#6 7#6 9#6 1#1) ∧
    decode 0b01010010011100010100011100100111#32 = .ok (.vminn 1#3 3#2 5#6 7#6 9#6 1#1) ∧
    decode 0b01010100011100010100011100100101#32 = .ok (.vmax 1#3 3#2 5#6 7#6 9#6 1#1) ∧
    decode 0b01010100011100010100011100100111#32 = .ok (.vmaxn 1#3 3#2 5#6 7#6 9#6 1#1) :=
  ⟨rfl, rfl, rfl, rfl, rfl, rfl, rfl, rfl, rfl, rfl⟩

theorem test_decode_vector_3 :
    decode 0b01010110011110011100100100101111#32 = .ok (.vcmp 1#3 3#2 5#3 7#4 9#6 11#6 1#1) ∧
    decode 0b01011000011100010100011100000000#32 = .ok (.vabs 1#3 3#2 5#6 7#6) ∧
    decode 0b01011000011100010100011100000100#32 = .ok (.vclz 1#3 3#2 5#6 7#6) ∧
    decode 0b01011000011100010100011100001000#32 = .ok (.vpopc 1#3 3#2 5#6 7#6) ∧
    decode 0b01011000011100010100011100001100#32 = .ok (.vmovV 1#3 3#2 5#6 7#6) ∧
    decode 0b01011000011100010100011100001101#32 = .ok (.vmovS 1#3 3#2 5#6 7#6) ∧
    decode 0b01011000011100010100000000010000#32 = .ok (.vidx 1#3 3#2 5#6) ∧
    decode 0b01011010011100010100011100001001#32 = .ok (.vaddi 1#3 3#2 5#6 7#6 9#8) ∧
    decode 0b01011100011100010100011100001001#32 = .ok (.vandi 1#3 3#2 5#6 7#6 9#8) ∧
    decode 0b01011110011100010100011100001001#32 = .ok (.vshli 1#3 3#2 5#6 7#6 9#8) :=
  ⟨rfl, rfl, rfl, rfl, rfl, rfl, rfl, rfl, rfl, rfl⟩

theorem test_decode_float_1 :
    decode 0b01100000011100010100011100001001#32 = .ok (.vshri 1#3 3#2 5#6 7#6 9#8) ∧
    decode 0b01100010011100010100011100001001#32 = .ok (.vsrai 1#3 3#2 5#6 7#6 9#8) ∧
    decode 0b01100100010000001100010100011100#32 = .ok (.vmovs 1#3 3#6 5#6 7#6) ∧
    decode 0b01100100011100010100011100100110#32 = .ok (.vbcast 1#3 3#2 5#6 7#6 9#6) ∧
    decode 0b01100110011100010100011100100101#32 = .ok (.vperm 1#3 3#2 5#6 7#6 9#6 1#1) ∧
    decode 0b01101000011100010100011100100101#32 = .ok (.vshflXor 1#3 3#2 5#6 7#6 9#6 1#1) ∧
    decode 0b01101000011100010100011100100111#32 = .ok (.vshflRot 1#3 3#2 5#6 7#6 9#6 1#1) ∧
    decode 0b01101010011100010100011100100100#32 = .ok (.vred 1#3 3#2 5#6 7#6 9#6) ∧
    decode 0b01101100011100010100011100100101#32 = .ok (.fadd 1#3 3#2 5#6 7#6 9#6 1#1) ∧
    decode 0b01101100011100010100011100100111#32 = .ok (.fsub 1#3 3#2 5#6 7#6 9#6 1#1) ∧
    decode 0b01101110011100010100011100100101#32 = .ok (.fmul 1#3 3#2 5#6 7#6 9#6 1#1) :=
  ⟨rfl, rfl, rfl, rfl, rfl, rfl, rfl, rfl, rfl, rfl, rfl⟩

theorem test_decode_float_2 :
    decode 0b01101110011100010100011100100111#32 = .ok (.fdiv 1#3 3#2 5#6 7#6 9#6 1#1) ∧
    decode 0b01110000011100010100011100100101#32 = .ok (.ffma 1#3 3#2 5#6 7#6 9#6 1#1) ∧
    decode 0b01110000011100010100011100100111#32 = .ok (.ffms 1#3 3#2 5#6 7#6 9#6 1#1) ∧
    decode 0b01110010011100010100011100100101#32 = .ok (.fmin 1#3 3#2 5#6 7#6 9#6 1#1) ∧
    decode 0b01110010011100010100011100100111#32 = .ok (.fmax 1#3 3#2 5#6 7#6 9#6 1#1) ∧
    decode 0b01110100011110011100100100101111#32 = .ok (.fcmp 1#3 3#2 5#3 7#4 9#6 11#6 1#1) ∧
    decode 0b01110110011100010100011100000000#32 = .ok (.frcp 1#3 3#2 5#6 7#6) ∧
    decode 0b01110110011100010100011100000100#32 = .ok (.frsq 1#3 3#2 5#6 7#6) ∧
    decode 0b01110110011100010100011100001000#32 = .ok (.fsqrt 1#3 3#2 5#6 7#6) ∧
    decode 0b01110110011100010100011100001100#32 = .ok (.fexp2 1#3 3#2 5#6 7#6) ∧
    decode 0b01110110011100010100011100010000#32 = .ok (.flog2 1#3 3#2 5#6 7#6) :=
  ⟨rfl, rfl, rfl, rfl, rfl, rfl, rfl, rfl, rfl, rfl, rfl⟩

theorem test_decode_float_3 :
    decode 0b01110110011100010100011100010100#32 = .ok (.fsin 1#3 3#2 5#6 7#6) ∧
    decode 0b01110110011100010100011100011000#32 = .ok (.fcos 1#3 3#2 5#6 7#6) ∧
    decode 0b01110110011100010100011100011100#32 = .ok (.fclass 1#3 3#2 5#6 7#6) ∧
    decode 0b01110110011100010100011100100000#32 = .ok (.frnd 1#3 3#2 5#6 7#6) ∧
    decode 0b01110110011100010100000000100100#32 = .ok (.rand 1#3 3#2 5#6) ∧
    decode 0b01111000011100010100011100100110#32 = .ok (.hadd2 1#3 3#2 5#6 7#6 9#6 1#1) ∧
    decode 0b01111000011100010100011100100111#32 = .ok (.hmul2 1#3 3#2 5#6 7#6 9#6 1#1) ∧
    decode 0b01111010011100010100011100100111#32 = .ok (.hfma2 1#3 3#2 5#6 7#6 9#6 1#1 1#1) ∧
    decode 0b01111100011100010100011100101100#32 = .ok (.cvt 1#3 3#2 5#6 7#6 1#3 3#3) ∧
    decode 0b01111100011100010100011100101101#32 = .ok (.cvtSr 1#3 3#2 5#6 7#6 1#3 3#3) ∧
    decode 0b01111110010000001100010100011100#32 = .ok (.kand 1#3 3#4 5#4 7#4) :=
  ⟨rfl, rfl, rfl, rfl, rfl, rfl, rfl, rfl, rfl, rfl, rfl⟩

theorem test_decode_float_4 :
    decode 0b01111110010000001100010100011101#32 = .ok (.kor 1#3 3#4 5#4 7#4) ∧
    decode 0b01111110010000001100010100011110#32 = .ok (.kxor 1#3 3#4 5#4 7#4) ∧
    decode 0b01111110010000001100010100011111#32 = .ok (.kandn 1#3 3#4 5#4 7#4) ∧
    decode 0b01111110010000001100010101000000#32 = .ok (.knot 1#3 3#4 5#4) ∧
    decode 0b01111110010000001100010101000001#32 = .ok (.kmovK 1#3 3#4 5#4) ∧
    decode 0b01111110010000001100010101000010#32 = .ok (.kmovS 1#3 3#4 5#6) ∧
    decode 0b01111110010000001100010101000011#32 = .ok (.kget 1#3 3#6 5#4) ∧
    decode 0b01111110010000001100010110000000#32 = .ok (.kpopc 1#3 3#6 5#4) ∧
    decode 0b01111110010000001100010110000001#32 = .ok (.kffs 1#3 3#6 5#4) :=
  ⟨rfl, rfl, rfl, rfl, rfl, rfl, rfl, rfl, rfl⟩

theorem test_decode_memory_1 :
    decode 0b10000000011100010100011100100111#32 = .ok (.ldv 1#3 3#2 5#6 7#6 9#6 3#2) ∧
    decode 0b10000010011100010100011100100111#32 = .ok (.stv 1#3 3#2 5#6 7#6 9#6 3#2) ∧
    decode 0b10000100011100010100011100000001#32 = .ok (.ldx 1#3 3#2 5#6 7#6 1#2) ∧
    decode 0b10000110011100010100011100000001#32 = .ok (.stx 1#3 3#2 5#6 7#6 1#2) ∧
    decode 0b10001000011100010100011100100111#32 = .ok (.lds 1#3 3#2 5#6 7#6 9#6 3#2) ∧
    decode 0b10001010011100010100011100100111#32 = .ok (.sts 1#3 3#2 5#6 7#6 9#6 3#2) ∧
    decode 0b10001100011100010100011100100111#32 = .ok (.ldp 1#3 3#2 5#6 7#6 9#6 3#2) ∧
    decode 0b10001110011100010100011100100111#32 = .ok (.stp 1#3 3#2 5#6 7#6 9#6 3#2) :=
  ⟨rfl, rfl, rfl, rfl, rfl, rfl, rfl, rfl⟩

theorem test_decode_memory_2 :
    decode 0b10010000011100010100011100100111#32 = .ok (.ldb 1#3 3#2 5#6 7#4 9#6 3#2) ∧
    decode 0b10010010011100010100011100100111#32 = .ok (.stb 1#3 3#2 5#6 7#4 9#6 3#2) ∧
    decode 0b10010100011100010100011100000111#32 = .ok (.ldacq 1#3 3#2 5#6 7#6 1#3 1#1) ∧
    decode 0b10010110011100010100011100000111#32 = .ok (.strel 1#3 3#2 5#6 7#6 1#3 1#1) ∧
    decode 0b10011000011100010100011100100111#32 = .ok (.atom 1#3 3#2 5#6 7#6 9#6 1#1) ∧
    decode 0b10011010011100010100011100000011#32 = .ok (.atoms 1#3 3#2 5#6 7#6 1#1) ∧
    decode 0b10011100011100010100011100100111#32 = .ok (.red 1#3 3#2 5#6 7#6 9#6 1#1) ∧
    decode 0b10011110010000000000000000001100#32 = .ok (.fence 1#3 3#3) :=
  ⟨rfl, rfl, rfl, rfl, rfl, rfl, rfl, rfl⟩

theorem test_decode_descriptor :
    decode 0b10100000011100010100011100000000#32 = .ok (.tagld 1#3 3#2 5#6 7#6) ∧
    decode 0b10100010011100010100011100000000#32 = .ok (.tagst 1#3 3#2 5#6 7#6) ∧
    decode 0b10100100011100000000010100011100#32 = .ok (.pref 1#3 3#2 5#6 7#6) ∧
    decode 0b10100110010000001100010100011100#32 = .ok (.bdset 1#3 3#4 5#6 7#6) ∧
    decode 0b10101000010000001100010100000000#32 = .ok (.bdgetLo 1#3 3#6 5#4) ∧
    decode 0b10101000010000001100010100000001#32 = .ok (.bdgetHi 1#3 3#6 5#4) :=
  ⟨rfl, rfl, rfl, rfl, rfl, rfl⟩

theorem test_decode_streamer :
    decode 0b10110000010000001100010100011101#32 = .ok (.cpyFromGlobal 1#3 3#6 5#6 7#6 1#2) ∧
    decode 0b10110010010000001100010100011101#32 = .ok (.cpyFromScratchpad 1#3 3#6 5#6 7#6 1#2) ∧
    decode 0b10110100010000001100010100011101#32 = .ok (.cpyFromPeer 1#3 3#6 5#6 7#6 1#2) ∧
    decode 0b10110110010000001100010100000001#32 = .ok (.cpyt 1#3 3#6 5#6 1#1) ∧
    decode 0b10111000010000001100010100000001#32 = .ok (.cpyk 1#3 3#6 5#6 1#1) ∧
    decode 0b10111010010000001100010100011100#32 = .ok (.cpym 1#3 3#6 5#6 7#6) :=
  ⟨rfl, rfl, rfl, rfl, rfl, rfl⟩

theorem test_decode_event :
    decode 0b11000000010000001100010100011100#32 = .ok (.ebind 1#3 3#3 5#6 7#6) ∧
    decode 0b11000000010000001100010100011101#32 = .ok (.ebindPers 1#3 3#3 5#6 7#6) ∧
    decode 0b11000010010000001100000000000000#32 = .ok (.eunbind 1#3 3#3) ∧
    decode 0b11000010010000000000000000000001#32 = .ok (.wany 1#3) ∧
    decode 0b11000010010000001100010100011110#32 = .ok (.mpost 1#3 3#6 5#6 7#6) ∧
    decode 0b11000100010000001100010100000000#32 = .ok (.pegget 1#3 3#6 5#6) ∧
    decode 0b11000100010000000000001100000001#32 = .ok (.pegref 1#3 3#6) ∧
    decode 0b11000100010000000000001100000010#32 = .ok (.pegput 1#3 3#6) ∧
    decode 0b11000100010000000000001100010111#32 = .ok (.pegarr 1#3 3#6 5#6) ∧
    decode 0b11000110010000000000001100010100#32 = .ok (.pegwait 1#3 3#6 5#6) ∧
    decode 0b11001000010000001100010100011101#32 = .ok (.seal 1#3 3#6 5#6 7#6 1#2) ∧
    decode 0b11001010010000001000000000000101#32 = .ok (.waitb 1#3 2#2 5#8) :=
  ⟨rfl, rfl, rfl, rfl, rfl, rfl, rfl, rfl, rfl, rfl, rfl, rfl⟩

theorem test_decode_matrix :
    decode 0b11010000010000001100010100011100#32 = .ok (.tld 1#3 3#3 5#6 7#6) ∧
    decode 0b11010010010000001100000000000000#32 = .ok (.tzero 1#3 3#3) ∧
    decode 0b11010100011110111100000100001100#32 = .ok (.mma 1#3 3#2 5#3 7#3 1#3 3#3) ∧
    decode 0b11010110011101011100101100110110#32 = .ok (.mmaq 1#3 3#2 2#3 7#3 9#6 3#3 5#3 2#2) ∧
    decode 0b11011000011100010100000000000000#32 = .ok (.accz 1#3 3#2 5#3) ∧
    decode 0b11011000011100010100011100100101#32 = .ok (.accrd 1#3 3#2 5#6 7#3 9#6) ∧
    decode 0b11011000011100010100011100100110#32 = .ok (.accwr 1#3 3#2 5#3 7#6 9#6) :=
  ⟨rfl, rfl, rfl, rfl, rfl, rfl, rfl⟩

theorem test_decode_gate :
    decode 0b11100000010000001100010100000000#32 = .ok (.gsess 1#3 3#6 5#6) ∧
    decode 0b11100010010000001100000000000001#32 = .ok (.gtrip 1#3 3#6 1#2) ∧
    decode 0b11100100010000001100010100011101#32 = .ok (.gmask 1#3 3#6 5#6 7#6 1#2) ∧
    decode 0b11100110010000001100000000000001#32 = .ok (.gopen 1#3 3#6 1#2) ∧
    decode 0b11101000010000001100010100000010#32 = .ok (.gfin 1#3 3#6 5#6 2#2) ∧
    decode 0b11101010010000001100010100011100#32 = .ok (.gtrunc 1#3 3#6 5#6 7#6) ∧
    decode 0b11101010010000001100010100000001#32 = .ok (.gmsb 1#3 3#6 5#6) ∧
    decode 0b11101010010000001100010100000010#32 = .ok (.gb2a 1#3 3#6 5#6) ∧
    decode 0b11101010010000001100010100000011#32 = .ok (.greveal 1#3 3#6 5#6) ∧
    decode 0b11101100010000001100000000000000#32 = .ok (.gtript 1#3 3#3) ∧
    decode 0b11101100010000001100010100011101#32 = .ok (.gmaskt 1#3 3#3 5#3 7#3) ∧
    decode 0b11101100010000001100000000000010#32 = .ok (.gopent 1#3 3#3) :=
  ⟨rfl, rfl, rfl, rfl, rfl, rfl, rfl, rfl, rfl, rfl, rfl, rfl⟩

theorem test_decode_system :
    decode 0b11110000010000001100010100000000#32 = .ok (.launch 1#3 3#6 5#6) ∧
    decode 0b11110010010000001100010100000000#32 = .ok (.emit 1#3 3#6 5#6) ∧
    decode 0b11110100010000001100010100011100#32 = .ok (.spawn 1#3 3#6 5#6 7#6) ∧
    decode 0b11111000010000000000001100000000#32 = .ok (.tlbdrain 1#3 3#6) ∧
    decode 0b11111000010000001100010100000001#32 = .ok (.tlbconf 1#3 3#6 5#6) ∧
    decode 0b11111010010000000000001100010100#32 = .ok (.ctxsv 1#3 3#6 5#6) ∧
    decode 0b11111010010000000000001100010101#32 = .ok (.ctxld 1#3 3#6 5#6) ∧
    decode 0b11111110000000000000000000000001#32 = .ok (.imx 1#22) ∧
    decode 0b11111110010000000000100011111111#32 = .ok (.mod 1#3 3#5 1#1 1#1 1#1 1#1 1#1 1#1) ∧
    decode 0b11111110100000000000000000000111#32 = .ok (.sch 1#1 1#1 1#1) :=
  ⟨rfl, rfl, rfl, rfl, rfl, rfl, rfl, rfl, rfl, rfl⟩

/-! Single steps, with results worked out by hand from the rules that each names. -/

/-- The group after an instruction in the machine, when it answers a next state. -/
def after (i : Instr) (s : State) : Option Group :=
  match exec i s with
  | .next t => t.group? 0 0
  | _ => none

/-- A scalar register after a word, s1 and s2 given. -/
def scalar (i : Instr) (a b : Word) (d : BitVec 6) : Option Word :=
  (after i (withG (sregs [(1#6, a), (2#6, b)] g0))).map fun h => (h.frag 0).rd d

/-- The group with v1, v2 and v3 the same in every lane. -/
def vregs (a b c : BitVec 32) (g : Group) : Group :=
  { g with v := ((g.v.set 1 (Vector.replicate 64 a)).set 2 (Vector.replicate 64 b)).set 3 (Vector.replicate 64 c) }

/-- Lane 63 of v3 and the flags after a word on v1, v2 and v3. -/
def vector (i : Instr) (a b c : BitVec 32) : Option (BitVec 32 × BitVec 6) :=
  (after i (withG (vregs a b c g0))).map fun h => (laneAt (h.rdV 3#6) 63, h.fflags)

/-- R104: addition wraps. -/
theorem test_add_wraps : scalar (.add 0#3 0#2 3#6 1#6 2#6) 0xFFFFFFFFFFFFFFFF#64 2#64 3#6 = some 1#64 := by decide +kernel

/-- R42: s0 stays 0. -/
theorem test_add_s0 : scalar (.add 0#3 0#2 0#6 1#6 2#6) 3#64 4#64 0#6 = some 0#64 := by decide +kernel

/-- R105: the high half of −1 · −1 is 0; of the unsigned product it is 2^64 − 2. -/
theorem test_mulh : scalar (.mulh 0#3 0#2 3#6 1#6 2#6) 0xFFFFFFFFFFFFFFFF#64 0xFFFFFFFFFFFFFFFF#64 3#6 = some 0#64 := by decide +kernel

theorem test_mulhn : scalar (.mulhn 0#3 0#2 3#6 1#6 2#6) 0xFFFFFFFFFFFFFFFF#64 0xFFFFFFFFFFFFFFFF#64 3#6 = some 0xFFFFFFFFFFFFFFFE#64 := by
  decide +kernel

/-- R106: a division by 0 gives all ones, its remainder the dividend; −7 / 2 rounds toward 0. -/
theorem test_div : scalar (.div 0#3 0#2 3#6 1#6 2#6) 7#64 0#64 3#6 = some 0xFFFFFFFFFFFFFFFF#64 ∧
    scalar (.div 0#3 0#2 3#6 1#6 2#6) (-7#64) 2#64 3#6 = some (-3#64) := by decide +kernel

theorem test_rem : scalar (.rem 0#3 0#2 3#6 1#6 2#6) 7#64 0#64 3#6 = some 7#64 ∧
    scalar (.rem 0#3 0#2 3#6 1#6 2#6) (-7#64) 2#64 3#6 = some (-1#64) := by decide +kernel

/-- R202: .i32 addition with overflow wraps without SAT. R188: SAT keeps 2^31 − 1 and raises bit 5. -/
theorem test_vadd : vector (.vadd 0#3 0#2 3#6 1#6 2#6 0#1 0#1) 0x7FFFFFFF#32 1#32 0#32 = some (0x80000000#32, 0#6) := by decide +kernel

theorem test_vadd_sat :
    (after (.vadd 0#3 0#2 3#6 1#6 2#6 0#1 0#1) (withG (onF (fun f => { f with hints := [.mod 0#3 0#5 0#1 0#1 0#1 0#1 0#1 1#1] })
      (vregs 0x7FFFFFFF#32 1#32 0#32 g0)))).map (fun h => (laneAt (h.rdV 3#6) 63, h.fflags)) = some (0x7FFFFFFF#32, 0x20#6) := by decide +kernel

/-- R206, R183: 1 + 2^-24 is halfway between two .f32 numbers and goes to the even one; inexact (NX, bit 0). -/
theorem test_fadd_ties : vector (.fadd 0#3 0#2 3#6 1#6 2#6 0#1) 0x3F800000#32 0x33800000#32 0#32 = some (0x3F800000#32, 0x01#6) := by decide +kernel

/-- R206: (1 + 2^-23)² − (1 + 2^-22) = 2^-46, exactly, with one rounding. -/
theorem test_ffms : vector (.ffms 0#3 0#2 3#6 1#6 2#6 0#1) 0x3F800001#32 0x3F800001#32 0x3F800002#32 = some (0x28800000#32, 0#6) := by decide +kernel

/-- R206, R187: 1 / 0 is infinity and raises DZ (bit 3). -/
theorem test_fdiv_zero : vector (.fdiv 0#3 0#2 3#6 1#6 2#6 0#1) 0x3F800000#32 0#32 0#32 = some (0x7F800000#32, 0x08#6) := by decide +kernel

/-- R110: `bz` with a register that is 0 is taken: 9 words after its address 0. -/
theorem test_bz : (after (.bz 0#3 1#6 9#14) (withG g0)).map (fun h => (h.frag 0).pc) = some 36#64 := by decide +kernel

/-- R118, R401: a trap pushes an entry with the next unit, and its fragment goes to %tvec. -/
theorem test_trap : (after (.trap 0#3 5#6) (withG gVec)).map (fun h => ((h.frag 0).pc, h.trap.taddr, h.stack.map (·.addr))) =
    some (0x80#64, 5#64, [4#64]) := by decide +kernel

/-- R119: `rft` goes back to it. -/
theorem test_rft : (after (.rft 0#3) (withG gTrap)).map (fun h => ((h.frag 0).pc, (h.frag 0).mask, h.stack)) = some (0x40#64, 0xFF#64, []) := by
  decide +kernel

/-- R134: a word with no unit left lands: its unit in %lret, the reserves as the budgets, cause 1. -/
theorem test_landing : (after (.add 0#3 0#2 3#6 1#6 2#6) (withG (gPoor 0x200#64))).map (fun h =>
    ((h.frag 0).pc, h.landing.lret, h.landing.cause, h.ibud, h.mbud)) = some (0x200#64, 0#64, 1#2, 16, 16) := by decide +kernel

/-- R113: `split` gives the lanes of k1 to fragment 1 at the address of s2, and 1 to s5. -/
theorem test_split : (after (.split 0#3 5#6 1#4 2#6) (withG (gSplit 0xF0#64))).map (fun h =>
    ((h.frag 0).mask, (h.frag 1).mask, (h.frag 1).pc, (h.frag 1).rd 5#6)) = some (0xFFFFFFFFFFFFFF0F#64, 0xF0#64, 0x100#64, 1#64) := by decide +kernel

/-- R213: the maximum of 64 lanes of −3 is −3, sign-extended. -/
theorem test_vred_max : (after (.vred 0#3 0#2 5#6 1#6 3#6) (withG (vregs 0xFFFFFFFD#32 0#32 0#32 g0))).map (fun h => (h.frag 0).rd 5#6) =
    some 0xFFFFFFFFFFFFFFFD#64 := by decide +kernel

/-- R215: the lowest set bit; 64 for none. -/
theorem test_kffs : (after (.kffs 0#3 5#6 1#4) (withG (gSplit 0xF0#64))).map (fun h => (h.frag 0).rd 5#6) = some 4#64 ∧
    (after (.kffs 0#3 5#6 2#4) (withG (gSplit 0xF0#64))).map (fun h => (h.frag 0).rd 5#6) = some 64#64 := by decide +kernel

/-- R234, R131, R132: a `ldx` of 8 bytes across a sector counts 2 sectors; its request waits. -/
theorem test_ldx_sectors : (after (.ldx 0#3 0#2 5#6 1#6 3#2) (withG (sregs [(1#6, 0x1001C#64)] g0))).map (fun h =>
    (h.mbud, h.reqs.map (·.size))) = some (65534, [8]) := by decide +kernel

/-- R237, R251: the word of a load is read with its lowest byte first. -/
theorem test_load_response : (after (.loadResponse 0 0 ⟨3, 1#64, 255#8⟩) { withG gLoad with
      mem := writeBytes base.mem 0x50000 [1#8, 2#8, 3#8, 4#8] }).map (fun h => (laneAt (h.rdV 5#6) 0, h.reqs.length)) = some (0x04030201#32, 1) := by
  decide +kernel

/-- R231: a store of 4 bytes at the slice. -/
theorem test_slice_merge : (match exec (.sliceMergeStep 0x1400 [3]) (withG (gReq .store .waiting)) with
    | .next t => some (readAt t.mem [0x50000, 0x50001, 0x50002, 0x50003, 0x50004])
    | _ => none) = some [7#8, 0#8, 0#8, 0#8, 0#8] := by decide +kernel

/-- R242: an add at the slice keeps the old value. -/
theorem test_slice_atomic : (match exec (.sliceAtomic 3 0x1400) { withG (gReq (.atomic 0) .waiting) with
      mem := writeBytes base.mem 0x50000 [250#8, 0#8, 0#8, 0#8] } with
    | .next t => some (readAt t.mem [0x50000, 0x50001], (t.group? 0 0).map fun h => h.reqs.flatMap fun r => r.lanes.map (·.res))
    | _ => none) = some ([1#8, 1#8], some [250#64]) := by decide +kernel

/-- R368: the record of a `launch` is 8 sectors, its word 4 units; a record of zeros is not valid. -/
theorem test_launch_invalid : (after (.launch 0#3 5#6 1#6) (withG gArg)).map (fun h => (h.ibud, h.mbud, (h.frag 0).rd 5#6)) =
    some (65532, 65528, 2#64) := by decide +kernel

/-- R166: an arrival that is the last advances the phase. -/
theorem test_pegarr : (match exec (.pegarr 0#3 1#6 2#6) (sPeg 1#64) with
    | .next t => some (t.pegs.map fun p => (p.phase, p.a))
    | _ => none) = some [(1#16, 1)] := by decide +kernel

/-- R335: with role 0, c + d·b + e·a + d·e of shares all 1, 2, 3 … by hand: a 1, b 2, c 3, d 4, e 5 give 3 + 4·2 + 5·1 + 4·5 = 36. -/
theorem test_gfin : (after (.gfin 0#3 20#6 8#6 0#2) (sess (withG { gTriple .opened with
      v := (((((gTriple .opened).v.set 8 (Vector.replicate 64 1#32)).set 9 (Vector.replicate 64 2#32)).set 10 (Vector.replicate 64 3#32)).set 11
        (Vector.replicate 64 4#32)).set 12 (Vector.replicate 64 5#32) }))).map (fun h => (laneAt (h.rdV 20#6) 63, h.vmark 8)) =
    some (36#32, .none) := by decide +kernel

/-- R460: a frozen device runs nothing. -/
theorem test_freeze : (match exec .freezeN base with
    | .next t => some (t.mgmt.devState)
    | _ => none) = some .frozen := by decide +kernel

/-- `step` fetches and runs the word at the program counter: s5 := s7 + s9 (R104), then the next unit. -/
theorem test_step : (match step sAdd with
    | .next t => (t.group? 0 0).map fun h => ((h.frag 0).pc, h.icnt)
    | _ => none) = some (4#64, 1) := by decide +kernel

end Sys2Proof.Tests
end

namespace Sys2Proof.Machine

open Sys2Proof.Claims

/-! ## The operations of scalar and lane-wise integer words by the exact numbers (R104 to R108, R200) -/

/-- The low half of a signed product is the exact product cut to the width. -/
theorem mul_eq_ofInt {w : Nat} (a b : BitVec w) : a * b = BitVec.ofInt w (a.toInt * b.toInt) := by
  rw [BitVec.ofInt_mul, BitVec.ofInt_toInt, BitVec.ofInt_toInt]

/-- The upper half of a double-width integer is its quotient by 2^w, cut to w bits. -/
theorem extract_high_ofInt {w : Nat} (n : Int) : (BitVec.ofInt (w + w) n).extractLsb' w w = BitVec.ofInt w (n / 2 ^ w) := by
  have hw : (2 : Int) ^ w ≠ 0 := by positivity
  have hn : n % (2 ^ w * 2 ^ w) / 2 ^ w = n / 2 ^ w - 2 ^ w * (n / (2 ^ w * 2 ^ w)) := by
    rw [Int.emod_def, mul_assoc, Int.sub_mul_ediv_left _ _ hw]
  apply BitVec.eq_of_toInt_eq
  rw [BitVec.toInt_extractLsb', BitVec.toInt_ofInt, Nat.shiftRight_eq_div_pow, BitVec.toNat_ofInt, Int.natCast_ediv,
    Int.toNat_of_nonneg (Int.emod_nonneg _ (by positivity))]
  push_cast
  rw [pow_add, hn]
  exact_mod_cast Int.sub_mul_bmod_self_left (n / 2 ^ w) (2 ^ w) _

/-- The high half of the signed product is the exact product's quotient by 2^64 (R105). -/
theorem mulhWord_eq (a b : Word) : mulhWord a b = BitVec.ofInt 64 (a.toInt * b.toInt / 2 ^ 64) := by
  unfold mulhWord
  rw [mul_eq_ofInt, BitVec.toInt_signExtend_of_le (by decide), BitVec.toInt_signExtend_of_le (by decide)]
  exact extract_high_ofInt _

/-- The same of the natural product: 128 bits hold all of it. -/
theorem mulhnWord_eq (a b : Word) : mulhnWord a b = BitVec.ofNat 64 (a.toNat * b.toNat / 2 ^ 64) := by
  have hp : a.toNat * b.toNat < 2 ^ 128 := Nat.mul_lt_mul'' (c := 2 ^ 64) (d := 2 ^ 64) a.isLt b.isLt
  have ha : (a.setWidth 128).toNat = a.toNat := BitVec.toNat_setWidth_of_le (by decide)
  have hb : (b.setWidth 128).toNat = b.toNat := BitVec.toNat_setWidth_of_le (by decide)
  apply BitVec.eq_of_toNat_eq
  rw [mulhnWord, BitVec.extractLsb'_toNat, BitVec.toNat_mul, ha, hb, Nat.mod_eq_of_lt hp, Nat.shiftRight_eq_div_pow, BitVec.toNat_ofNat]

theorem sdiv_eq_ofInt_tdiv {w : Nat} (a b : BitVec w) : a.sdiv b = BitVec.ofInt w (a.toInt.tdiv b.toInt) :=
  BitVec.eq_of_toInt_eq (by rw [BitVec.toInt_sdiv, BitVec.toInt_ofInt])

theorem srem_eq_ofInt_tmod {w : Nat} (a b : BitVec w) : a.srem b = BitVec.ofInt w (a.toInt.tmod b.toInt) := by
  rw [← BitVec.toInt_srem, BitVec.ofInt_toInt]

/-! Truncating and natural division; by 0 it gives all ones, and the dividend as the remainder (R105). -/

theorem divWord_eq (a b : Word) : divWord a b = if b = 0#64 then BitVec.allOnes 64 else a.sdiv b := by
  rw [divWord, sdiv_eq_ofInt_tdiv]

theorem remWord_eq (a b : Word) : remWord a b = if b = 0#64 then a else a.srem b := by
  rw [remWord, srem_eq_ofInt_tmod]

theorem divnWord_eq (a b : Word) : divnWord a b = if b = 0#64 then BitVec.allOnes 64 else a.udiv b := by
  rw [divnWord, ← BitVec.udiv_def]
  rfl

theorem remnWord_eq (a b : Word) : remnWord a b = if b = 0#64 then a else a.umod b := by
  rw [remnWord, ← BitVec.umod_def]
  rfl

/-! Shifts multiply and divide by powers of 2, for every count (R106, R200). -/

theorem shiftLeft_eq_ofNat {w : Nat} (a : BitVec w) (n : Nat) : a <<< n = BitVec.ofNat w (a.toNat * 2 ^ n) :=
  BitVec.eq_of_toNat_eq (by simp [Nat.shiftLeft_eq])

theorem ushiftRight_eq_ofNat {w : Nat} (a : BitVec w) (n : Nat) : a >>> n = BitVec.ofNat w (a.toNat / 2 ^ n) := by
  rw [← Nat.shiftRight_eq_div_pow, ← BitVec.toNat_ushiftRight, BitVec.ofNat_toNat, BitVec.setWidth_eq]

theorem sshiftRight_eq_ofInt {w : Nat} (a : BitVec w) (n : Nat) : a.sshiftRight n = BitVec.ofInt w (a.toInt / 2 ^ n) := by
  rw [BitVec.sshiftRight_eq, Int.shiftRight_eq_div_pow]
  norm_cast

theorem shlWord_eq {w : Nat} (a : BitVec w) (n : Nat) : shlWord a n = BitVec.ofNat w (a.toNat * 2 ^ n) := by
  unfold shlWord
  split
  · rw [← shiftLeft_eq_ofNat, BitVec.shiftLeft_eq_zero ‹_›]
  · exact shiftLeft_eq_ofNat a n

theorem shrWord_eq {w : Nat} (a : BitVec w) (n : Nat) : shrWord a n = BitVec.ofNat w (a.toNat / 2 ^ n) := by
  unfold shrWord
  split
  · rw [← ushiftRight_eq_ofNat, BitVec.ushiftRight_eq_zero ‹_›]
  · exact ushiftRight_eq_ofNat a n

/-- A count past the width fills with the sign as the width does (R106). -/
theorem sshiftRight_of_width_le {w n : Nat} (a : BitVec w) (h : w ≤ n) : a.sshiftRight n = a.sshiftRight w := by
  ext i hi
  rw [BitVec.getElem_sshiftRight, BitVec.getElem_sshiftRight, dif_neg (by omega), dif_neg (by omega)]

theorem sraWord_eq {w : Nat} (a : BitVec w) (n : Nat) : sraWord a n = BitVec.ofInt w (a.toInt / 2 ^ n) := by
  rw [← sshiftRight_eq_ofInt, sraWord]
  rcases Nat.le_total n w with h | h
  · rw [Nat.min_eq_left h]
  · rw [Nat.min_eq_right h, sshiftRight_of_width_le a h]

/-- The leading zeros end at the highest set bit. -/
theorem clzBits_eq {w : Nat} (a : BitVec w) : clzBits a = if a = 0#w then w else w - 1 - a.toNat.log2 := by
  unfold clzBits
  split
  · subst ‹a = _›
    rw [List.find?_eq_none.2 (by simp)]
    rfl
  · rename_i h
    have h0 : a.toNat ≠ 0 := fun e => h (BitVec.eq_of_toNat_eq (by simpa using e))
    have hl : a.toNat.log2 < w := (Nat.log2_lt h0).2 a.isLt
    have hf : (List.range w).find? (fun n => a.getLsbD (w - 1 - n)) = some (w - 1 - a.toNat.log2) := by
      rw [List.find?_range_eq_some]
      refine ⟨?_, by simp; omega, fun j hj => ?_⟩
      · rw [show w - 1 - (w - 1 - a.toNat.log2) = a.toNat.log2 by omega]
        exact Nat.testBit_log2 h0
      · have : a.toNat < 2 ^ (w - 1 - j) := (Nat.log2_lt h0).1 (by omega)
        simp [BitVec.getLsbD, Nat.testBit_lt_two_pow this]
    rw [hf]
    rfl

theorem popCount_eq_countP {w : Nat} (a : BitVec w) : popCount a = (List.range w).countP fun n => a.getLsbD n :=
  List.countP_eq_length_filter.symm

theorem boolWord_of_iff {b : Bool} {p : Prop} [Decidable p] (h : b = true ↔ p) : boolWord b = if p then 1#64 else 0#64 := by
  simp only [boolWord, h]

/-! The smaller and the larger of two words, signed and natural (R104). -/

theorem smin_eq_ofInt {w : Nat} (a b : BitVec w) : (if a.slt b then a else b) = BitVec.ofInt w (min a.toInt b.toInt) := by
  simp only [BitVec.slt_iff_toInt_lt]
  split
  · rw [min_eq_left (le_of_lt ‹_›), BitVec.ofInt_toInt]
  · rw [min_eq_right (not_lt.1 ‹_›), BitVec.ofInt_toInt]

theorem smax_eq_ofInt {w : Nat} (a b : BitVec w) : (if a.slt b then b else a) = BitVec.ofInt w (max a.toInt b.toInt) := by
  simp only [BitVec.slt_iff_toInt_lt]
  split
  · rw [max_eq_right (le_of_lt ‹_›), BitVec.ofInt_toInt]
  · rw [max_eq_left (not_lt.1 ‹_›), BitVec.ofInt_toInt]

theorem umin_eq_ofNat {w : Nat} (a b : BitVec w) : (if a.ult b then a else b) = BitVec.ofNat w (min a.toNat b.toNat) := by
  simp only [BitVec.ult_iff_toNat_lt]
  split
  · rw [min_eq_left (le_of_lt ‹_›), BitVec.ofNat_toNat, BitVec.setWidth_eq]
  · rw [min_eq_right (not_lt.1 ‹_›), BitVec.ofNat_toNat, BitVec.setWidth_eq]

theorem umax_eq_ofNat {w : Nat} (a b : BitVec w) : (if a.ult b then b else a) = BitVec.ofNat w (max a.toNat b.toNat) := by
  simp only [BitVec.ult_iff_toNat_lt]
  split
  · rw [max_eq_right (le_of_lt ‹_›), BitVec.ofNat_toNat, BitVec.setWidth_eq]
  · rw [max_eq_left (not_lt.1 ‹_›), BitVec.ofNat_toNat, BitVec.setWidth_eq]

/-! ## What a completed word leaves alone in its group -/

/-- The fragment part of `Group.bare`: a fragment without its place in the program, its pending writes and its accounts. -/
def Frag.bare (f : Frag) : Frag := { f with pc := 0#64, hints := [], pend := [], nextIssue := 0, lastIssue := 0, paid := none }

/-- The fragment part of `Group.advance`: a fragment that goes on at the next unit. -/
def Frag.goOn (f : Frag) (next : Word) (now st : Nat) : Frag :=
  { f with pc := next, hints := [], nextIssue := now + 1 + st, lastIssue := now + 1, pend := f.pend.filter (fun p => p.early now), paid := none }

/-- What `Completes` asks of a group after a word: its place, its budgets and its count, and where the fragment stands. -/
structure Accounts where
  core  : Nat
  slot  : Nat
  ibud  : Nat
  mbud  : Nat
  icnt  : Nat
  pc    : Word
  hints : List Instr

/-- The accounts of a group and one of its fragments. -/
def Group.accounts (g : Group) (fid : Nat) : Accounts :=
  ⟨g.core, g.slot, g.ibud, g.mbud, g.icnt, (g.frag fid).pc, (g.frag fid).hints⟩

/-- The group in which a word's effect takes place, when it needs no grant and no sector. -/
def Ctx.advanced (x : Ctx) (i : Instr) (s : State) (g : Group) : Group :=
  g.advance x.fid x.hs x.next s.clock (useIn x.hs i) ((g.frag x.fid).owes (useIn x.hs i).charge) 0 (s.isDet g)

/-- Putting a fragment back where it stands changes nothing. -/
@[simp] theorem setFrag_frag (g : Group) (n : Nat) : g.setFrag n (g.frag n) = g := by
  simp [Group.setFrag, Group.frag]

/-- Of two changes of one fragment the second sees what the first left. -/
theorem modFrag_modFrag (g : Group) (n : Nat) (f k : Frag → Frag) : (g.modFrag n f).modFrag n k = g.modFrag n fun a => k (f a) := by
  simp [Group.modFrag, Group.setFrag, Group.frag]

/-- The bare group of a changed fragment holds the bare form of that fragment. -/
theorem bare_modFrag (g : Group) (n : Nat) (f : Frag → Frag) : (g.modFrag n f).bare n = (g.bare n).setFrag n (f (g.frag n)).bare := by
  simp [Group.bare, Group.modFrag, Group.setFrag, Group.frag, Frag.bare]

@[simp] theorem frag_bare (g : Group) (n : Nat) : (g.bare n).frag n = (g.frag n).bare := g.frag_modFrag n Frag.bare

/-- A change of the accounts and the pending writes of a fragment does not show in the bare group. -/
theorem bare_modFrag_of_bare {g : Group} {n : Nat} {f : Frag → Frag} (h : (f (g.frag n)).bare = (g.frag n).bare) :
    (g.modFrag n f).bare n = g.bare n := by
  rw [bare_modFrag, h, ← frag_bare, setFrag_frag]

@[simp] theorem frag_retire (g : Group) (b : Bool) (n : Nat) : (g.retire b).frag n = g.frag n := by
  cases b <;> rfl

theorem retire_modFrag (g : Group) (b : Bool) (n : Nat) (f : Frag → Frag) : (g.modFrag n f).retire b = (g.retire b).modFrag n f := by
  cases b <;> rfl

/-- The advanced fragment keeps its registers and its lanes. -/
theorem frag_advance (g : Group) (fid : Nat) (hs : List Instr) (a : Word) (n : Nat) (u : Use) (ci cm : Nat) (det : Bool) :
    (g.advance fid hs a n u ci cm det).frag fid = (g.frag fid).goOn a n u.st.toNat := by
  rw [Group.advance, frag_retire]
  exact g.frag_modFrag fid fun f => f.goOn a n u.st.toNat

theorem accounts_advance (g : Group) (fid : Nat) (hs : List Instr) (a : Word) (n : Nat) (u : Use) (ci cm : Nat) (det : Bool) :
    (g.advance fid hs a n u ci cm det).accounts fid = ⟨g.core, g.slot, g.ibud - ci, g.mbud - cm, g.icnt + 1, a, []⟩ := by
  rw [Group.accounts, frag_advance]
  cases h : det && g.aside.isNone <;> simp only [Group.advance, h] <;> rfl

/-- Of the advance only the retired word shows in the bare group. -/
theorem bare_advance (g : Group) (fid : Nat) (hs : List Instr) (a : Word) (n : Nat) (u : Use) (ci cm : Nat) (det : Bool) :
    (g.advance fid hs a n u ci cm det).bare fid = g.ran (det && g.aside.isNone) fid := by
  have e : (g.advance fid hs a n u ci cm det).bare fid =
      ((g.modFrag fid fun f => f.goOn a n u.st.toNat).retire (det && g.aside.isNone)).bare fid := by
    cases h : det && g.aside.isNone <;> simp only [Group.advance, h] <;> rfl
  rw [e, retire_modFrag, bare_modFrag_of_bare rfl, Group.ran]

/-- Taking gate marks off leaves a word without vector destinations its group (R331). -/
theorem unmark_of_no_vector {x : Ctx} {i : Instr} (h : (useIn x.hs i).vw = []) (g : Group) : x.unmark i g = g := by
  simp [Ctx.unmark, h]

theorem flagging_eq (x : Ctx) (i : Instr) (n : Nat) (g : Group) : ∃ a, x.flagging i n g = { g with flagsAt := a } := by
  simp only [Ctx.flagging]
  split
  · exact ⟨_, rfl⟩
  · exact ⟨g.flagsAt, rfl⟩

theorem unmark_eq (x : Ctx) (i : Instr) (g : Group) : ∃ m, x.unmark i g = { g with vmarks := m } := by
  simp only [Ctx.unmark]
  split
  · exact ⟨g.vmarks, rfl⟩
  · exact ⟨_, rfl⟩

theorem inFlight_eq (x : Ctx) (i : Instr) (n : Nat) (o g : Group) :
    ∃ p : List Pend → List Pend, x.inFlight i n o g = g.modFrag x.fid fun f => { f with pend := p f.pend } := by
  simp only [Ctx.inFlight]
  split
  · exact ⟨id, (setFrag_frag g x.fid).symm⟩
  · exact ⟨_, rfl⟩

/-- Completion touches the pending writes of the fragment, the time of the flags and the gate marks of its destinations only. -/
theorem finished_eq (x : Ctx) (i : Instr) (n : Nat) (o g : Group) : ∃ (p : List Pend → List Pend) (a : Nat),
    x.finished i n o g = { (x.unmark i g).modFrag x.fid fun f => { f with pend := p f.pend } with flagsAt := a } := by
  obtain ⟨p, hp⟩ := inFlight_eq x i n o (x.unmark i g)
  obtain ⟨a, ha⟩ := flagging_eq x i n (x.inFlight i n o (x.unmark i g))
  exact ⟨p, a, by rw [Ctx.finished, ha, hp]⟩

/-- A completed word's fragment is as its effect left it, but for pending writes. -/
theorem frag_finished (x : Ctx) (i : Instr) (n : Nat) (o g : Group) :
    ∃ p, (x.finished i n o g).frag x.fid = { g.frag x.fid with pend := p } := by
  obtain ⟨p, a, h⟩ := finished_eq x i n o g
  obtain ⟨m, hm⟩ := unmark_eq x i g
  rw [h, hm]
  exact ⟨_, Group.frag_modFrag { g with vmarks := m } x.fid fun f => { f with pend := p f.pend }⟩

theorem accounts_finished (x : Ctx) (i : Instr) (n : Nat) (o g : Group) : (x.finished i n o g).accounts x.fid = g.accounts x.fid := by
  obtain ⟨q, hq⟩ := frag_finished x i n o g
  obtain ⟨p, a, h⟩ := finished_eq x i n o g
  obtain ⟨m, hm⟩ := unmark_eq x i g
  rw [Group.accounts, hq, h, hm]
  rfl

/-- Of the completion only the gate marks show in the bare group. -/
theorem bare_finished (x : Ctx) (i : Instr) (n : Nat) (o g : Group) : (x.finished i n o g).bare x.fid = (x.unmark i g).bare x.fid := by
  obtain ⟨p, a, h⟩ := finished_eq x i n o g
  rw [h, ← bare_modFrag_of_bare (g := x.unmark i g) (f := fun f => { f with pend := p f.pend }) rfl]
  rfl

/-- A word that changes only its group, and leaves the accounts to the issue, completes. -/
theorem issueG_completes_group {i : Instr} {s : State} {g : Group} {x : Ctx} {eff : Ctx → Group → Group} (h : Issues i s g x 0 0)
    (hx : exec i s = issueG i s eff) (ha : ∀ k, (eff x k).accounts x.fid = k.accounts x.fid) :
    ∃ t n, Completes i s g x 0 0 t (x.finished i n (x.advanced i s g) (eff x (x.advanced i s g))) := by
  obtain ⟨t, ht, hr, hg⟩ := issueG_completes h (fun k => congrArg Accounts.core (ha k)) (fun k => congrArg Accounts.slot (ha k))
  have e := (accounts_finished x i (x.xLatency (s.setGroup (x.advanced i s g)) i) (x.advanced i s g) (eff x (x.advanced i s g))).trans
    ((ha _).trans (accounts_advance ..))
  simp only [Group.accounts, Accounts.mk.injEq] at e
  obtain ⟨-, -, hi, hm, hc, hp, hh⟩ := e
  have h0 : (g.frag x.fid).owes 0 = 0 := by simp [Frag.owes]
  exact ⟨t, _, ⟨⟨hx.trans ht, hg, hr, hi, hm.trans (by rw [h0]), hc⟩, hp, hh⟩⟩

/-! ## Scalar words -/

/-- The younger of two writes to a register stays. -/
@[simp] theorem wr_wr (f : Frag) (d : BitVec 6) (v w : Word) : (f.wr d v).wr d w = f.wr d w := by
  unfold Frag.wr
  split <;> simp

theorem bare_wr (f : Frag) (d : BitVec 6) (v : Word) : (f.wr d v).bare = f.bare.wr d v := by
  unfold Frag.wr
  split <;> rfl

/-- A scalar result writes its register, and its latency stands in the pending writes. -/
theorem putS_eq (g : Group) (x : Ctx) (d : BitVec 6) (lat : Nat) (v : Word) : ∃ p : Frag → List Pend,
    g.putS x d lat v = g.modFrag x.fid fun f => { f.wr d v with pend := p f } := by
  unfold Group.putS Frag.wr
  by_cases hd : d = 0#6
  · simp only [hd, if_true]
    exact ⟨Frag.pend, rfl⟩
  · by_cases hl : lat = 0
    · simp only [hd, hl, if_true, if_false]
      exact ⟨_, rfl⟩
    · simp only [hd, hl, if_false]
      exact ⟨_, rfl⟩

theorem accounts_putS (g : Group) (x : Ctx) (d : BitVec 6) (lat : Nat) (v : Word) :
    (g.putS x d lat v).accounts x.fid = g.accounts x.fid := by
  obtain ⟨p, hp⟩ := putS_eq g x d lat v
  rw [hp, Group.accounts, Group.frag_modFrag]
  unfold Frag.wr
  split <;> rfl

theorem rd_putS (g : Group) (x : Ctx) (d : BitVec 6) (lat : Nat) (v : Word) :
    ((g.putS x d lat v).frag x.fid).rd d = if d = 0#6 then 0#64 else v := by
  obtain ⟨p, hp⟩ := putS_eq g x d lat v
  rw [hp, Group.frag_modFrag, ← Frag.rd_wr (g.frag x.fid) d v]
  rfl

/-- Of a scalar result only its register shows in the bare group. -/
theorem blankS_bare_putS (g : Group) (x : Ctx) (d : BitVec 6) (lat : Nat) (v : Word) :
    blankS ((g.putS x d lat v).bare x.fid) x.fid d = blankS (g.bare x.fid) x.fid d := by
  obtain ⟨p, hp⟩ := putS_eq g x d lat v
  have e : (g.putS x d lat v).bare x.fid = (g.bare x.fid).modFrag x.fid fun f => f.wr d v := by
    rw [hp, bare_modFrag, Group.modFrag, frag_bare, ← bare_wr]
    rfl
  rw [e, blankS, modFrag_modFrag, blankS]
  simp only [wr_wr]

/-- What a scalar word does to its group. -/
def scalarEffect (pk : BitVec 2) (d : BitVec 6) (lat : Nat) (f : Ctx → Word) (x : Ctx) (g : Group) : Group :=
  if x.live pk then g.putS x d lat (f x) else g

theorem scalar_eq_issueG (i : Instr) (pk : BitVec 2) (d : BitVec 6) (lat : Nat) (f : Ctx → Word) (s : State) :
    scalar i pk d lat f s = issueG i s (scalarEffect pk d lat f) := rfl

theorem accounts_scalarEffect (pk : BitVec 2) (d : BitVec 6) (lat : Nat) (f : Ctx → Word) (x : Ctx) (g : Group) :
    (scalarEffect pk d lat f x g).accounts x.fid = g.accounts x.fid := by
  unfold scalarEffect
  split
  · exact accounts_putS ..
  · rfl

theorem rd_scalarEffect (pk : BitVec 2) (d : BitVec 6) (lat : Nat) (f : Ctx → Word) (x : Ctx) (g : Group) :
    ((scalarEffect pk d lat f x g).frag x.fid).rd d =
      if d = 0#6 then 0#64 else if x.live pk then f x else (g.frag x.fid).rd d := by
  unfold scalarEffect
  by_cases hl : x.live pk
  · simp only [hl, if_true]
    exact rd_putS ..
  · simp only [hl]
    by_cases hd : d = 0#6
    · subst hd
      rfl
    · simp [hd]

theorem blankS_bare_scalarEffect (pk : BitVec 2) (d : BitVec 6) (lat : Nat) (f : Ctx → Word) (x : Ctx) (g : Group) :
    blankS ((scalarEffect pk d lat f x g).bare x.fid) x.fid d = blankS (g.bare x.fid) x.fid d := by
  unfold scalarEffect
  split
  · exact blankS_bare_putS ..
  · rfl

/-- A word that runs as a scalar word completes with the value of its rule in sD, and changes nothing else. -/
theorem scalar_completes {i : Instr} {s : State} {g : Group} {x : Ctx} {pk : BitVec 2} {d : BitVec 6} {lat : Nat} {f : Ctx → Word}
    (h : Issues i s g x 0 0) (hx : exec i s = scalar i pk d lat f s) (hv : (useIn x.hs i).vw = []) :
    ∃ t k, Completes i s g x 0 0 t k ∧
      (k.frag x.fid).rd d = (if d = 0#6 then 0#64 else if x.live pk then f x else (g.frag x.fid).rd d) ∧
      blankS (k.bare x.fid) x.fid d = blankS (g.ran (s.counts g) x.fid) x.fid d := by
  obtain ⟨t, n, hc⟩ := issueG_completes_group h (hx.trans (scalar_eq_issueG ..)) (accounts_scalarEffect pk d lat f x)
  refine ⟨t, _, hc, ?_, ?_⟩
  · obtain ⟨p, hp⟩ := frag_finished x i n (x.advanced i s g) (scalarEffect pk d lat f x (x.advanced i s g))
    have hk : ((x.advanced i s g).frag x.fid).rd d = (g.frag x.fid).rd d := by
      rw [Ctx.advanced, frag_advance]
      rfl
    rw [hp, ← hk, ← rd_scalarEffect]
    rfl
  · rw [bare_finished, unmark_of_no_vector hv, blankS_bare_scalarEffect, Ctx.advanced, bare_advance, State.counts]

/-- Each word that `scalarValue` knows runs as a scalar word whose result is the value it gives, and names no vector destination. -/
theorem exec_of_scalarValue {x : Ctx} {i : Instr} {pk : BitVec 2} {d : BitVec 6} {v : Word} (h : scalarValue x i = some (pk, d, v)) :
    (∃ lat f, (∀ s, exec i s = scalar i pk d lat f s) ∧ f x = v) ∧ ∀ hs, (useIn hs i).vw = [] := by
  unfold scalarValue at h
  split at h
  all_goals cases h
  all_goals refine ⟨⟨_, _, fun _ => rfl, ?_⟩, fun _ => rfl⟩
  -- add, sub (R104)
  · rfl
  · rfl
  -- mul, mulh, mulhn (R105)
  · exact mul_eq_ofInt _ _
  · exact mulhWord_eq _ _
  · exact mulhnWord_eq _ _
  -- div, divn, rem, remn (R105)
  · exact divWord_eq _ _
  · exact divnWord_eq _ _
  · exact remWord_eq _ _
  · exact remnWord_eq _ _
  -- and, or, xor, andn (R104)
  · rfl
  · rfl
  · rfl
  · rfl
  -- shl, shr, sra (R106)
  · exact shlWord_eq _ _
  · exact shrWord_eq _ _
  · exact sraWord_eq _ _
  -- clz, popc (R104)
  · exact congrArg _ (clzBits_eq _)
  · exact congrArg _ (popCount_eq_countP _)
  -- min, minn, max, maxn (R104)
  · exact smin_eq_ofInt _ _
  · exact umin_eq_ofNat _ _
  · exact smax_eq_ofInt _ _
  · exact umax_eq_ofNat _ _
  -- sel, mov (R108, R104)
  · exact ite_not ..
  · rfl
  -- the comparisons (R108)
  · exact boolWord_of_iff beq_iff_eq
  · exact (boolWord_of_iff bne_iff_ne).trans (ite_not ..)
  · exact boolWord_of_iff BitVec.slt_iff_toInt_lt
  · exact boolWord_of_iff BitVec.ult_iff_toNat_lt
  · exact boolWord_of_iff BitVec.sle_iff_toInt_le
  · exact boolWord_of_iff BitVec.ule_iff_toNat_le
  -- the words with an immediate (R107)
  · rfl
  · rfl
  · rfl
  · rfl
  · exact shiftLeft_eq_ofNat _ _
  · exact ushiftRight_eq_ofNat _ _
  · exact sshiftRight_eq_ofInt _ _
  · rfl

/-- Settles O1: every scalar word runs as a scalar word (`exec_of_scalarValue`), and such a word completes (`scalar_completes`). -/
theorem scalarResults : Obligations.ScalarResults := by
  intro i s g x pk d v hi hv
  obtain ⟨⟨lat, f, hx, rfl⟩, hw⟩ := exec_of_scalarValue hv
  exact scalar_completes hi (hx s) (hw x.hs)

end Sys2Proof.Machine

/-! ## Vector words of the integer rules (R194, R198 to R203) -/

namespace Sys2Proof.Machine

open Sys2Proof.Claims

/-! ### The operations of a lane by the exact numbers -/

/-- The high half of the signed product of two words is the exact product's quotient (R198). -/
theorem mulHigh_eq_ofInt {w : Nat} (a b : BitVec w) :
    (a.signExtend (w + w) * b.signExtend (w + w)).extractLsb' w w = BitVec.ofInt w (a.toInt * b.toInt / 2 ^ w) := by
  rw [mul_eq_ofInt, BitVec.toInt_signExtend_of_le (by omega), BitVec.toInt_signExtend_of_le (by omega)]
  exact extract_high_ofInt _

/-- The same of the natural product, which the double width holds. -/
theorem mulHigh_eq_ofNat {w : Nat} (a b : BitVec w) :
    (a.setWidth (w + w) * b.setWidth (w + w)).extractLsb' w w = BitVec.ofNat w (a.toNat * b.toNat / 2 ^ w) := by
  have hp : a.toNat * b.toNat < 2 ^ (w + w) := by
    rw [pow_add]
    exact Nat.mul_lt_mul'' a.isLt b.isLt
  apply BitVec.eq_of_toNat_eq
  rw [BitVec.extractLsb'_toNat, BitVec.toNat_mul, BitVec.toNat_setWidth_of_le (by omega), BitVec.toNat_setWidth_of_le (by omega),
    Nat.mod_eq_of_lt hp, Nat.shiftRight_eq_div_pow, BitVec.toNat_ofNat]

/-- The magnitude of a signed word; that of the least one does not fit and wraps to the word itself (R201). -/
theorem abs_eq_ofNat {w : Nat} (a : BitVec w) : (if a.slt 0#w then 0#w - a else a) = BitVec.ofNat w a.toInt.natAbs := by
  have e : BitVec.ofNat w a.toInt.natAbs = BitVec.ofInt w |a.toInt| := by rw [← Int.natCast_natAbs, BitVec.ofInt_natCast]
  rw [e]
  simp only [BitVec.slt_iff_toInt_lt, BitVec.toInt_zero]
  split
  · rw [abs_of_neg ‹_›, BitVec.ofInt_neg, BitVec.ofInt_toInt, BitVec.zero_sub]
  · rw [abs_of_nonneg (not_lt.1 ‹_›), BitVec.ofInt_toInt]

/-! ### Saturation (R188, R198) -/

/-- Under SAT the exact result is kept in its range, and SAT is raised exactly where it lay outside. -/
theorem satInt_eq (sat : Bool) {lo hi : Int} (h : lo ≤ hi) (n : Int) :
    satInt sat lo hi n = (kept sat lo hi n, { sat := sat && decide (n < lo ∨ hi < n) }) := by
  unfold satInt kept
  cases sat
  · simp
  · by_cases hl : n < lo
    · simp [hl, show min hi n = n by omega, show max lo n = lo by omega]
    · by_cases hh : hi < n
      · simp [hl, hh, show min hi n = hi by omega, show max lo hi = hi by omega]
      · simp [hl, hh, show min hi n = n by omega, show max lo n = n by omega]

/-- A signed lane of a word that accepts SAT, by the exact result of its rule. -/
theorem satS_eq {x : Ctx} {i : Instr} {l : Fin 64} {n : Int} (h : laneExact x l i = some (true, n)) :
    satS x.sat n = (i32 x.sat n, { sat := clipped x i l }) := by
  unfold clipped
  rw [h]
  exact satInt_eq _ (by decide) _

/-- A natural one. -/
theorem satN_eq {x : Ctx} {i : Instr} {l : Fin 64} {n : Int} (h : laneExact x l i = some (false, n)) :
    satN x.sat n = (n32 x.sat n, { sat := clipped x i l }) := by
  unfold clipped
  rw [h]
  exact satInt_eq _ (by decide) _

/-- A word without an exact result does not accept SAT. -/
theorem clipped_of_laneExact_none {x : Ctx} {i : Instr} {l : Fin 64} (h : laneExact x l i = none) : clipped x i l = false := by
  simp [clipped, h]

/-! ### The flags of the lanes together (R187) -/

@[simp] theorem outWords_overLanes (m : Mask) (f : Fin 64 → LaneOut) (l : Fin 64) :
    (outWords (overLanes m f))[l.val] = if m.getLsbD l.val then (f l).1 else 0#32 := by
  simp only [outWords, overLanes, Vector.getElem_ofFn]
  split <;> rfl

theorem outFlags_eq_foldl (r : Vector LaneOut 64) : outFlags r = (List.finRange 64).foldl (fun a l => a.or r[l.val].2) {} := by
  rw [outFlags, ← List.map_coe_finRange_eq_range, List.foldl_map]
  simp only [Fin.is_lt, dite_true]

/-- SAT is raised where a listed lane raises it. -/
theorem foldl_or_sat {α : Type} (c : α → Bool) (ls : List α) (b : Bool) :
    ls.foldl (fun a l => a.or { sat := c l }) ({ sat := b } : Flags) = { sat := b || ls.any c } := by
  induction ls generalizing b with
  | nil => simp
  | cons l ls ih =>
    rw [List.foldl_cons, List.any_cons, ← Bool.or_assoc, ← ih]
    rfl

/-- Lanes that raise no flag but SAT raise SAT together, when an active one does. -/
theorem outFlags_overLanes_sat {f : Fin 64 → LaneOut} {c : Fin 64 → Bool} (h : ∀ l, (f l).2 = { sat := c l }) (m : Mask) :
    outFlags (overLanes m f) = { sat := (List.finRange 64).any fun l => m.getLsbD l.val && c l } := by
  have hl (l : Fin 64) : (overLanes m f)[l.val].2 = { sat := m.getLsbD l.val && c l } := by
    simp only [overLanes, Vector.getElem_ofFn]
    cases m.getLsbD l.val
    · rfl
    · exact h l
  rw [outFlags_eq_foldl]
  simp only [hl]
  rw [foldl_or_sat, Bool.false_or]

/-- SAT is bit 5 of %fflags (R93). -/
theorem bits_sat (b : Bool) : ({ sat := b } : Flags).bits = if b then 0x20#6 else 0#6 := by
  cases b <;> rfl

/-! ### The effect of a vector word on its group -/

/-- Only the lanes of the mask count in a write. -/
theorem wrV_congr (g : Group) (d : BitVec 6) {m : Mask} {v w : Lanes} (h : ∀ l : Fin 64, m.getLsbD l.val = true → v[l.val] = w[l.val]) :
    g.wrV d m v = g.wrV d m w := by
  have e (l : Fin 64) : (if m.getLsbD l.val then v[l.val] else g.v[d.toNat][l.val]) = if m.getLsbD l.val then w[l.val] else g.v[d.toNat][l.val] := by
    split
    · exact h l ‹_›
    · rfl
  simp only [Group.wrV, e]

/-- A vector result writes its register, and its latency stands in the pending writes. -/
theorem putV_eq (g : Group) (x : Ctx) (d : BitVec 6) (lat : Nat) (m : Mask) (v : Lanes) : ∃ p : Frag → List Pend,
    g.putV x d lat m v = (g.wrV d m v).modFrag x.fid fun f => { f with pend := p f } := by
  unfold Group.putV
  split
  · exact ⟨Frag.pend, (setFrag_frag (g.wrV d m v) x.fid).symm⟩
  · exact ⟨_, rfl⟩

/-- What a vector word does to its group: the active lanes of vD are written, and their flags raised. -/
def lanesEffect (m : Ctx → Mask) (d : BitVec 6) (lat : Nat) (f : Ctx → Fin 64 → LaneOut) (x : Ctx) (g : Group) : Group :=
  (g.putV x d lat (m x) (outWords (overLanes (m x) (f x)))).raise (outFlags (overLanes (m x) (f x)))

theorem vectorFl_eq_issueG (i : Instr) (m : Ctx → Mask) (d : BitVec 6) (lat : Nat) (f : Ctx → Fin 64 → LaneOut) (s : State) :
    vectorFl i m d lat f s = issueG i s (lanesEffect m d lat f) := rfl

/-- A vector word that raises no flag is one whose lanes raise none. -/
theorem vector_eq_vectorFl (i : Instr) (m : Ctx → Mask) (d : BitVec 6) (lat : Nat) (f : Ctx → Fin 64 → BitVec 32) (s : State) :
    vector i m d lat f s = vectorFl i m d lat (fun x l => (f x l, {})) s := by
  have e : (fun (x : Ctx) (g : Group) => g.putV x d lat (m x) (Vector.ofFn (f x))) = lanesEffect m d lat fun x l => (f x l, {}) := by
    funext x g
    have hw : g.wrV d (m x) (outWords (overLanes (m x) fun l => (f x l, {}))) = g.wrV d (m x) (Vector.ofFn (f x)) :=
      wrV_congr g d fun l hl => by simp [hl]
    have hf : outFlags (overLanes (m x) fun l => (f x l, {})) = {} := by
      rw [outFlags_overLanes_sat (c := fun _ => false) fun _ => rfl]
      simp
    rw [lanesEffect, hf]
    simp [Group.raise, Group.putV, hw, Flags.bits]
  rw [vectorFl_eq_issueG, ← e]
  rfl

/-- The effect in the parts that a statement speaks of: the written lanes, the flags, and the pending writes of the fragment. -/
theorem lanesEffect_eq (m : Ctx → Mask) (d : BitVec 6) (lat : Nat) (f : Ctx → Fin 64 → LaneOut) (x : Ctx) (g : Group) :
    ∃ p : Frag → List Pend, lanesEffect m d lat f x g =
      { (g.wrV d (m x) (outWords (overLanes (m x) (f x)))).modFrag x.fid fun k => { k with pend := p k } with
        fflags := g.fflags ||| (outFlags (overLanes (m x) (f x))).bits } := by
  obtain ⟨p, hp⟩ := putV_eq g x d lat (m x) (outWords (overLanes (m x) (f x)))
  refine ⟨p, ?_⟩
  rw [lanesEffect, hp]
  rfl

theorem accounts_lanesEffect (m : Ctx → Mask) (d : BitVec 6) (lat : Nat) (f : Ctx → Fin 64 → LaneOut) (x : Ctx) (g : Group) :
    (lanesEffect m d lat f x g).accounts x.fid = g.accounts x.fid := by
  obtain ⟨p, hp⟩ := lanesEffect_eq m d lat f x g
  have hf : (lanesEffect m d lat f x g).frag x.fid = { g.frag x.fid with pend := p (g.frag x.fid) } := by
    rw [hp]
    exact (g.wrV d _ _).frag_modFrag x.fid fun k => { k with pend := p k }
  rw [Group.accounts, hf, hp]
  rfl

theorem rdV_lanesEffect (m : Ctx → Mask) (d : BitVec 6) (lat : Nat) (f : Ctx → Fin 64 → LaneOut) (x : Ctx) (g : Group) (l : Fin 64) :
    ((lanesEffect m d lat f x g).rdV d)[l.val] = if (m x).getLsbD l.val then (f x l).1 else (g.rdV d)[l.val] := by
  obtain ⟨p, hp⟩ := lanesEffect_eq m d lat f x g
  have hr : (lanesEffect m d lat f x g).rdV d = (g.wrV d (m x) (outWords (overLanes (m x) (f x)))).rdV d := by
    rw [hp]
    rfl
  rw [hr, Group.rdV_wrV, outWords_overLanes]
  split <;> rfl

theorem fflags_lanesEffect (m : Ctx → Mask) (d : BitVec 6) (lat : Nat) (f : Ctx → Fin 64 → LaneOut) (x : Ctx) (g : Group) :
    (lanesEffect m d lat f x g).fflags = g.fflags ||| (outFlags (overLanes (m x) (f x))).bits := by
  obtain ⟨p, hp⟩ := lanesEffect_eq m d lat f x g
  rw [hp]

/-! ### What a vector word leaves alone -/

/-- A written register does not show when it is blanked. -/
theorem blankV_wrV (g : Group) (d : BitVec 6) (m : Mask) (v : Lanes) : blankV (g.wrV d m v) d.toNat = blankV g d.toNat := by
  have e (n : Fin 64) : (if n.val = d.toNat then Vector.replicate 64 0#32 else (g.wrV d m v).v[n.val]) =
      if n.val = d.toNat then Vector.replicate 64 0#32 else g.v[n.val] := by
    split
    · rfl
    · exact Vector.getElem_set_ne d.isLt n.isLt (Ne.symm ‹_›)
  unfold blankV
  simp only [e]
  rfl

/-- Nor does the gate mark that a completed word takes off its only vector destination. -/
theorem blankV_unmark {x : Ctx} {i : Instr} {d : BitVec 6} (h : (useIn x.hs i).vw = [d.toNat]) (g k : Group) :
    blankV { k with vmarks := (x.unmark i g).vmarks } d.toNat = blankV { k with vmarks := g.vmarks } d.toNat := by
  have e (n : Fin 64) : (if n.val = d.toNat then Mark.none else (x.unmark i g).vmarks[n.val]) =
      if n.val = d.toNat then Mark.none else g.vmarks[n.val] := by
    split
    · rfl
    · simp only [Ctx.unmark, h]
      split
      · rfl
      · simp [*]
  unfold blankV
  simp only [e]

theorem bare_with_fflags (g : Group) (n : Nat) (a : BitVec 6) : Group.bare { g with fflags := a } n = { g.bare n with fflags := a } := rfl

theorem bare_wrV (g : Group) (n : Nat) (d : BitVec 6) (m : Mask) (v : Lanes) : (g.wrV d m v).bare n = (g.bare n).wrV d m v := rfl

/-- The pending writes do not show in the bare group, so of the effect its flags and its register are left. -/
theorem bare_lanesEffect (m : Ctx → Mask) (d : BitVec 6) (lat : Nat) (f : Ctx → Fin 64 → LaneOut) (x : Ctx) (g : Group) :
    (lanesEffect m d lat f x g).bare x.fid =
      { (g.bare x.fid).wrV d (m x) (outWords (overLanes (m x) (f x))) with fflags := g.fflags ||| (outFlags (overLanes (m x) (f x))).bits } := by
  obtain ⟨p, hp⟩ := lanesEffect_eq m d lat f x g
  rw [hp, bare_with_fflags, bare_modFrag_of_bare rfl, bare_wrV]

/-- Of a completed vector word only the flags and its register with its mark show in the bare group. -/
theorem blankV_finished_lanesEffect {i : Instr} {d : BitVec 6} {x : Ctx} (h : (useIn x.hs i).vw = [d.toNat]) (n : Nat) (o : Group)
    (m : Ctx → Mask) (lat : Nat) (f : Ctx → Fin 64 → LaneOut) (g : Group) :
    blankV { (x.finished i n o (lanesEffect m d lat f x g)).bare x.fid with fflags := 0#6 } d.toNat =
      blankV { g.bare x.fid with fflags := 0#6 } d.toNat := by
  obtain ⟨a, ha⟩ := unmark_eq x i (lanesEffect m d lat f x g)
  have hm : a = (x.unmark i (lanesEffect m d lat f x g)).vmarks := by rw [ha]
  calc blankV { (x.finished i n o (lanesEffect m d lat f x g)).bare x.fid with fflags := 0#6 } d.toNat
    _ = blankV { { (lanesEffect m d lat f x g).bare x.fid with fflags := 0#6 } with vmarks := a } d.toNat := by
        rw [bare_finished, ha]
        rfl
    _ = blankV { (lanesEffect m d lat f x g).bare x.fid with fflags := 0#6 } d.toNat := by
        rw [hm, blankV_unmark h]
        rfl
    _ = blankV (({ g.bare x.fid with fflags := 0#6 } : Group).wrV d (m x) (outWords (overLanes (m x) (f x)))) d.toNat := by
        rw [bare_lanesEffect]
        rfl
    _ = blankV { g.bare x.fid with fflags := 0#6 } d.toNat := blankV_wrV ..

/-! ### Completion -/

/-- The advance leaves the vector registers and the flags to the word's effect. -/
theorem rdV_fflags_advance (g : Group) (fid : Nat) (hs : List Instr) (a : Word) (n : Nat) (u : Use) (ci cm : Nat) (det : Bool) (d : BitVec 6) :
    (g.advance fid hs a n u ci cm det).rdV d = g.rdV d ∧ (g.advance fid hs a n u ci cm det).fflags = g.fflags := by
  cases h : det && g.aside.isNone <;> simp only [Group.advance, h] <;> exact ⟨rfl, rfl⟩

/-- A word that runs as a vector word completes: the active lanes of vD get its values, its flags are raised, and nothing else changes
(R187, R194). -/
theorem vectorFl_completes {i : Instr} {s : State} {g : Group} {x : Ctx} {m : Ctx → Mask} {d : BitVec 6} {lat : Nat}
    {f : Ctx → Fin 64 → LaneOut} (h : Issues i s g x 0 0) (hx : exec i s = vectorFl i m d lat f s) (hv : (useIn x.hs i).vw = [d.toNat]) :
    ∃ t k, Completes i s g x 0 0 t k ∧
      (∀ l : Fin 64, (k.rdV d)[l.val] = if (m x).getLsbD l.val then (f x l).1 else (g.rdV d)[l.val]) ∧
      k.fflags = g.fflags ||| (outFlags (overLanes (m x) (f x))).bits ∧
      blankV { k.bare x.fid with fflags := 0#6 } d.toNat = blankV { g.ran (s.counts g) x.fid with fflags := 0#6 } d.toNat := by
  obtain ⟨t, n, hc⟩ := issueG_completes_group h (hx.trans (vectorFl_eq_issueG ..)) (accounts_lanesEffect m d lat f x)
  obtain ⟨hg, hf⟩ : (x.advanced i s g).rdV d = g.rdV d ∧ (x.advanced i s g).fflags = g.fflags := rdV_fflags_advance ..
  obtain ⟨p, a, hfin⟩ := finished_eq x i n (x.advanced i s g) (lanesEffect m d lat f x (x.advanced i s g))
  obtain ⟨q, hq⟩ := unmark_eq x i (lanesEffect m d lat f x (x.advanced i s g))
  refine ⟨t, _, hc, fun l => ?_, ?_, ?_⟩
  · rw [← hg, ← rdV_lanesEffect m d lat f x _ l, hfin, hq]
    rfl
  · rw [← hf, ← fflags_lanesEffect m d lat f, hfin, hq]
    rfl
  · rw [blankV_finished_lanesEffect hv, Ctx.advanced, bare_advance, State.counts]

/-! ### The lane-wise integer words -/

/-- Word `i` runs as a vector word that writes vD, with the lane values of its rule, and each lane raises SAT where it clips. -/
structure LaneWord (x : Ctx) (i : Instr) (m : Ctx → Mask) (d : BitVec 6) (f : Ctx → Fin 64 → LaneOut) : Prop where
  runs   : ∀ s, exec i s = vectorFl i m d 4 f s
  writes : ∀ hs, (useIn hs i).vw = [d.toNat]
  value  : ∀ l, laneValue x l i = some (m x, d, (f x l).1)
  flag   : ∀ l, (f x l).2 = { sat := clipped x i l }

section
variable {x : Ctx} {i : Instr} {m : Ctx → Mask} {d : BitVec 6} {v : Fin 64 → BitVec 32}

/-- A word that accepts SAT is one when its lanes are those of its rule. -/
theorem LaneWord.of_vectorFl {f : Ctx → Fin 64 → LaneOut} (hx : ∀ s, exec i s = vectorFl i m d 4 f s)
    (hw : ∀ hs, (useIn hs i).vw = [d.toNat]) (hv : ∀ l, laneValue x l i = some (m x, d, v l))
    (hf : ∀ l, f x l = (v l, { sat := clipped x i l })) : LaneWord x i m d f where
  runs := hx
  writes := hw
  value l := by rw [hv, hf]
  flag l := by rw [hf]

/-- A word that raises no flag is one when it computes the values of its rule, which gives no exact result to clip. -/
theorem LaneWord.of_vector {f : Ctx → Fin 64 → BitVec 32} (hx : ∀ s, exec i s = vector i m d 4 f s)
    (hw : ∀ hs, (useIn hs i).vw = [d.toNat]) (hv : ∀ l, laneValue x l i = some (m x, d, v l)) (he : ∀ l, laneExact x l i = none)
    (hf : ∀ l, f x l = v l) : LaneWord x i m d fun x l => (f x l, {}) :=
  .of_vectorFl (fun s => (hx s).trans (vector_eq_vectorFl ..)) hw hv fun l => by rw [hf, clipped_of_laneExact_none (he l)]

end

/-- Every word that `laneValue` knows is a lane word. -/
theorem exists_laneWord {x : Ctx} {i : Instr} {m : Mask} {d : BitVec 6} {w : BitVec 32} (h : laneValue x 0 i = some (m, d, w)) :
    ∃ m d f, LaneWord x i m d f := by
  unfold laneValue at h
  split at h
  all_goals cases h
  -- vadd, vsub: signed or natural, with SAT (R198)
  iterate 2
    refine ⟨_, _, _, .of_vectorFl (fun _ => rfl) (fun _ => rfl) (fun _ => rfl) fun l => ?_⟩
    split
    · exact satS_eq (by simp [laneExact, *])
    · exact satN_eq (by simp [laneExact, *])
  -- vmul, vmad: signed, with SAT (R198)
  iterate 2 exact ⟨_, _, _, .of_vectorFl (fun _ => rfl) (fun _ => rfl) (fun _ => rfl) fun _ => satS_eq rfl⟩
  -- vaddi, after the words that raise no flag (R202)
  case h_25 => exact ⟨_, _, _, .of_vectorFl (fun _ => rfl) (fun _ => rfl) (fun _ => rfl) fun _ => satS_eq rfl⟩
  all_goals refine ⟨_, _, _, .of_vector (fun _ => rfl) (fun _ => rfl) (fun _ => rfl) (fun _ => rfl) fun _ => ?_⟩
  -- vmulh, vmulhn (R198)
  · exact mulHigh_eq_ofInt _ _
  · exact mulHigh_eq_ofNat _ _
  -- vand, vor, vxor, vandn (R200)
  · rfl
  · rfl
  · rfl
  · rfl
  -- vshl, vshr, vsra (R200)
  · exact shlWord_eq _ _
  · exact shrWord_eq _ _
  · exact sraWord_eq _ _
  -- vmin, vminn, vmax, vmaxn (R200)
  · exact smin_eq_ofInt _ _
  · exact umin_eq_ofNat _ _
  · exact smax_eq_ofInt _ _
  · exact umax_eq_ofNat _ _
  -- vsel (R203)
  · rfl
  -- vabs, vclz, vpopc, the moves, vidx (R201)
  · exact abs_eq_ofNat _
  · exact congrArg _ (clzBits_eq _)
  · exact congrArg _ (popCount_eq_countP _)
  · rfl
  · rfl
  · rfl
  -- the words with an immediate that raise no flag (R202)
  · rfl
  · exact shiftLeft_eq_ofNat _ _
  · exact ushiftRight_eq_ofNat _ _
  · exact sshiftRight_eq_ofInt _ _

/-- Settles O2: every lane-wise integer word runs as a vector word with the lane values of its rule (`exists_laneWord`), and such a word
completes (`vectorFl_completes`). -/
theorem laneWords : Obligations.LaneWords := by
  intro i s g x m d v hi hv
  obtain ⟨lanes, d', f, hw⟩ := exists_laneWord (hv 0)
  have he (l : Fin 64) := (hw.value l).symm.trans (hv l)
  simp only [Option.some.injEq, Prod.mk.injEq] at he
  obtain ⟨rfl, rfl, -⟩ := he 0
  obtain ⟨t, k, hc, hr, hf, hb⟩ := vectorFl_completes hi (hw.runs s) (hw.writes x.hs)
  refine ⟨t, k, hc, fun l => ?_, ?_, hb⟩
  · obtain ⟨-, -, hl⟩ := he l
    rw [hr, hl]
  · rw [hf, outFlags_overLanes_sat hw.flag, bits_sat]

end Sys2Proof.Machine
